-- ==== Sys2Proof/Word.lean ====
section
/-!
DEFINITION. The word types of the part: a 64-byte line of DRAM, a byte address, the byte enables of a write, a slot set of
the common grid and a 32-bit network or risk-group identifier.
-/

namespace Sys2Proof

/-- One 64-byte line (R183). Byte `i` is bits `8 * i` to `8 * i + 7`, so a little-endian field is a run of bits. -/
abbrev Line := BitVec 512

/-- A byte address on the memory channel. -/
abbrev Addr := BitVec 64

/-- The 64 byte enables of a write, one for each data byte (01, section 1.1). -/
abbrev Enables64 := BitVec 64

/-- A set of slots of the common grid: bit `s` stands for slot `s` (R39, R183). -/
abbrev SlotSet := BitVec 80

/-- A node network ID, or an SRLG ID: 32 bits (R74, R83). -/
abbrev Id32 := BitVec 32

/-- The line number of a byte address: 64 bytes a line. -/
def lineNumber (a : Addr) : Nat := a.toNat / 64

/-- The byte address of a line number. -/
def lineAddr (n : Nat) : Addr := BitVec.ofNat 64 (64 * n)

end Sys2Proof
end

