-- ==== Sys2Proof/Config.lean ====
section
/-!
DEFINITION. The quantities the part fixes (00_scope.md, "Principal quantities"). The spec leaves no value of the part open,
so there is no free value here.
-/

namespace Sys2Proof.Config

@[simp] def writeBackItems : Nat := 64
@[simp] def holdEntries : Nat := 8
@[simp] def intakeRecords : Nat := 64
@[simp] def requestEntries : Nat := 16
@[simp] def strikeEvents : Nat := 32
@[simp] def nodeEntries : Nat := 256
@[simp] def portEntries : Nat := 2048
@[simp] def linkEntries : Nat := 1024
@[simp] def pathEntries : Nat := 512
@[simp] def domains : Nat := 16
@[simp] def gridSlots : Nat := 80
/-- Lines of the export window (R16). -/
@[simp] def exportLines : Nat := 3840
/-- Lines of the anchor page (R5). -/
@[simp] def anchorLines : Nat := 64
/-- The saturated noise value, which marks an opaque element (R49, R50, R53). -/
@[simp] def opaqueNoise : Nat := 65535
/-- The most hops of a route (R117). -/
@[simp] def maxHops : Nat := 20
/-- The most SRLG IDs of a port report or of a link (R83, R99). -/
@[simp] def maxSrlgs : Nat := 6

end Sys2Proof.Config
end

