-- ==== Sys2Proof/Syntax.lean ====
section
/-!
DEFINITION. The commands of the part: one constructor for each row of spec/opcode_table.json, with the operands that come
from outside the part at that step. A row without operands acts on what already stands in the state.
-/

namespace Sys2Proof

/-- A write on the system port: a line address, 64 data bytes and 64 byte enables (01, section 1.1). -/
structure LineWrite where
  addr : Addr
  data : Line
  enables : Enables64
  deriving DecidableEq, Repr

/-- What the DRAM controller answers to a read: 64 data bytes or an error indication (R3). -/
inductive ReadData where
  | line (data : Line)
  | error
  deriving DecidableEq, Repr

/-- A node or port entry, by its index. -/
inductive EntryName where
  | node (i : Nat)
  | port (j : Nat)
  deriving DecidableEq, Repr

/-- The steps of the part (spec/opcode_table.json), in the table's order. -/
inductive Instr where
  | resetAsserted
  /-- The value of the eight anchor strap pins when the reset pin is released. -/
  | resetReleased (straps : BitVec 8)
  /-- The write the interconnect presents with this step, if any; the head of the write channel is then accepted. -/
  | writeAccepted (presented : Option LineWrite)
  | readAccepted (addr : Addr) (tag : Nat)
  | readResponse (tag : Nat) (answer : ReadData)
  /-- The hold entry whose deadline is reached, by its place in the hold table. -/
  | holdDeadline (entry : Nat)
  | writeBackIssue
  | writeBackRoom
  | responseWrite
  | strikeQueueRoom
  | unknownCommand
  | setWindows
  | loadProfile
  | profileReadResponse (answer : ReadData)
  | profileInstallation
  | profileReconversion
  | loadClasses
  | setTiming
  | setReporting
  | start
  | stop
  | drainEnd
  | clearTopology
  | clearTopologyOperation
  | clearPaths
  | restart
  | acknowledgement
  | intakeRecordTaking
  | topologyRequest
  | looseRecordApplication
  | batchApplication
  | entryDue (entry : EntryName)
  | expiry
  | linkIdRelease
  | requestTaking
  | selection
  | grantTakeUp
  | computationEnd
  | downEvent
  | upEvent
  | retireEvent
  deriving DecidableEq, Repr

end Sys2Proof
end

