-- ==== Sys2Proof/WellFormed.lean ====
section
/-!
DEFINITION. Which commands can reach the part: a transaction names a whole line, a hold entry and a table entry exist.
-/

namespace Sys2Proof

/-- An address names a whole line: it is a multiple of 64 (01, section 1.1). -/
def Addr.aligned (a : Addr) : Bool := a.toNat % 64 == 0

/-- The index lies in its table (R74, R79). -/
def EntryName.wellFormed : EntryName → Bool
  | .node i => i < Config.nodeEntries
  | .port j => j < Config.portEntries

/-- The operands of a command lie in the ranges the spec gives them. -/
def Instr.wellFormed : Instr → Bool
  | .writeAccepted (some w) => Addr.aligned w.addr
  | .readAccepted a _ => Addr.aligned a
  | .holdDeadline k => k < Config.holdEntries
  | .entryDue e => e.wellFormed
  | .writeAccepted none | .resetAsserted | .resetReleased _ | .readResponse _ _ | .writeBackIssue | .writeBackRoom
  | .responseWrite | .strikeQueueRoom | .unknownCommand | .setWindows | .loadProfile | .profileReadResponse _
  | .profileInstallation | .profileReconversion | .loadClasses | .setTiming | .setReporting | .start | .stop | .drainEnd
  | .clearTopology | .clearTopologyOperation | .clearPaths | .restart | .acknowledgement | .intakeRecordTaking
  | .topologyRequest | .looseRecordApplication | .batchApplication | .expiry | .linkIdRelease | .requestTaking
  | .selection | .grantTakeUp | .computationEnd | .downEvent | .upEvent | .retireEvent => true

end Sys2Proof
end

