-- ==== Sys2Proof/Machine/State.lean ====
section
/-!
DEFINITION. The state of the part as plain data, block by block (00_scope.md, "Block overview"), and its reset value.
Every field names the rule of spec/ that gives it.
-/

namespace Sys2Proof.Machine

/-- A sparse table: index and entry, indices strictly rising, no entry for an index at its default. -/
abbrev Table (α : Type) := List (Nat × α)

/-! ### Ports, windows and write-back (spec/01) -/

/-- A transaction in the memory port's sequence (R2). The part's own read carries a tag of its own (R4), so it is a kind of its own. -/
inductive MemTxn where
  | write (addr : Addr) (data : Line) (enables : Enables64)
  | read (addr : Addr) (tag : Nat)
  | ownWrite (addr : Addr) (data : Line)
  | ownRead (addr : Addr)
  deriving DecidableEq, Repr

/-- An entry in use of the hold table: the read's tag and address, its slot and line, and its deadline (section 1.5). -/
structure Hold where
  tag : Nat
  addr : Addr
  slot : Nat
  line : Nat
  deadline : BitVec 64
  deriving DecidableEq, Repr

/-- The system port and the hold table. `channel` is the write channel: writes presented and not yet accepted, the head first
(R1). `replies` are the read responses returned to the interconnect, oldest first (R3). `holds` are the entries in use, in
acceptance order (R12). -/
structure SystemPort where
  channel : List LineWrite
  replies : List (Nat × ReadData)
  holds : List Hold
  deriving DecidableEq, Repr

/-- The memory port. `sequence` is every transaction in the order it entered the memory sequence since the reset pin (R2);
`reads` are the forwarded reads not yet answered; `ownRead` is the part's own read in flight (R4). -/
structure MemoryPort where
  sequence : List MemTxn
  reads : List (Nat × Addr)
  ownRead : Option Addr
  deriving DecidableEq, Repr

/-- The four descriptors SET_WINDOWS sets together (R5), their bases as line numbers. -/
structure Windows where
  intakeBase : Nat
  intakeLines : Nat
  requestBase : Nat
  requestSlots : Nat
  exportBase : Nat
  noticeBase : Nat
  noticeLines : Nat
  deriving DecidableEq, Repr

/-- The window decoder (R5): the line number of the anchor page, and the four descriptors when set. -/
structure Decoder where
  anchor : Option Nat
  windows : Option Windows
  deriving DecidableEq, Repr

/-- What a reference item names (R16). -/
inductive Ref where
  | node (i : Nat)
  | port (j : Nat)
  | link (k : Nat)
  | path (p : Nat)
  | status
  deriving DecidableEq, Repr

/-- Which result line of which request a content item is. `serial` tells requests of one slot apart (R139). -/
structure ResultMark where
  slot : Nat
  line : Nat
  serial : Nat
  deriving DecidableEq, Repr

/-- An item of the write-back queue (R16). A content item carries its target line, its data, and, for a result line, its mark. -/
inductive WbItem where
  | content (target : Nat) (data : Line) (result : Option ResultMark)
  | ref (r : Ref)
  deriving DecidableEq, Repr

/-- The operations of the part that can be suspended, each a thread of steps (R18, R69, R161, R175). -/
inductive Thread where
  | decoder
  | control
  | intake
  | topology
  | operation
  | strike
  | taking
  | acknowledge
  deriving DecidableEq, Repr

/-- Who waits for room in the write-back queue: a suspended operation, the response write of R22, or the status line reference that
the notice unit queues behind its notices (R175). -/
inductive Waiter where
  | thread (t : Thread)
  | response
  | noticeStatus
  deriving DecidableEq, Repr

/-- The write-back queue, oldest first, and those waiting for room, longest first (R16, R18). -/
structure WriteBack where
  queue : List WbItem
  waiters : List Waiter
  deriving DecidableEq, Repr

/-! ### Control unit (spec/02) -/

/-- The operating modes (R29). -/
inductive Mode where
  | off
  | run
  | drain
  deriving DecidableEq, Repr

/-- The outcomes of commands (R20, codes of R193); `empty` is the code 0 of an empty field. -/
inductive CmdOutcome where
  | empty
  | done
  | unknownCommand
  | badArgument
  | wrongMode
  | busy
  | notEmpty
  | memoryFault
  deriving DecidableEq, Repr

/-- A field of the response image (R20). -/
structure ResponseField where
  tag : BitVec 16
  code : BitVec 16
  outcome : CmdOutcome
  deriving DecidableEq, Repr

/-- The four notice class enables (R20). -/
structure Enables where
  topology : Bool
  intakeFault : Bool
  path : Bool
  request : Bool
  deriving DecidableEq, Repr

/-- A present domain profile (R41) with its slot capability set (R45). -/
structure Profile where
  base : Nat
  stride : Nat
  count : Nat
  multiplier : Nat
  shift : Nat
  classes : BitVec 4
  border : Nat
  transit : Bool
  age : Nat
  slots : SlotSet
  deriving DecidableEq, Repr

/-- Where a command in progress stands (R21, R25, R31, R33, R35). -/
inductive Phase where
  /-- Its items are being queued (R18, R22). -/
  | effects
  /-- LOAD_PROFILE: its read is in flight (R24). -/
  | readInFlight (domain : Nat)
  /-- LOAD_PROFILE: valid data awaits installation (R25). -/
  | awaitInstall (domain : Nat) (profile : Profile)
  /-- LOAD_PROFILE in OFF: the reconversion is wanted or runs (R25, R78). -/
  | reconversion (domain : Nat)
  /-- STOP: the drain (R31). -/
  | draining
  /-- CLEAR_TOPOLOGY: its database operation is wanted or runs (R33, R115). -/
  | clearing
  /-- RESTART: an abandoned profile read is awaited (R35). -/
  | awaitRead
  deriving DecidableEq, Repr

/-- The command in progress: its record (code, tag, arguments) and where it stands. -/
structure Running where
  record : Line
  phase : Phase
  deriving DecidableEq, Repr

/-- The control unit (R20). `handed` are command records handed over and not yet dealt with. -/
structure Control where
  mode : Mode
  handed : List Line
  inProgress : Option Running
  completed : ResponseField
  refused : ResponseField
  holdTimeout : BitVec 16
  enables : Enables
  time : BitVec 64
  deriving DecidableEq, Repr

/-! ### Profile store (spec/03) -/

/-- A class entry: width 1 or 2, budget 1..65534 (R40). -/
structure ClassEntry where
  width : Nat
  budget : Nat
  deriving DecidableEq, Repr

/-- The profile store: profiles by domain, absent when not listed (R41), and the class table (R40). -/
structure ProfileStore where
  domains : Table Profile
  classes : List ClassEntry
  deriving DecidableEq, Repr

/-! ### Intake unit (spec/04) -/

/-- The role of a queued record (R56). -/
inductive Role where
  | loose
  | opening
  | member
  | closing
  deriving DecidableEq, Repr

/-- An entry of the intake queue (R56). -/
structure QueuedRecord where
  record : Line
  offset : Nat
  role : Role
  deriving DecidableEq, Repr

/-- A record handed over with its line offset (R7). -/
structure HandedRecord where
  record : Line
  offset : Nat
  deriving DecidableEq, Repr

/-- The batch state (R56). -/
inductive BatchState where
  | closed
  | opened (tag : BitVec 16)
  | discarding (tag : BitVec 16)
  deriving DecidableEq, Repr

/-- The intake unit (R56, R57). `taking` is the record of a taking that has neither queued nor dropped it yet. -/
structure Intake where
  queue : List QueuedRecord
  batch : BatchState
  handed : List HandedRecord
  taking : Option HandedRecord
  deriving DecidableEq, Repr

/-! ### Topology unit and arbiter (spec/05, spec/06) -/

/-- A node entry in use (R74). -/
structure NodeEntry where
  netId : Id32
  domain : Nat
  rawPenalty : Nat
  penalty : Nat
  transit : Bool
  refresh : BitVec 64
  portCount : Nat
  deriving DecidableEq, Repr

/-- The reported fields of a port, its snapshot for change detection (R83). -/
structure PortReported where
  farId : Id32
  farPort : Nat
  cost : Nat
  raw : Nat
  up : Bool
  srlgs : List Id32
  mask : BitVec 128
  deriving DecidableEq, Repr

/-- The pairing states (R80). -/
inductive Pairing where
  | unanswered
  | contradicted
  | paired
  | waiting
  deriving DecidableEq, Repr

/-- A port entry in use (R79). `link` is the link the port belongs to; between a retirement and the port's next evaluation a
PAIRED port has left its link and holds none (R103). -/
structure PortEntry where
  node : Nat
  number : Nat
  reported : PortReported
  nu : Nat
  foreign : SlotSet
  clipped : Bool
  refresh : BitVec 64
  pairing : Pairing
  link : Option Nat
  deriving DecidableEq, Repr

/-- The states of a link that is not FREE (R98); a FREE link is not listed. -/
inductive LinkState where
  | up
  | down
  | retiring
  deriving DecidableEq, Repr

/-- One end of a link: its port while the link is UP or DOWN, and the identity it keeps in RETIRING (R98). -/
structure LinkEnd where
  port : Option Nat
  netId : Id32
  number : Nat
  deriving DecidableEq, Repr

/-- The derived attributes of a link (R99). -/
structure LinkAttrs where
  cost : Nat
  nu : Nat
  foreign : SlotSet
  srlgs : List Id32
  truncated : Bool
  interDomain : Bool
  deriving DecidableEq, Repr

/-- A link entry that is not FREE (R98), with the answered mark of R106. -/
structure LinkEntry where
  state : LinkState
  endA : LinkEnd
  endB : LinkEnd
  attrs : LinkAttrs
  created : BitVec 64
  changed : BitVec 64
  answered : Bool
  deriving DecidableEq, Repr

/-- The kinds of work the topology unit requests the database for (R109). -/
inductive Work where
  | command
  | release (k : Nat)
  | expiry
  | intake
  deriving DecidableEq, Repr

/-- The topology unit: the three tables, the work requested or in operation, and whether its operation is suspended on a full
strike queue (R104, R109). -/
structure Topology where
  nodes : Table NodeEntry
  ports : Table PortEntry
  links : Table LinkEntry
  work : Option Work
  strikeWait : Bool
  deriving DecidableEq, Repr

/-- The two requesters of the database (R110). -/
inductive Requester where
  | topology
  | path
  deriving DecidableEq, Repr

/-- The database arbiter (R110). `grantTime` is the time base at the present grant, the "now" of R66, R67 and R94. -/
structure Arbiter where
  holder : Option Requester
  waitTopology : Bool
  waitPath : Bool
  last : Option Requester
  grantTime : BitVec 64
  deriving DecidableEq, Repr

/-! ### Path engine (spec/07) -/

/-- A route record (R127). -/
structure Route where
  cls : Nat
  start : Nat
  width : Nat
  cost : Nat
  noise : Nat
  hops : Nat
  links : List Nat
  deriving DecidableEq, Repr

/-- A search label (R116). -/
structure Label where
  cost : Nat
  noise : Nat
  hops : Nat
  pred : Option Nat
  final : Bool
  deriving DecidableEq, Repr

/-- The policies (R130, R131). -/
inductive Policy where
  | firstFit
  | lastFit
  | lowestCost
  deriving DecidableEq, Repr

/-- The orderings (R129). -/
inductive OrderMode where
  | cost
  | noise
  | costThenNoise
  deriving DecidableEq, Repr

/-- The inputs of a computation (R117); class `none` is AUTO. -/
structure Inputs where
  srcId : Id32
  dstId : Id32
  cls : Option Nat
  mask : SlotSet
  policy : Policy
  order : OrderMode
  hops : Nat
  exclLinks : List Nat
  exclNodes : List Id32
  pair : Bool
  requireBackup : Bool
  nodeDiverse : Bool
  own : Option Route
  reference : Option Route
  deriving DecidableEq, Repr

/-- The path engine (R116). -/
structure Engine where
  inputs : Option Inputs
  labels : Table Label
  best : Option Route
  primary : Option Route
  cls : Option Nat
  deriving DecidableEq, Repr

/-! ### Path table unit (spec/08, spec/09) -/

/-- What the unit keeps of a pending slot: the tag of its request (R36), which request it is, and whether the part's line 2
for it has been issued (R12). -/
structure PendingSlot where
  tag : BitVec 32
  serial : Nat
  line2Issued : Bool
  deriving DecidableEq, Repr

/-- A request handed over with its slot index (R140). -/
structure HandedRequest where
  slot : Nat
  record : Line
  deriving DecidableEq, Repr

/-- An entry of the request queue (R141). -/
structure QueuedRequest where
  slot : Nat
  record : Line
  valid : Bool
  serial : Nat
  deriving DecidableEq, Repr

/-- An item of the operation slot (R143). -/
inductive Item where
  | request (q : QueuedRequest)
  | restoration (p : Nat)
  deriving DecidableEq, Repr

/-- Where the selected item stands: waiting for its grant to be taken up (R144), computing (R116), or queueing its items (R154). -/
inductive ItemPhase where
  | waiting
  | computing
  | answering
  deriving DecidableEq, Repr

/-- The operation slot when not free; `runBefore` is the run count before the selection (R144). -/
structure Operation where
  item : Item
  phase : ItemPhase
  runBefore : Nat
  deriving DecidableEq, Repr

/-- The states of a path in use (R159). -/
inductive PathState where
  | active
  | exposed
  | onBackup
  | held
  | restoring
  | down
  deriving DecidableEq, Repr

/-- The restore modes (R160). -/
inductive RestoreMode where
  | hold
  | release
  | reroute
  deriving DecidableEq, Repr

/-- A route held by a path with its struck count (R155). -/
structure HeldRoute where
  route : Route
  struck : Nat
  deriving DecidableEq, Repr

/-- A path entry in use (R155); its generation is kept apart, since it outlives the entry (R34). -/
structure PathEntry where
  state : PathState
  srcId : Id32
  dstId : Id32
  srcIndex : Nat
  dstIndex : Nat
  cls : Nat
  restore : RestoreMode
  revertive : Bool
  nodeDiverse : Bool
  primary : Option HeldRoute
  backup : Option HeldRoute
  originTag : BitVec 32
  deriving DecidableEq, Repr

/-- The kinds of strike events (R104). -/
inductive StrikeKind where
  | down
  | up
  | retire
  deriving DecidableEq, Repr

/-- A strike event (R104). -/
structure Strike where
  kind : StrikeKind
  link : Nat
  deriving DecidableEq, Repr

/-- The path table unit. `taking` says that a taking is under way whose request is still counted (R140). `serial` is the
model's own counter. `view` lists the link IDs whose down flag is set (R158); `restoration` is the restoration set (R159). -/
structure PathUnit where
  pendingSlots : Table PendingSlot
  handed : List HandedRequest
  taking : Bool
  queue : List QueuedRequest
  serial : Nat
  slot : Option Operation
  runCount : Nat
  entries : Table PathEntry
  generations : Table (BitVec 16)
  reserved : Table SlotSet
  view : List Nat
  strikes : List Strike
  restoration : List Nat
  deriving DecidableEq, Repr

/-! ### Notice unit (spec/10) -/

/-- The reasons of PATH_STATE (R168). -/
inductive PathReason where
  | requested
  | linkDown
  | linkUp
  | linkRetired
  | restored
  | restoreFailed
  deriving DecidableEq, Repr

/-- A path notice record (R179). -/
structure NoticeRecord where
  outstanding : Bool
  due : Bool
  lastGen : BitVec 16
  count : Nat
  reason : Option PathReason
  deriving DecidableEq, Repr

/-- An acknowledgement handed over (R177): its line. -/
abbrev AckRecord := Line

/-- The notice unit (R174). `turn` lists the operations whose posts are being taken, the one in hand first (R175). -/
structure NoticeUnit where
  producer : BitVec 32
  consumer : BitVec 32
  lost : Bool
  records : Table NoticeRecord
  handed : List AckRecord
  turn : List Thread
  deriving DecidableEq, Repr

/-- Reasons of NODE_REMOVED, PORT_STATE and LINK_RETIRED (R193). -/
inductive TopoReason where
  | reported
  | withdrawn
  | aged
  | linkFreed
  | claimChanged
  deriving DecidableEq, Repr

/-- Reasons of LINK_UP and LINK_DOWN (R193). -/
inductive LinkReason where
  | new
  | recovered
  | portDown
  deriving DecidableEq, Repr

/-- Reasons of RECORD_FAULT (R70). -/
inductive RecordReason where
  | badField
  | unknownReporter
  | profileMissing
  | tableFull
  deriving DecidableEq, Repr

/-- Reasons of BATCH_FAULT (R71). -/
inductive BatchReason where
  | overflow
  | nested
  | stopped
  | closeMismatch
  deriving DecidableEq, Repr

/-- The observed classes a PARTIAL_WRITE names (R178). -/
inductive Observed where
  | command
  | acknowledgement
  | intake
  | request
  deriving DecidableEq, Repr

/-- A notice other than PATH_STATE with its contents (R178, R190). A pairing state `none` is ABSENT. -/
inductive Notice where
  | nodeAdded (i : Nat) (e : NodeEntry)
  | nodeChanged (i : Nat) (e : NodeEntry) (domain penalty transit : Bool)
  | nodeRemoved (i : Nat) (id : Id32) (why : TopoReason) (ports : Nat)
  | portState (j : Nat) (id : Id32) (number : Nat) (farId : Id32) (farPort : Nat) (old new : Option Pairing)
      (oldLink newLink : Option Nat) (why : TopoReason)
  | linkUp (k : Nat) (why : LinkReason) (e : LinkEntry)
  | linkDown (k : Nat) (why : LinkReason) (e : LinkEntry) (aDown bDown : Bool)
  | linkChanged (k : Nat) (old new : LinkAttrs)
  | linkRetired (k : Nat) (why : TopoReason) (e : LinkEntry) (former : LinkState)
  | recordFault (why : RecordReason) (record : Line) (offset : Nat)
  | batchFault (why : BatchReason) (kind : Nat) (tag openTag : BitVec 16) (offset removed : Nat)
  | partialWrite (addr : Addr) (observed : Observed) (enables : Nat)
  | requestRefused (slot : Nat) (tag : BitVec 32) (kind : Nat)
  deriving DecidableEq, Repr

/-! ### Operations in progress -/

/-- The outcomes of requests and backups (R154, R153; codes of R193). -/
inductive ReqOutcome where
  | none
  | ok
  | noPath
  | noBackup
  | unknownNode
  | sameNode
  | badRequest
  | classUnsupported
  | tableFull
  | unknownPath
  | wrongState
  | aborted
  deriving DecidableEq, Repr

/-- Where the route of a result line comes from when the line is queued (R152, R153). -/
inductive RouteSource where
  | absent
  | fixed (r : Route)
  | primaryOf (p : Nat)
  | backupOf (p : Nat)
  deriving DecidableEq, Repr

/-- A result line to be queued: line 1, or line 2 (R152, R153). -/
inductive ResultLine where
  | first (tag : BitVec 32) (outcome : ReqOutcome) (cls : Option Nat) (path : Option Nat) (route : RouteSource)
  | second (tag : BitVec 32) (outcome : ReqOutcome) (route : RouteSource)
  deriving DecidableEq, Repr

/-- One step of an operation. An operation in progress is the list of its remaining steps, so that it can be suspended at any
point where the spec lets it wait and can go on from there (R18, R69, R161). -/
inductive Op where
  /-- Queue a reference item (R16, R17). -/
  | ref (r : Ref)
  /-- Post a notice (R175). -/
  | post (n : Notice)
  /-- Queue a notice found writable (R175 step 3). -/
  | notice (n : Notice)
  /-- Post PATH_STATE for a path (R179). -/
  | postPath (p : Nat) (why : PathReason)
  /-- Queue a PATH_STATE; `last` ends the post (R179, R181). -/
  | writePath (p : Nat) (last : Bool)
  /-- Write the deferred path notices from path `p` upward (R181). -/
  | drain (p : Nat)
  /-- A path acknowledgement (R180). -/
  | ackPath (p : Nat) (gen : BitVec 16)
  /-- The notice unit turns to the next post (R175). -/
  | unlock
  /-- The end of a taking, with its overflow test (R57, R64). -/
  | takeFinish (r : HandedRecord)
  /-- Queue the opening marker of the nesting BATCH_OPEN in taking (R61). -/
  | openBatch
  /-- The abort of STOP, once nothing awaits taking (R72). -/
  | stopCheck
  /-- The end of a request's taking (R140). -/
  | requestFinish
  /-- Apply one report record (R66). -/
  | applyRecord (record : Line) (offset : Nat)
  /-- Bring the nodes of a domain from index `i` upward into line with its profile (R78). -/
  | reconvertNodes (domain i : Nat)
  /-- Bring the ports of a node from index `j` upward into line with its profile (R77). -/
  | reconvertPorts (node j : Nat)
  /-- Derive a link's attributes again (R102). -/
  | linkAttributes (k : Nat)
  /-- Derive a link's state again (R101). -/
  | linkState (k : Nat)
  /-- Retire a link (R103). -/
  | retireLink (k : Nat) (why : TopoReason)
  /-- Move a port to a pairing state without a link (R87 steps 1 and 2). -/
  | portMove (j : Nat) (next : Pairing) (oldLink : Option Nat) (why : TopoReason)
  /-- A port takes newly reported fields with a new claim (R87 step 3). -/
  | repoint (j : Nat) (f : PortReported)
  /-- Evaluate a port against its target (R81), then queue what R88 steps 4 to 6 give. -/
  | evaluate (j : Nat) (old : Option Pairing) (oldLink : Option Nat)
  /-- Evaluate again the claimants of a port from index `i` upward (R82). -/
  | claimants (j i : Nat)
  /-- Remove a port (R90). -/
  | removePort (j : Nat) (why : TopoReason)
  /-- Free a removed port's entry (R90 step 2). -/
  | freePort (j : Nat) (why : TopoReason) (oldLink : Option Nat) (former : Option (Nat × Nat))
  /-- The claimants of a removed port, from index `i` upward, become UNANSWERED (R90 step 3). -/
  | orphans (id : Id32) (number i : Nat) (why : TopoReason) (former : Option (Nat × Nat))
  /-- Remove the ports of a node from index `j` upward (R91). -/
  | removePorts (n j : Nat) (why : TopoReason) (count : Nat)
  /-- Free a removed node's entry (R91). -/
  | freeNode (n : Nat) (why : TopoReason) (count : Nat)
  /-- Offer a freed link ID to the WAITING pairs (R108). -/
  | offer (k : Nat)
  /-- Send a strike event (R104). -/
  | event (e : Strike)
  /-- The topology unit's operation ends and its grant is released (R110, R111). -/
  | topologyEnd
  /-- Deal with the paths through a link from path `p` upward: DOWN, UP, RETIRE (R161). -/
  | downPaths (k p : Nat)
  | upPaths (k p : Nat)
  | retirePaths (k p : Nat)
  /-- The end of a RETIRE event: RETIRE_DONE (R166, R106). -/
  | retireDone (k : Nat)
  /-- The path table unit releases its grant (R111, R154). -/
  | pathGrantEnd
  /-- Queue a result line (R154). -/
  | result (m : ResultMark) (l : ResultLine)
  /-- The selected item's execution ends (R143). -/
  | operationEnd
  /-- The command in progress ends (R21). -/
  | complete (o : CmdOutcome)
  /-- RESTART steps 4 to 6 up to their reference items, between which nothing waits; step 7; step 9 (R36). -/
  | restartTables
  | restartCounts
  | restartDone
  deriving DecidableEq, Repr

/-- The remaining steps of each operation that can be suspended. -/
structure Threads where
  decoder : List Op
  control : List Op
  intake : List Op
  topology : List Op
  operation : List Op
  strike : List Op
  taking : List Op
  acknowledge : List Op
  deriving DecidableEq, Repr

/-! ### The machine -/

/-- The whole part. `pending` is the queue of commands, first in first out. -/
structure State where
  inReset : Bool
  pending : List Instr
  system : SystemPort
  memory : MemoryPort
  decoder : Decoder
  writeBack : WriteBack
  control : Control
  profiles : ProfileStore
  intake : Intake
  topology : Topology
  arbiter : Arbiter
  engine : Engine
  paths : PathUnit
  notices : NoticeUnit
  threads : Threads
  deriving DecidableEq, Repr

/-- Why a command stops. -/
inductive Fault where
  /-- Raised by WRITE_ACCEPTED and READ_ACCEPTED for an address that is not a multiple of 64: a transaction's address always
  names a whole line (01, section 1.1), so no such transaction exists on the ports. Safe: the model stops. -/
  | unalignedAddress
  deriving DecidableEq, Repr

/-- Why a command has no meaning. -/
inductive Refusal where
  /-- Raised by exec's arm of a command that has no meaning yet; no arm raises it. Safe: the model stops. -/
  | notModelled (mnemonic : String)
  deriving DecidableEq, Repr

/-! ### Reset -/

/-- An empty field of the response image: all its parts are zero (R20). -/
def ResponseField.blank : ResponseField := { tag := 0, code := 0, outcome := .empty }

/-- The class table after the reset pin (R26). -/
def ProfileStore.defaultClasses : List ClassEntry :=
  [{ width := 1, budget := 6000 }, { width := 1, budget := 4000 }, { width := 1, budget := 2500 },
   { width := 2, budget := 1500 }]

/-- No computation in progress, every label place empty (R116). -/
def Engine.idle : Engine := { inputs := none, labels := [], best := none, primary := none, cls := none }

/-- No operation in progress. -/
def Threads.none : Threads :=
  { decoder := [], control := [], intake := [], topology := [], operation := [], strike := [], taking := [],
    acknowledge := [] }

/-- The record of a path that has had no notice (R174). -/
def NoticeRecord.idle : NoticeRecord :=
  { outstanding := false, due := false, lastGen := 0, count := 0, reason := .none }

/-- The state while the reset pin is asserted: every block at the value its chapter gives "after the reset pin". The anchor
descriptor is set, the time base starts and the first status reference is queued only when the pin is released (R5, R37, R38). -/
def State.reset : State where
  inReset := true
  pending := []
  system := { channel := [], replies := [], holds := [] }
  memory := { sequence := [], reads := [], ownRead := none }
  decoder := { anchor := none, windows := none }
  writeBack := { queue := [], waiters := [] }
  control :=
    { mode := .off, handed := [], inProgress := none, completed := .blank, refused := .blank, holdTimeout := 2000,
      enables := { topology := true, intakeFault := true, path := true, request := true }, time := 0 }
  profiles := { domains := [], classes := ProfileStore.defaultClasses }
  intake := { queue := [], batch := .closed, handed := [], taking := none }
  topology := { nodes := [], ports := [], links := [], work := none, strikeWait := false }
  arbiter := { holder := none, waitTopology := false, waitPath := false, last := none, grantTime := 0 }
  engine := Engine.idle
  paths :=
    { pendingSlots := [], handed := [], taking := false, queue := [], serial := 0, slot := none, runCount := 0,
      entries := [], generations := [], reserved := [], view := [], strikes := [], restoration := [] }
  notices := { producer := 0, consumer := 0, lost := false, records := [], handed := [], turn := [] }
  threads := Threads.none

end Sys2Proof.Machine
end

