-- ==== Sys2Proof/Machine/Table.lean ====
section
/-!
DEFINITION. The named operations over the sparse tables and sets of State: reading, writing and freeing an entry, the lowest
free index, the next entry from an index, and the canonical form.
-/

namespace Sys2Proof.Machine

/-- The entry at an index, if there is one. -/
def Table.get? {α : Type} : Table α → Nat → Option α
  | [], _ => none
  | (k, a) :: r, i => if k = i then some a else Table.get? r i

/-- Store an entry at an index, in index order. -/
def Table.set {α : Type} : Table α → Nat → α → Table α
  | [], i, a => [(i, a)]
  | (k, b) :: r, i, a =>
    if i < k then (i, a) :: (k, b) :: r else if i = k then (i, a) :: r else (k, b) :: Table.set r i a

/-- Free the entry at an index. -/
def Table.erase {α : Type} : Table α → Nat → Table α
  | [], _ => []
  | (k, b) :: r, i => if k = i then Table.erase r i else (k, b) :: Table.erase r i

/-- The entry at an index has changed by `f`; an index without an entry stays without one. -/
def Table.modify {α : Type} (t : Table α) (i : Nat) (f : α → α) : Table α :=
  match t.get? i with
  | some a => t.set i (f a)
  | none => t

/-- The value at an index of a table whose unlisted indices hold `d`. -/
def Table.getD {α : Type} (t : Table α) (i : Nat) (d : α) : α := (t.get? i).getD d

/-- Store a value in a table whose unlisted indices hold `d`: the value `d` is not listed. -/
def Table.setD {α : Type} [DecidableEq α] (t : Table α) (i : Nat) (d a : α) : Table α :=
  if a = d then t.erase i else t.set i a

/-- Whether an index has an entry. -/
def Table.has {α : Type} (t : Table α) (i : Nat) : Bool := (t.get? i).isSome

/-- The indices with an entry, in the table's order. -/
def Table.keys {α : Type} (t : Table α) : List Nat := t.map (·.1)

/-- The first entry with an index of `p` or above and below `bound` that satisfies `f`. -/
def Table.nextFrom {α : Type} (t : Table α) (p bound : Nat) (f : Nat → α → Bool) : Option (Nat × α) :=
  t.find? (fun x => decide (p ≤ x.1) && decide (x.1 < bound) && f x.1 x.2)

/-- The lowest index below `bound` without an entry. -/
def Table.lowestFree {α : Type} (t : Table α) (bound : Nat) : Option Nat :=
  (List.range bound).find? (fun i => !t.has i)

/-- The canonical form: indices strictly rising and below `bound`. -/
def Table.wf {α : Type} (t : Table α) (bound : Nat) : Bool :=
  decide (t.keys.Pairwise (· < ·)) && t.keys.all (· < bound)

/-- The canonical form of a table with default `d`: no entry holds the default. -/
def Table.wfD {α : Type} [DecidableEq α] (t : Table α) (bound : Nat) (d : α) : Bool :=
  t.wf bound && t.all (fun x => x.2 ≠ d)

/-- Insert into a set of numbers kept in rising order. -/
def insertNat (i : Nat) : List Nat → List Nat
  | [] => [i]
  | k :: r => if i < k then i :: k :: r else if i = k then k :: r else k :: insertNat i r

/-- Remove from a set of numbers. -/
def removeNat (i : Nat) (l : List Nat) : List Nat := l.filter (· ≠ i)

end Sys2Proof.Machine
end

