-- ==== Sys2Proof/Machine/Operands.lean ====
section
/-!
DEFINITION. The fields of the records software writes (spec/11, R183, R184, R187 to R189, R192): a command, a report record, a
request, an acknowledgement and a profile record, read from their 64 bytes. Reserved bytes are not read.
-/

namespace Sys2Proof.Machine

/-- The little-endian field of `bytes` bytes at byte offset `off`, as a number (R183). -/
def fieldNat (l : Line) (off bytes : Nat) : Nat := (l.extractLsb' (8 * off) (8 * bytes)).toNat

/-- The `w` bits that begin at byte offset `off`. -/
def fieldBits (l : Line) (off w : Nat) : BitVec w := l.extractLsb' (8 * off) w

/-- Bit `b` of the byte at offset `off`. -/
def flagBit (l : Line) (off b : Nat) : Bool := l.getLsbD (8 * off + b)

/-! ### Command records (R192) -/

def cmdCode (l : Line) : BitVec 16 := fieldBits l 0 16
def cmdTag (l : Line) : BitVec 16 := fieldBits l 2 16

/-- The command codes (R192). -/
@[simp] def codeSetWindows : Nat := 1
@[simp] def codeLoadProfile : Nat := 2
@[simp] def codeLoadClasses : Nat := 3
@[simp] def codeSetTiming : Nat := 4
@[simp] def codeSetReporting : Nat := 5
@[simp] def codeStart : Nat := 6
@[simp] def codeStop : Nat := 7
@[simp] def codeClearTopology : Nat := 8
@[simp] def codeClearPaths : Nat := 9
@[simp] def codeRestart : Nat := 10

/-- A command record is of a known code: 1 to 10. -/
def cmdKnown (l : Line) : Bool := 1 ≤ (cmdCode l).toNat && (cmdCode l).toNat ≤ 10

/-- The arguments of SET_WINDOWS as byte addresses and counts (R23, R192). -/
structure WindowArgs where
  intakeBase : Nat
  intakeLines : Nat
  requestBase : Nat
  requestSlots : Nat
  exportBase : Nat
  noticeBase : Nat
  noticeLines : Nat
  deriving DecidableEq, Repr

def windowArgs (l : Line) : WindowArgs :=
  { intakeBase := fieldNat l 4 8, intakeLines := fieldNat l 12 2, requestBase := fieldNat l 14 8,
    requestSlots := fieldNat l 22 2, exportBase := fieldNat l 24 8, noticeBase := fieldNat l 32 8,
    noticeLines := fieldNat l 40 2 }

def profileDomainArg (l : Line) : Nat := fieldNat l 4 1
def profileAddrArg (l : Line) : Addr := fieldBits l 8 64

/-- The entry of class `k` of LOAD_CLASSES (R26, R192). -/
def classArg (l : Line) (k : Nat) : ClassEntry :=
  { width := fieldNat l (4 + 4 * k) 1, budget := fieldNat l (6 + 4 * k) 2 }

def classArgs (l : Line) : List ClassEntry := [classArg l 0, classArg l 1, classArg l 2, classArg l 3]

def timingArg (l : Line) : BitVec 16 := fieldBits l 4 16

def enablesArg (l : Line) : Enables :=
  { topology := flagBit l 4 0, intakeFault := flagBit l 4 1, path := flagBit l 4 2, request := flagBit l 4 3 }

/-! ### Acknowledgements (R192) -/

def ackConsumer (l : Line) : BitVec 32 := fieldBits l 0 32
def ackPathId (l : Line) : Nat := fieldNat l 4 2
def ackGeneration (l : Line) : BitVec 16 := fieldBits l 6 16

/-! ### Report records (R187) -/

/-- The kinds of report records other than empty (section 4.2). -/
inductive RecordKind where
  | nodeReport
  | portReport
  | portWithdraw
  | nodeWithdraw
  | domainRefresh
  | batchOpen
  | batchClose
  deriving DecidableEq, Repr

def recKindCode (l : Line) : Nat := fieldNat l 0 1

def recKind (l : Line) : Option RecordKind :=
  match recKindCode l with
  | 1 => some .nodeReport
  | 2 => some .portReport
  | 3 => some .portWithdraw
  | 4 => some .nodeWithdraw
  | 5 => some .domainRefresh
  | 6 => some .batchOpen
  | 7 => some .batchClose
  | _ => none

def recTag (l : Line) : BitVec 16 := fieldBits l 2 16
/-- Bytes 4..7: the node or reporter network ID. -/
def recId (l : Line) : Id32 := fieldBits l 4 32
/-- Byte 8: the domain index, or the local port. -/
def recByte8 (l : Line) : Nat := fieldNat l 8 1
def nodeTransit (l : Line) : Bool := flagBit l 9 0
def nodeRawPenalty (l : Line) : Nat := fieldNat l 10 2
def portFarPort (l : Line) : Nat := fieldNat l 9 1
def portOperState (l : Line) : Nat := fieldNat l 10 1
def portSrlgCount (l : Line) : Nat := fieldNat l 11 1
def portFarId (l : Line) : Id32 := fieldBits l 12 32
def portCost (l : Line) : Nat := fieldNat l 16 2
def portRaw (l : Line) : Nat := fieldNat l 18 2
def portSrlg (l : Line) (i : Nat) : Id32 := fieldBits l (20 + 4 * i) 32
def portMask (l : Line) : BitVec 128 := fieldBits l 44 128

/-- Append an SRLG ID unless it is 0 or already taken (R83). -/
def takeSrlg (l : List Id32) (x : Id32) : List Id32 := if x = 0 ∨ x ∈ l then l else l ++ [x]

/-- The SRLG list of a PORT_REPORT: its counted entries in order, without zeros and repeats (R83). -/
def portSrlgs (l : Line) : List Id32 :=
  ((List.range (min (portSrlgCount l) Config.maxSrlgs)).map (portSrlg l)).foldl takeSrlg []

/-- The reported fields of a PORT_REPORT (R83); operational state code 1 is up (R193). -/
def portReported (l : Line) : PortReported :=
  { farId := portFarId l, farPort := portFarPort l, cost := portCost l, raw := portRaw l, up := portOperState l == 1,
    srlgs := portSrlgs l, mask := portMask l }

/-- Whether a record of a kind other than 0 passes its form check (R59). -/
def formOk (l : Line) : Bool :=
  match recKind l with
  | none => false
  | some .nodeReport => recId l ≠ 0 && recByte8 l < Config.domains
  | some .portReport =>
    recId l ≠ 0 && portFarId l ≠ 0 && portFarId l ≠ recId l && (portOperState l == 1 || portOperState l == 2) &&
      portSrlgCount l ≤ Config.maxSrlgs
  | some .portWithdraw => recId l ≠ 0
  | some .nodeWithdraw => recId l ≠ 0
  | some .domainRefresh => recByte8 l < Config.domains
  | some .batchOpen => recTag l ≠ 0
  | some .batchClose => recTag l ≠ 0

/-- The subject ID of a RECORD_FAULT (R70). -/
def recSubject (l : Line) : Id32 :=
  match recKind l with
  | some .nodeReport | some .nodeWithdraw | some .portReport | some .portWithdraw => recId l
  | _ => 0

/-- The local port of a RECORD_FAULT (R70). -/
def recLocalPort (l : Line) : Nat :=
  match recKind l with
  | some .portReport | some .portWithdraw => recByte8 l
  | _ => 0

/-! ### Profile records (R188, R42) -/

/-- Whether a profile record passes the field checks of R42. -/
def profileOk (l : Line) : Bool :=
  (fieldNat l 1 1 == 1 || fieldNat l 1 1 == 2 || fieldNat l 1 1 == 4) && fieldNat l 0 1 ≤ 79 && fieldNat l 2 1 ≠ 0 &&
    fieldNat l 2 1 ≤ 128 && fieldNat l 4 2 ≠ 0 && fieldNat l 3 1 ≤ 31 && fieldNat l 6 2 ≠ 65535

/-! ### Request records (R189) -/

/-- The known request kinds other than 0 (section 8.2). -/
inductive RequestKind where
  | probe
  | setup
  | release
  | resume
  | reroute
  deriving DecidableEq, Repr

def reqKindCode (l : Line) : Nat := fieldNat l 0 1

def reqKind (l : Line) : Option RequestKind :=
  match reqKindCode l with
  | 1 => some .probe
  | 2 => some .setup
  | 3 => some .release
  | 4 => some .resume
  | 5 => some .reroute
  | _ => none

def reqClassCode (l : Line) : Nat := fieldNat l 1 1
def reqTag (l : Line) : BitVec 32 := fieldBits l 4 32
def reqSource (l : Line) : Id32 := fieldBits l 8 32
def reqDest (l : Line) : Id32 := fieldBits l 12 32
def reqMaxHops (l : Line) : Nat := fieldNat l 16 1
def reqPair (l : Line) : Bool := flagBit l 18 0
def reqRequireBackup (l : Line) : Bool := flagBit l 18 1
def reqNodeDiverse (l : Line) : Bool := flagBit l 18 2
def reqRevertive (l : Line) : Bool := flagBit l 18 3
def reqTargetBackup (l : Line) : Bool := flagBit l 18 4
def reqMask (l : Line) : SlotSet := fieldBits l 20 80
def reqPathId (l : Line) : Nat := fieldNat l 30 2
def reqExclLinks (l : Line) : List Nat := (List.range 4).map (fun i => fieldNat l (32 + 2 * i) 2)
def reqExclNodes (l : Line) : List Id32 := (List.range 4).map (fun i => fieldBits l (40 + 4 * i) 32)

def policyOf (c : Nat) : Option Policy :=
  match c with
  | 0 => some .firstFit
  | 1 => some .lastFit
  | 2 => some .lowestCost
  | _ => none

def orderOf (c : Nat) : Option OrderMode :=
  match c with
  | 0 => some .cost
  | 1 => some .noise
  | 2 => some .costThenNoise
  | _ => none

def restoreOf (c : Nat) : Option RestoreMode :=
  match c with
  | 0 => some .hold
  | 1 => some .release
  | 2 => some .reroute
  | _ => none

def reqPolicy (l : Line) : Option Policy := policyOf (fieldNat l 2 1)
def reqOrder (l : Line) : Option OrderMode := orderOf (fieldNat l 3 1)
def reqRestore (l : Line) : Option RestoreMode := restoreOf (fieldNat l 17 1)

/-- The class of a request: 0..3, or AUTO (`none`) for code 15 (R193). -/
def reqClass (l : Line) : Option Nat := if reqClassCode l ≤ 3 then some (reqClassCode l) else none

/-- The hop limit: the given value in 1..20, and 20 otherwise (R117). -/
def hopLimit (n : Nat) : Nat := if 1 ≤ n ∧ n ≤ Config.maxHops then n else Config.maxHops

def classCodeOk (l : Line) : Bool := reqClassCode l ≤ 3 || reqClassCode l == 15

def exclLinksOk (l : Line) : Bool := (reqExclLinks l).all (fun k => k < Config.linkEntries || k == 0xFFFF)

/-- No non-zero excluded node is one of the two ends (R142, R149). -/
def exclNodesOk (nodes : List Id32) (a b : Id32) : Bool := nodes.all (fun x => x == 0 || (x ≠ a && x ≠ b))

/-- The verdict of the field checks at a request's taking (R142). -/
def requestValid (l : Line) : Bool :=
  match reqKind l with
  | none => false
  | some .probe =>
    classCodeOk l && (reqPolicy l).isSome && (reqOrder l).isSome && exclLinksOk l &&
      exclNodesOk (reqExclNodes l) (reqSource l) (reqDest l)
  | some .setup =>
    classCodeOk l && (reqPolicy l).isSome && (reqOrder l).isSome && (reqRestore l).isSome && exclLinksOk l &&
      exclNodesOk (reqExclNodes l) (reqSource l) (reqDest l)
  | some .release => true
  | some .resume => true
  | some .reroute => (reqPolicy l).isSome && (reqOrder l).isSome && exclLinksOk l

end Sys2Proof.Machine
end

