-- ==== Sys2Proof/Machine/Grid.lean ====
section
/-!
DEFINITION. The common grid and the arithmetic of domain profiles (spec/03): slot ranges, channel mapping, slot capability,
CLIPPED, impairment conversion and the saturating noise sum.
-/

namespace Sys2Proof.Machine

/-- The slots `start` to `start + width - 1` of the grid; slots above 79 are dropped (R39, R44). -/
def slotRange (start width : Nat) : SlotSet := ((BitVec.ofNat 80 (2 ^ width - 1)) <<< start)

/-- Every slot of `a` is a member of `b` (R39). -/
def slotsIn (a b : SlotSet) : Bool := a &&& b == a

/-- `a` and `b` share no slot. -/
def slotsApart (a b : SlotSet) : Bool := a &&& b == 0

/-- The grid slots of vendor channel `v` (R44). -/
def channelSlots (p : Profile) (v : Nat) : SlotSet := if v < p.count then slotRange (p.base + v * p.stride) p.stride else 0

/-- The slot capability set of a profile: the slots of all its channels (R45). -/
def capability (base stride count : Nat) : SlotSet := slotRange base (min (80 - base) (count * stride))

/-- The profile of a valid record, its slot capability set derived (R41, R45, R188). -/
def profileOf (l : Line) : Profile :=
  { base := fieldNat l 0 1, stride := fieldNat l 1 1, count := fieldNat l 2 1, shift := fieldNat l 3 1,
    multiplier := fieldNat l 4 2, border := fieldNat l 6 2, classes := fieldBits l 8 4, transit := flagBit l 9 0,
    age := fieldNat l 10 2, slots := capability (fieldNat l 0 1) (fieldNat l 1 1) (fieldNat l 2 1) }

/-- The vendor channels a mask names (R46). -/
def maskChannels (m : BitVec 128) : List Nat := (List.range 128).filter (fun v => m.getLsbD v)

/-- The foreign set a vendor mask maps to (R46). -/
def mapForeign (p : Profile) (m : BitVec 128) : SlotSet :=
  (maskChannels m).foldl (fun acc v => acc ||| channelSlots p v) 0

/-- CLIPPED: a named channel lies at or above the count, or loses a slot above 79 (R47). -/
def mapClipped (p : Profile) (m : BitVec 128) : Bool :=
  (maskChannels m).any (fun v => decide (p.count ≤ v) || decide (79 < p.base + v * p.stride + p.stride - 1))

/-- Conversion of a raw value into NU (R49): the exact product, rounded after the shift, saturated at 65535. -/
def convert (p : Profile) (raw : Nat) : Nat :=
  let product := raw * p.multiplier
  let rounded := if p.shift = 0 then product else (product + 2 ^ (p.shift - 1)) / 2 ^ p.shift
  min rounded Config.opaqueNoise

/-- The saturating addition of noise (R53). -/
def noiseAdd (a b : Nat) : Nat := min (a + b) Config.opaqueNoise

/-- A profile without fields, for a domain whose profile is absent: no node entry is of such a domain (R41). -/
def Profile.blank : Profile :=
  { base := 0, stride := 1, count := 0, multiplier := 0, shift := 0, classes := 0, border := 0, transit := false, age := 0,
    slots := 0 }

/-- The profile in force of a domain. -/
def domainProfile (s : State) (d : Nat) : Profile := s.profiles.domains.getD d Profile.blank

/-- Class `k` is a member of the class set of domain `d` (R41, R48). -/
def domainHasClass (s : State) (d k : Nat) : Bool := (domainProfile s d).classes.getLsbD k

/-- The class table's entry of class `k` (R40). -/
def classEntry (s : State) (k : Nat) : ClassEntry := s.profiles.classes.getD k { width := 1, budget := 0 }

end Sys2Proof.Machine
end

