-- ==== Sys2Proof/Machine/Flags.lean ====
section
/-!
DEFINITION. What the blocks read off the state: the attention line, room in the ring and in the queues, due entries, the drain's
conditions, whether a result line may be held, and which kinds of topology work are ready.
-/

namespace Sys2Proof.Machine

/-! ### Notice unit -/

/-- The attention line: asserted while the counts differ (R176). -/
def State.attention (s : State) : Bool := s.notices.producer ≠ s.notices.consumer

/-- The unconsumed notices (R174). -/
def ringUsed (s : State) : Nat := (s.notices.producer - s.notices.consumer).toNat

/-- The notice window is set and the ring is not full (R174, R175). -/
def ringRoom (s : State) : Bool :=
  match s.decoder.windows with
  | none => false
  | some w => ringUsed s < w.noticeLines

/-- The record of a path ID (R179). -/
def noticeRecord (s : State) (p : Nat) : NoticeRecord := s.notices.records.getD p NoticeRecord.idle

/-- IDLE with the due mark set (R179). -/
def NoticeRecord.deferred (r : NoticeRecord) : Bool := !r.outstanding && r.due

/-- One or more path notices are deferred (R175, R181). -/
def anyDeferred (s : State) : Bool := s.notices.records.any (fun x => x.2.deferred)

/-- A notice can be written now (R175 step 2). -/
def ringOpen (s : State) : Bool := ringRoom s && !anyDeferred s

/-- The class of a notice is enabled (R20, R178). -/
def noticeEnabled (s : State) : Notice → Bool
  | .nodeAdded .. | .nodeChanged .. | .nodeRemoved .. | .portState .. | .linkUp .. | .linkDown .. | .linkChanged ..
  | .linkRetired .. => s.control.enables.topology
  | .recordFault .. | .batchFault .. | .partialWrite .. => s.control.enables.intakeFault
  | .requestRefused .. => s.control.enables.request

/-! ### Write-back queue -/

/-- A place is free that no one waiting for room is owed (R18). -/
def placeFree (s : State) : Bool := s.writeBack.queue.length + s.writeBack.waiters.length < Config.writeBackItems

/-- The queue is not full: a place is free for the one it goes to (R18). -/
def notFull (s : State) : Bool := s.writeBack.queue.length < Config.writeBackItems

/-- A reference item for this entry is queued (R17). -/
def refQueued (s : State) (r : Ref) : Bool := s.writeBack.queue.contains (.ref r)

/-! ### Control unit -/

/-- RESTART is the command in progress (R35, R36). -/
def restarting (s : State) : Bool :=
  match s.control.inProgress with
  | none => false
  | some c => (cmdCode c.record).toNat == codeRestart

/-! ### Intake and request queues -/

/-- The records the intake queue holds: queued, awaiting taking, and in taking (R57). -/
def intakeCount (s : State) : Nat :=
  s.intake.queue.length + s.intake.handed.length + (if s.intake.taking.isSome then 1 else 0)

/-- The requests the request queue holds (R140). -/
def requestCount (s : State) : Nat := s.paths.queue.length + s.paths.handed.length + (if s.paths.taking then 1 else 0)

/-- The head of the intake queue is applicable: a loose record, or the opening marker of a closed batch (R65). At most one
batch is open and its marker stands behind every closed one, so a marker at the head is closed when a closing marker is queued. -/
def headApplicable (s : State) : Bool :=
  match s.intake.queue with
  | [] => false
  | r :: rest =>
    match r.role with
    | .loose => true
    | .opening => rest.any (fun x => x.role == .closing)
    | .member | .closing => false

/-! ### Ageing -/

/-- The age limit of a domain has passed since a refresh time (R92): compared exactly, in microseconds. -/
def ageReached (s : State) (now : BitVec 64) (domain : Nat) (refresh : BitVec 64) : Bool :=
  let age := (domainProfile s domain).age
  s.control.mode ≠ .off && decide (0 < age) && decide (refresh.toNat + age * 1000000 ≤ now.toNat)

/-- A node entry is due for expiry (R92). -/
def nodeDue (s : State) (now : BitVec 64) (e : NodeEntry) : Bool := ageReached s now e.domain e.refresh

/-- The domain of a port's node. -/
def portDomain (s : State) (e : PortEntry) : Nat := ((s.topology.nodes.get? e.node).map (·.domain)).getD 0

/-- A port entry is due for expiry, by the domain of its node and its own refresh time (R92). -/
def portDue (s : State) (now : BitVec 64) (e : PortEntry) : Bool :=
  s.topology.nodes.has e.node && ageReached s now (portDomain s e) e.refresh

/-- The lowest due node. -/
def firstDueNode (s : State) (now : BitVec 64) : Option (Nat × NodeEntry) :=
  s.topology.nodes.find? (fun x => nodeDue s now x.2)

/-- The lowest due port. -/
def firstDuePort (s : State) (now : BitVec 64) : Option (Nat × PortEntry) :=
  s.topology.ports.find? (fun x => portDue s now x.2)

/-- At least one entry is due (R93). -/
def anyDue (s : State) (now : BitVec 64) : Bool := (firstDueNode s now).isSome || (firstDuePort s now).isSome

/-- The named entry is due now (R92). -/
def entryDueNow (s : State) : EntryName → Bool
  | .node i => ((s.topology.nodes.get? i).map (nodeDue s s.control.time)).getD false
  | .port j => ((s.topology.ports.get? j).map (portDue s s.control.time)).getD false

/-! ### Topology work -/

/-- The lowest link owed a release (R106, R107). -/
def firstOwed (s : State) : Option Nat :=
  (s.topology.links.find? (fun x => x.2.state == .retiring && x.2.answered)).map (·.1)

/-- The command in progress wants its database operation (R25, R33). -/
def commandWork (s : State) : Bool :=
  match s.control.inProgress with
  | some { phase := .reconversion _, .. } => true
  | some { phase := .clearing, .. } => true
  | _ => false

/-- The first kind of topology work that is ready, in the order of R109. -/
def readyWork (s : State) : Option Work :=
  if commandWork s then some .command
  else
    match firstOwed s with
    | some k => some (.release k)
    | none =>
      if anyDue s s.control.time then some .expiry else if headApplicable s then some .intake else none

/-! ### Path table unit -/

/-- No strike event is queued and none is in processing (R143, R144). -/
def strikesIdle (s : State) : Bool := s.paths.strikes.isEmpty && s.threads.strike.isEmpty

/-- The path table unit holds a grant it has taken up (R104). -/
def grantTakenUp (s : State) : Bool :=
  s.arbiter.holder == some .path &&
    (match s.paths.slot with
     | some o => o.phase ≠ .waiting
     | none => false)

/-- The path table unit removes the next strike event (R104, R161). -/
def strikesRun (s : State) : Bool := s.threads.strike.isEmpty && !grantTakenUp s && !restarting s

/-- The seven conditions of the drain's end (R32). The intake queue counts as empty only once the last taking and STOP's abort have
queued what they queue, so that their items stand before STOP's DONE (R22) and START finds the batch state NONE (R72; log 41). -/
def drainDone (s : State) : Bool :=
  intakeCount s == 0 && s.threads.intake.isEmpty && requestCount s == 0 && s.paths.strikes.isEmpty && s.paths.restoration.isEmpty &&
    !(s.arbiter.holder == some .topology && (s.topology.work == some .intake || s.topology.work == some .expiry)) &&
    s.paths.slot.isNone && s.threads.strike.isEmpty

/-- The write of this line for the slot's current request is still to come: the slot is pending, and line 2, once issued, is not
(R12). Line 1's issue ends the pending state (R139). Once the request's own line 2 has been issued, line 2 stays issued, also while the
ABORTED line 2 of a RESTART is still queued: R12 and R15 leave open which of the two writes decides, and this is the model's choice
(log 52). -/
def resultAwaited (s : State) (slot line : Nat) : Bool :=
  match s.paths.pendingSlots.get? slot with
  | none => false
  | some p => line == 1 || (line == 2 && !p.line2Issued)

/-- A node's entry by network ID (R74). -/
def findNode (s : State) (id : Id32) : Option (Nat × NodeEntry) := s.topology.nodes.find? (fun x => x.2.netId == id)

/-- A port entry by node index and port number (R79). -/
def findPort (s : State) (node number : Nat) : Option (Nat × PortEntry) :=
  s.topology.ports.find? (fun x => x.2.node == node && x.2.number == number)

/-- A port's target: the port entry its claim names (R80). -/
def targetOf (s : State) (e : PortEntry) : Option (Nat × PortEntry) :=
  match findNode s e.reported.farId with
  | none => none
  | some (i, _) => findPort s i e.reported.farPort

/-- The network ID of a port's node. -/
def portNetId (s : State) (e : PortEntry) : Id32 := ((s.topology.nodes.get? e.node).map (·.netId)).getD 0

/-- `q` claims `p` (R80). -/
def claims (s : State) (q p : PortEntry) : Bool := q.reported.farId == portNetId s p && q.reported.farPort == p.number

/-- The slots reserved on a link (R157). -/
def reservedOn (s : State) (k : Nat) : SlotSet := s.paths.reserved.getD k 0

/-- A path's generation (R155, R156). -/
def generationOf (s : State) (p : Nat) : BitVec 16 := s.paths.generations.getD p 0

/-- A route contains a link (R161). -/
def heldHas (r : Option HeldRoute) (k : Nat) : Bool :=
  match r with
  | none => false
  | some h => h.route.links.contains k

/-- A path has a route containing a link (R161). -/
def pathHas (e : PathEntry) (k : Nat) : Bool := heldHas e.primary k || heldHas e.backup k

end Sys2Proof.Machine
end

