-- ==== Sys2Proof/Machine/Layout.lean ====
section
/-!
DEFINITION. The lines the part writes (spec/11): codes, notice lines, export lines, result lines, the response and status lines,
each built from its fields; every byte not named is zero (R185).
-/

namespace Sys2Proof.Machine

/-- A field at byte offset `off`, `bytes` bytes wide, little-endian (R183). -/
structure Field where
  off : Nat
  bytes : Nat
  value : Nat
  deriving DecidableEq, Repr

/-- The bits of one field in its line. -/
def Field.bits (f : Field) : Line := BitVec.ofNat 512 ((f.value % 2 ^ (8 * f.bytes)) <<< (8 * f.off))

/-- A line of the given fields, every other byte zero (R185). -/
def lineOf (fs : List Field) : Line := fs.foldl (fun acc f => acc ||| f.bits) 0

/-- A field (offset, bytes, value). -/
def fld (off bytes value : Nat) : Field := { off, bytes, value }

/-- A run of equal fields from byte `off` upward: link lists and SRLG lists (R185: unused entries are zero). -/
def fldList (off bytes : Nat) (vs : List Nat) : List Field :=
  (vs.zipIdx).map (fun x => fld (off + bytes * x.2) bytes x.1)

/-- A bit as a number. -/
def bit (b : Bool) : Nat := if b then 1 else 0

/-- Bits of a flag byte, bit 0 first. -/
def flags (bs : List Bool) : Nat := (bs.zipIdx).foldl (fun acc x => acc + bit x.1 * 2 ^ x.2) 0

/-! ### Codes (R193) -/

def CmdOutcome.code : CmdOutcome → Nat
  | .empty => 0 | .done => 1 | .unknownCommand => 2 | .badArgument => 3 | .wrongMode => 4 | .busy => 5 | .notEmpty => 6
  | .memoryFault => 7

def ReqOutcome.code : ReqOutcome → Nat
  | .none => 0 | .ok => 1 | .noPath => 2 | .noBackup => 3 | .unknownNode => 4 | .sameNode => 5 | .badRequest => 6
  | .classUnsupported => 7 | .tableFull => 8 | .unknownPath => 9 | .wrongState => 10 | .aborted => 11

def Mode.code : Mode → Nat
  | .off => 0 | .run => 1 | .drain => 2

def RestoreMode.code : RestoreMode → Nat
  | .hold => 0 | .release => 1 | .reroute => 2

/-- Pairing state codes; `none` is ABSENT. -/
def pairingCode : Option Pairing → Nat
  | none => 0
  | some .unanswered => 1
  | some .contradicted => 2
  | some .paired => 3
  | some .waiting => 4

def LinkState.code : LinkState → Nat
  | .up => 1 | .down => 2 | .retiring => 3

def PathState.code : PathState → Nat
  | .active => 1 | .exposed => 2 | .onBackup => 3 | .held => 4 | .restoring => 5 | .down => 6

def TopoReason.code : TopoReason → Nat
  | .reported => 1 | .withdrawn => 2 | .aged => 3 | .linkFreed => 4 | .claimChanged => 5

def LinkReason.code : LinkReason → Nat
  | .new => 1 | .recovered => 2 | .portDown => 3

def RecordReason.code : RecordReason → Nat
  | .badField => 1 | .unknownReporter => 2 | .profileMissing => 3 | .tableFull => 4

def BatchReason.code : BatchReason → Nat
  | .overflow => 1 | .nested => 2 | .stopped => 3 | .closeMismatch => 4

/-- PATH_STATE reason codes; 0 where none is recorded. -/
def pathReasonCode : Option PathReason → Nat
  | none => 0
  | some .requested => 1
  | some .linkDown => 2
  | some .linkUp => 3
  | some .linkRetired => 4
  | some .restored => 5
  | some .restoreFailed => 6

def Observed.code : Observed → Nat
  | .command => 1 | .acknowledgement => 2 | .intake => 3 | .request => 4

/-- Operational state codes (R193). -/
def operCode (up : Bool) : Nat := if up then 1 else 2

/-- A port index or link ID, 0xFFFF when none is held (R185). -/
def idOrNone (x : Option Nat) : Nat := x.getD 0xFFFF

/-! ### Notice lines (R178, R190) -/

/-- Kind and class codes of a notice (R193). -/
def Notice.kindClass : Notice → Nat × Nat
  | .nodeAdded .. => (1, 0)
  | .nodeChanged .. => (2, 0)
  | .nodeRemoved .. => (3, 0)
  | .portState .. => (4, 0)
  | .linkUp .. => (5, 0)
  | .linkDown .. => (6, 0)
  | .linkChanged .. => (7, 0)
  | .linkRetired .. => (8, 0)
  | .recordFault .. => (9, 1)
  | .batchFault .. => (10, 1)
  | .partialWrite .. => (11, 1)
  | .requestRefused .. => (13, 3)

/-- The two ends of a link in a notice (R190). -/
def endFields (e : LinkEntry) : List Field :=
  [fld 20 4 e.endA.netId.toNat, fld 24 4 e.endB.netId.toNat, fld 28 1 e.endA.number, fld 29 1 e.endB.number]

/-- The items LINK_CHANGED names (R102, R114, R190). -/
def changedItems (old new : LinkAttrs) : Nat :=
  flags [old.cost ≠ new.cost, old.nu ≠ new.nu, old.foreign ≠ new.foreign,
    old.srlgs ≠ new.srlgs || old.truncated ≠ new.truncated, old.interDomain ≠ new.interDomain]

/-- The contents of a notice from byte 16 on (R190). -/
def Notice.contents : Notice → List Field
  | .nodeAdded i e =>
    [fld 16 1 i, fld 17 1 e.domain, fld 18 1 (bit e.transit), fld 20 4 e.netId.toNat, fld 24 2 e.penalty]
  | .nodeChanged i e d p t =>
    [fld 16 1 i, fld 17 1 e.domain, fld 18 1 (bit e.transit), fld 20 4 e.netId.toNat, fld 24 2 e.penalty,
     fld 26 1 (flags [d, p, t])]
  | .nodeRemoved i id why ports => [fld 16 1 i, fld 17 1 why.code, fld 18 2 ports, fld 20 4 id.toNat]
  | .portState j id number farId farPort old new oldLink newLink why =>
    [fld 16 2 j, fld 18 1 number, fld 19 1 farPort, fld 20 4 id.toNat, fld 24 4 farId.toNat, fld 28 1 (pairingCode old),
     fld 29 1 (pairingCode new), fld 30 2 (idOrNone oldLink), fld 32 2 (idOrNone newLink), fld 34 1 why.code]
  | .linkUp k why e =>
    [fld 16 2 k, fld 18 1 why.code] ++ endFields e ++
      [fld 30 2 e.attrs.cost, fld 32 2 e.attrs.nu, fld 34 1 (flags [e.attrs.interDomain])]
  | .linkDown k why e aDown bDown => [fld 16 2 k, fld 18 1 why.code, fld 19 1 (flags [aDown, bDown])] ++ endFields e
  | .linkChanged k old new =>
    [fld 16 2 k, fld 19 1 (changedItems old new), fld 30 2 new.cost, fld 32 2 new.nu,
     fld 34 1 (flags [new.interDomain, new.truncated])]
  | .linkRetired k why e former => [fld 16 2 k, fld 18 1 why.code, fld 19 1 former.code] ++ endFields e
  | .recordFault why r off =>
    [fld 16 1 why.code, fld 17 1 (recKindCode r), fld 18 2 (recTag r).toNat, fld 20 2 off, fld 22 1 (recLocalPort r),
     fld 24 4 (recSubject r).toNat]
  | .batchFault why kind tag openTag off removed =>
    [fld 16 1 why.code, fld 17 1 kind, fld 18 2 tag.toNat, fld 20 2 openTag.toNat, fld 22 2 off, fld 24 1 removed]
  | .partialWrite addr observed enables => [fld 16 1 observed.code, fld 17 1 enables, fld 24 8 addr.toNat]
  | .requestRefused slot tag kind => [fld 16 1 slot, fld 17 1 kind, fld 18 1 1, fld 20 4 tag.toNat]

/-- The common fields of a notice line: kind, class, sequence number, timestamp (R178, R190). -/
def noticeHead (kind cls : Nat) (seq : BitVec 32) (time : BitVec 64) : List Field :=
  [fld 0 1 kind, fld 1 1 cls, fld 4 4 seq.toNat, fld 8 8 time.toNat]

/-- A notice line (R190). -/
def noticeLine (n : Notice) (seq : BitVec 32) (time : BitVec 64) : Line :=
  lineOf (noticeHead n.kindClass.1 n.kindClass.2 seq time ++ n.contents)

/-- The state code of a path ID: 0 FREE when it has no entry (R193). -/
def pathStateCode (s : State) (p : Nat) : Nat := ((s.paths.entries.get? p).map (·.state.code)).getD 0

/-- A PATH_STATE line: the path's state and generation as they stand now (R178, R190). -/
def pathStateLine (s : State) (p : Nat) (r : NoticeRecord) : Line :=
  lineOf (noticeHead 12 2 s.notices.producer s.control.time ++
    [fld 16 2 p, fld 18 2 (generationOf s p).toNat, fld 20 1 (pathStateCode s p), fld 21 1 (pathReasonCode r.reason),
     fld 22 2 r.count])

/-! ### Export lines (R95, R113, R172, R186, R191) -/

def nodeLine (s : State) (i : Nat) : Line :=
  match s.topology.nodes.get? i with
  | none => 0
  | some e =>
    lineOf [fld 0 1 1, fld 1 1 e.domain, fld 2 1 (bit e.transit), fld 4 4 e.netId.toNat, fld 8 2 e.rawPenalty,
      fld 10 2 e.penalty, fld 12 2 e.portCount]

def portLine (s : State) (j : Nat) : Line :=
  match s.topology.ports.get? j with
  | none => 0
  | some e =>
    lineOf ([fld 0 1 1, fld 1 1 (pairingCode (some e.pairing)), fld 2 1 e.number, fld 3 1 e.reported.farPort,
      fld 4 1 e.node, fld 5 1 (operCode e.reported.up), fld 6 2 (idOrNone e.link), fld 8 4 (portNetId s e).toNat,
      fld 12 4 e.reported.farId.toNat, fld 16 2 e.reported.cost, fld 18 2 e.reported.raw, fld 20 2 e.nu,
      fld 22 1 (flags [e.clipped]), fld 24 10 e.foreign.toNat] ++ fldList 34 4 (e.reported.srlgs.map (·.toNat)))

/-- Created and last-change times are shown modulo 2^40 (R186). -/
def linkLine (s : State) (k : Nat) : Line :=
  match s.topology.links.get? k with
  | none => 0
  | some e =>
    lineOf ([fld 0 1 e.state.code, fld 1 1 (flags [e.attrs.interDomain, e.attrs.truncated, e.answered]),
      fld 2 1 e.endA.number, fld 3 1 e.endB.number, fld 4 2 (idOrNone e.endA.port), fld 6 2 (idOrNone e.endB.port),
      fld 8 4 e.endA.netId.toNat, fld 12 4 e.endB.netId.toNat, fld 16 2 e.attrs.cost, fld 18 2 e.attrs.nu,
      fld 20 10 e.attrs.foreign.toNat] ++ fldList 30 4 (e.attrs.srlgs.map (·.toNat)) ++
      [fld 54 5 e.created.toNat, fld 59 5 e.changed.toNat])

/-- A route summary of 8 bytes at `off`; an absent route is zero (R185, R191). -/
def summaryFields (off : Nat) : Option HeldRoute → List Field
  | none => []
  | some h =>
    [fld off 1 h.route.start, fld (off + 1) 1 h.route.hops, fld (off + 2) 1 h.struck, fld (off + 3) 3 h.route.cost,
     fld (off + 6) 2 h.route.noise]

/-- The route carrying traffic: the backup in ON_BACKUP, the primary in ACTIVE, EXPOSED and HELD (R172). -/
def trafficRoute (e : PathEntry) : Option HeldRoute :=
  match e.state with
  | .onBackup => e.backup
  | .active | .exposed | .held => e.primary
  | .restoring | .down => none

/-- Link IDs packed 10 bits each, entry `i` in bits 10i..10i + 9 (R186). -/
def packLinks (ls : List Nat) : Nat := (ls.zipIdx).foldl (fun acc x => acc + x.1 % 1024 * 2 ^ (10 * x.2)) 0

/-- The width of a path's routes, 0 when it holds none (R172, R185). -/
def pathWidth (e : PathEntry) : Nat :=
  match e.primary with
  | some h => h.route.width
  | none => (e.backup.map (·.route.width)).getD 0

def pathLine (s : State) (p : Nat) : Line :=
  match s.paths.entries.get? p with
  | none => 0
  | some e =>
    lineOf ([fld 0 1 1, fld 1 1 e.state.code, fld 2 1 e.cls, fld 3 1 e.restore.code,
      fld 4 1 (flags [e.revertive, e.nodeDiverse, e.primary.isSome, e.backup.isSome]), fld 5 1 (pathWidth e),
      fld 6 1 e.srcIndex, fld 7 1 e.dstIndex, fld 8 2 (generationOf s p).toNat, fld 10 4 e.originTag.toNat,
      fld 14 4 e.srcId.toNat, fld 18 4 e.dstId.toNat] ++ summaryFields 22 e.primary ++ summaryFields 30 e.backup ++
      [fld 38 25 (((trafficRoute e).map (fun h => packLinks h.route.links)).getD 0)])

/-! ### Result lines (R152, R153, R189) -/

/-- The route block of a result line; an absent route is zero (R189). -/
def routeFields : Option Route → List Field
  | none => []
  | some r =>
    [fld 8 1 r.start, fld 9 1 r.width, fld 10 1 r.hops, fld 12 4 r.cost, fld 16 2 r.noise] ++ fldList 20 2 r.links

/-- The route a result line shows, as it stands when the line is queued (R152). -/
def sourceRoute (s : State) : RouteSource → Option Route
  | .absent => none
  | .fixed r => some r
  | .primaryOf p => ((s.paths.entries.get? p).bind (·.primary)).map (·.route)
  | .backupOf p => ((s.paths.entries.get? p).bind (·.backup)).map (·.route)

/-- The backup outcome of line 2: for a RESUME or REROUTE, OK when the path holds a backup and NONE otherwise (R153). -/
def secondOutcome (s : State) (o : ReqOutcome) (src : RouteSource) : ReqOutcome :=
  match src with
  | .backupOf _ => if (sourceRoute s src).isSome then .ok else .none
  | _ => o

def resultLine (s : State) : ResultLine → Line
  | .first tag o cls path src =>
    lineOf ([fld 0 4 tag.toNat, fld 4 1 o.code, fld 5 1 (cls.getD 0xFF), fld 6 2 (idOrNone path)] ++
      routeFields (sourceRoute s src))
  | .second tag o src =>
    lineOf ([fld 0 4 tag.toNat, fld 4 1 (secondOutcome s o src).code] ++ routeFields (sourceRoute s src))

/-! ### Anchor page lines (R37, R192) -/

def responseLine (s : State) : Line :=
  lineOf [fld 0 2 s.control.completed.tag.toNat, fld 2 2 s.control.completed.code.toNat,
    fld 4 1 s.control.completed.outcome.code, fld 8 2 s.control.refused.tag.toNat, fld 10 2 s.control.refused.code.toNat,
    fld 12 1 s.control.refused.outcome.code]

/-- The tag shown for the open batch: 0 when none is open (R56). -/
def openBatchTag (s : State) : BitVec 16 :=
  match s.intake.batch with
  | .opened t => t
  | _ => 0

def batchOpenFlag (s : State) : Bool :=
  match s.intake.batch with
  | .opened _ => true
  | _ => false

/-- The status line gathered from the owning blocks (R37). The depth of the request queue is that of the queue itself (R141). -/
def statusLine (s : State) : Line :=
  lineOf [fld 0 1 s.control.mode.code, fld 1 1 (flags [s.notices.lost, batchOpenFlag s]), fld 2 2 (openBatchTag s).toNat,
    fld 4 4 s.notices.producer.toNat, fld 8 4 s.notices.consumer.toNat, fld 12 8 s.control.time.toNat,
    fld 20 2 s.topology.nodes.length, fld 22 2 s.topology.ports.length, fld 24 2 s.topology.links.length,
    fld 26 2 s.paths.entries.length, fld 28 1 s.paths.queue.length]

/-- The data of a reference item, gathered when it is issued (R16). -/
def refLine (s : State) : Ref → Line
  | .node i => nodeLine s i
  | .port j => portLine s j
  | .link k => linkLine s k
  | .path p => pathLine s p
  | .status => statusLine s

/-- The line number of the anchor page. -/
def anchorBase (s : State) : Nat := s.decoder.anchor.getD 0

/-- The line number of the export window. -/
def exportBase (s : State) : Nat := (s.decoder.windows.map (·.exportBase)).getD 0

/-- The target line of a reference item (R16). -/
def refTarget (s : State) : Ref → Nat
  | .node i => exportBase s + i
  | .port j => exportBase s + 256 + j
  | .link k => exportBase s + 2304 + k
  | .path p => exportBase s + 3328 + p
  | .status => anchorBase s + 2

end Sys2Proof.Machine
end

