-- ==== Sys2Proof/Machine/Ops.lean ====
section
/-!
DEFINITION. The shared operations: queueing in the write-back queue, the response image, the database arbiter, the threads of
suspended operations, the memory sequence and the path table. The steps of operations that can wait answer an OpResult.
-/

namespace Sys2Proof.Machine

/-- What one step of an operation does: it is done, and further steps come first; or the operation waits at this step. -/
inductive OpResult where
  | done (s : State) (push : List Op)
  | wait (s : State)
  deriving DecidableEq, Repr

/-! ### Threads -/

/-- All threads, in the order in which they go on when several can (log 9). -/
def Thread.all : List Thread := [.decoder, .control, .intake, .topology, .operation, .strike, .taking, .acknowledge]

/-- The remaining steps of a thread. -/
def Threads.get (ts : Threads) : Thread → List Op
  | .decoder => ts.decoder
  | .control => ts.control
  | .intake => ts.intake
  | .topology => ts.topology
  | .operation => ts.operation
  | .strike => ts.strike
  | .taking => ts.taking
  | .acknowledge => ts.acknowledge

/-- Replace the remaining steps of a thread. -/
def Threads.put (ts : Threads) (t : Thread) (ops : List Op) : Threads :=
  match t with
  | .decoder => { ts with decoder := ops }
  | .control => { ts with control := ops }
  | .intake => { ts with intake := ops }
  | .topology => { ts with topology := ops }
  | .operation => { ts with operation := ops }
  | .strike => { ts with strike := ops }
  | .taking => { ts with taking := ops }
  | .acknowledge => { ts with acknowledge := ops }

/-- Replace the remaining steps of a thread. -/
def State.putOps (s : State) (t : Thread) (ops : List Op) : State := { s with threads := s.threads.put t ops }

/-- Add steps behind a thread's remaining ones. -/
def State.addOps (s : State) (t : Thread) (ops : List Op) : State := s.putOps t (s.threads.get t ++ ops)

/-! ### The write-back queue (R16 to R18) -/

/-- An item joins the write-back queue at its tail. -/
def enqueue (s : State) (x : WbItem) : State := { s with writeBack := { s.writeBack with queue := s.writeBack.queue ++ [x] } }

/-- A waiter begins to wait for room, behind those already waiting (R18). -/
def beginWait (s : State) (w : Waiter) : State :=
  { s with writeBack := { s.writeBack with waiters := s.writeBack.waiters ++ [w] } }

/-- A thread may queue an item now: it was given the freed place, or a place is free that no one waiting is owed (R18). -/
def hasPlace (given : Bool) (s : State) : Bool := if given then notFull s else placeFree s

/-- Queue a content item, or wait for room (R18). -/
def queueContent (given : Bool) (t : Thread) (target : Nat) (data : Line) (m : Option ResultMark) (s : State) : OpResult :=
  if hasPlace given s then .done (enqueue s (.content target data m)) [] else .wait (beginWait s (.thread t))

/-- A reference to an export entry while the export window is unset is not queued (R16). -/
def refIdle (s : State) (r : Ref) : Bool := (r ≠ .status && s.decoder.windows.isNone) || refQueued s r

/-- Queue a reference item: nothing is added when one for the entry is queued already, and the attempt then never waits
(R16, R17, R18). -/
def queueRef (given : Bool) (t : Thread) (r : Ref) (s : State) : OpResult :=
  if refIdle s r then .done s []
  else if hasPlace given s then .done (enqueue s (.ref r)) [] else .wait (beginWait s (.thread t))

/-! ### The response image (R20 to R22) -/

/-- The write that follows a change of the response image: queued at once, or one response write awaits room (R22). -/
def imageWrite (s : State) : State :=
  if s.writeBack.waiters.contains .response then s
  else if placeFree s then enqueue s (.content (anchorBase s + 1) (responseLine s) none) else beginWait s .response

/-- A record's outcome enters "last completed"; no command is in progress afterwards (R21). -/
def finishRecord (s : State) (record : Line) (o : CmdOutcome) : State :=
  imageWrite { s with control := { s.control with
    inProgress := none, completed := { tag := cmdTag record, code := cmdCode record, outcome := o } } }

/-- The command in progress ends with an outcome (R21). -/
def completeCommand (s : State) (o : CmdOutcome) : State :=
  match s.control.inProgress with
  | none => s
  | some c => finishRecord s c.record o

/-- A record is refused with BUSY (R21). -/
def refuseRecord (s : State) (record : Line) : State :=
  imageWrite { s with control := { s.control with
    refused := { tag := cmdTag record, code := cmdCode record, outcome := .busy } } }

/-- A record meets a command in progress that it may not displace: anything but a RESTART, and a RESTART while RESTART runs
(R21, R35). -/
def isRefused (s : State) (record : Line) : Bool :=
  s.control.inProgress.isSome && ((cmdCode record).toNat ≠ codeRestart || restarting s)

/-- The control unit deals with the records handed over, in order: code 0 is ignored, a record that meets a command in progress
is refused, and the first other record stays at the head for its own step (R21). -/
def judgeCommands : List Line → State → State
  | [], s => { s with control := { s.control with handed := [] } }
  | r :: rest, s =>
    if cmdCode r = 0 then judgeCommands rest s
    else if isRefused s r then judgeCommands rest (refuseRecord s r)
    else { s with control := { s.control with handed := r :: rest } }

/-! ### The memory sequence (R2) -/

/-- A transaction enters the memory sequence. -/
def enterSequence (s : State) (x : MemTxn) : State :=
  { s with memory := { s.memory with sequence := s.memory.sequence ++ [x] } }

/-- A forwarded read enters the memory sequence and awaits its response (R2, R3). -/
def forwardRead (s : State) (addr : Addr) (tag : Nat) : State :=
  { s with memory := { s.memory with
    sequence := s.memory.sequence ++ [.read addr tag], reads := s.memory.reads ++ [(tag, addr)] } }

/-- Release held reads into the memory sequence, in order (R13, R14). -/
def forwardHolds (s : State) (hs : List Hold) : State := hs.foldl (fun s h => forwardRead s h.addr h.tag) s

/-! ### The database arbiter (R110 to R112) -/

/-- A requester is granted the database now. -/
def grantTo (s : State) (r : Requester) : State :=
  { s with arbiter :=
    { holder := some r, last := some r, grantTime := s.control.time,
      waitTopology := if r = .topology then false else s.arbiter.waitTopology,
      waitPath := if r = .path then false else s.arbiter.waitPath } }

/-- A request is made: granted at once when the holder is none and no other request waits, and else it waits (R110). -/
def requestGrant (s : State) (r : Requester) : State :=
  if s.arbiter.holder = none ∧ s.arbiter.waitTopology = false ∧ s.arbiter.waitPath = false then grantTo s r
  else match r with
    | .topology => { s with arbiter := { s.arbiter with waitTopology := true } }
    | .path => { s with arbiter := { s.arbiter with waitPath := true } }

/-- The holder releases the grant: a waiting request is granted, and of two the one that was not granted last (R111). -/
def releaseGrant (s : State) : State :=
  if s.arbiter.waitTopology ∧ s.arbiter.waitPath then
    grantTo s (if s.arbiter.last = some .topology then .path else .topology)
  else if s.arbiter.waitTopology then grantTo s .topology
  else if s.arbiter.waitPath then grantTo s .path
  else { s with arbiter := { s.arbiter with holder := none } }

/-- The topology unit's operation ends: its work is done and its grant released (R110). -/
def endTopology (s : State) : State := releaseGrant { s with topology := { s.topology with work := none } }

/-- The "now" of a topology operation: the time base at its grant (R66, R67). -/
def topoNow (s : State) : BitVec 64 := s.arbiter.grantTime

/-! ### Tables of the topology unit -/

def setNode (s : State) (i : Nat) (e : NodeEntry) : State := { s with topology := { s.topology with nodes := s.topology.nodes.set i e } }

def setPort (s : State) (j : Nat) (e : PortEntry) : State := { s with topology := { s.topology with ports := s.topology.ports.set j e } }

def setLink (s : State) (k : Nat) (e : LinkEntry) : State := { s with topology := { s.topology with links := s.topology.links.set k e } }

/-- A port takes a pairing state and a link ID or none. -/
def setPairing (s : State) (j : Nat) (st : Pairing) (link : Option Nat) : State :=
  { s with topology := { s.topology with ports := s.topology.ports.modify j (fun e => { e with pairing := st, link := link }) } }

/-- A node's port count changes (R74). -/
def setPortCount (s : State) (i : Nat) (f : Nat → Nat) : State :=
  { s with topology := { s.topology with nodes := s.topology.nodes.modify i (fun e => { e with portCount := f e.portCount }) } }

/-! ### Reservations (R157) -/

/-- Set the reservation set of a link. -/
def setReserved (s : State) (k : Nat) (v : SlotSet) : State :=
  { s with paths := { s.paths with reserved := s.paths.reserved.setD k 0 v } }

/-- A route's slot range (R127). -/
def Route.range (r : Route) : SlotSet := slotRange r.start r.width

/-- Add a route's range to the reservation set of each of its links. -/
def reserveRoute (s : State) (r : Route) : State :=
  r.links.foldl (fun s k => setReserved s k (reservedOn s k ||| r.range)) s

/-- Remove a route's range from the reservation set of each of its links. -/
def unreserveRoute (s : State) (r : Route) : State :=
  r.links.foldl (fun s k => setReserved s k (reservedOn s k &&& ~~~r.range)) s

/-- Remove the ranges of the routes given. -/
def unreserveAll (s : State) (rs : List Route) : State := rs.foldl unreserveRoute s

/-- Replace a route's reservations by another's, make-before-break: on each link the old range is removed and the new one added
in one change (R150, R170). Links on the old route only lose the old range; links on the new route only gain the new one. -/
def replaceReservation (s : State) (old : Option Route) (new : Route) : State :=
  let oldLinks := (old.map (·.links)).getD []
  let oldRange := (old.map (·.range)).getD 0
  let s1 := (oldLinks.filter (fun k => !new.links.contains k)).foldl
    (fun s k => setReserved s k (reservedOn s k &&& ~~~oldRange)) s
  new.links.foldl (fun s k =>
    setReserved s k ((if oldLinks.contains k then reservedOn s k &&& ~~~oldRange else reservedOn s k) ||| new.range)) s1

/-! ### The path table (R155, R156, R159) -/

/-- Store a path's entry, and keep the restoration set in step with its state: it holds exactly the paths in RESTORING (R159).
A change of the state field raises the generation (R156). -/
def storePath (s : State) (p : Nat) (e : PathEntry) : State :=
  let changed := ((s.paths.entries.get? p).map (·.state)) ≠ some e.state
  { s with paths := { s.paths with
    entries := s.paths.entries.set p e,
    restoration :=
      if e.state = .restoring then insertNat p s.paths.restoration else removeNat p s.paths.restoration,
    generations :=
      if changed then s.paths.generations.setD p 0 (generationOf s p + 1) else s.paths.generations } }

/-- What a change of a path queues: its export reference, and PATH_STATE when its state field changed (R168). -/
def pathItems (s : State) (p : Nat) (e : PathEntry) (why : PathReason) : List Op :=
  if ((s.paths.entries.get? p).map (·.state)) ≠ some e.state then [.ref (.path p), .postPath p why] else [.ref (.path p)]

/-- A path notice record back to IDLE, its due mark cleared and its change count reset (R148, R34, R182). -/
def NoticeRecord.toIdle (r : NoticeRecord) : NoticeRecord := { r with outstanding := false, due := false, count := 0 }

def setRecord (s : State) (p : Nat) (r : NoticeRecord) : State :=
  { s with notices := { s.notices with records := s.notices.records.setD p NoticeRecord.idle r } }

/-- Free a path's entry: it leaves the restoration set, and its notice record becomes IDLE (R148). -/
def freePath (s : State) (p : Nat) : State :=
  setRecord { s with paths := { s.paths with
      entries := s.paths.entries.erase p, restoration := removeNat p s.paths.restoration } }
    p (noticeRecord s p).toIdle

/-! ### Reference items for whole tables -/

/-- A reference item for every entry in use: nodes, ports, links and then paths, each in ascending index (R23, R33, R34, R36, R115).
The spec gives these references no order: this one is the model's choice (log 44). -/
def topologyRefs (s : State) : List Op :=
  s.topology.nodes.keys.map (fun i => .ref (.node i)) ++ s.topology.ports.keys.map (fun j => .ref (.port j)) ++
    s.topology.links.keys.map (fun k => .ref (.link k))

def pathRefs (s : State) : List Op := s.paths.entries.keys.map (fun p => .ref (.path p))

end Sys2Proof.Machine
end

