-- ==== Sys2Proof/Machine/NoticeOps.lean ====
section
/-!
DEFINITION. The steps of the notice unit (spec/10): posts, the turn of posts, path notice records, acknowledgements and the
deferred notices.
-/

namespace Sys2Proof.Machine

/-- The notice unit takes posts one at a time, each to its end: a thread whose turn it is goes on, and any other waits behind
(R175, R181). -/
def withTurn (t : Thread) (s : State) (f : State → OpResult) : OpResult :=
  match s.notices.turn with
  | [] => f { s with notices := { s.notices with turn := [t] } }
  | h :: r => if h = t then f s else .wait { s with notices := { s.notices with turn := h :: r ++ [t] } }

/-- The post in hand ends, and the next one behind it is taken. -/
def endTurn (s : State) : State := { s with notices := { s.notices with turn := s.notices.turn.tail } }

/-- NOTICES_LOST is set (R175 step 2). -/
def setLost (s : State) : State := { s with notices := { s.notices with lost := true } }

/-- The write-back queue after the notice unit's status line reference: nothing is added while one is queued or waits already; else it
is queued at once, or begins to wait for room (R17, R18). -/
def WriteBack.noted (b : WriteBack) : WriteBack :=
  if b.queue.contains (.ref .status) || b.waiters.contains .noticeStatus then b
  else if b.queue.length + b.waiters.length < Config.writeBackItems then { b with queue := b.queue ++ [.ref .status] }
  else { b with waiters := b.waiters ++ [.noticeStatus] }

/-- The status line reference of the notice unit, for a new producer count or a NOTICES_LOST newly set (R37, R175). The post that gave
rise to it does not wait for it: it ended when its notice was queued, or was found not written (log 12). -/
def noteStatus (s : State) : State := { s with writeBack := s.writeBack.noted }

/-- A post of a kind other than PATH_STATE is judged (R175): not written, discarded, or to be written. -/
def postNotice (t : Thread) (n : Notice) (s : State) : OpResult :=
  withTurn t s fun s =>
    if !noticeEnabled s n then .done (endTurn s) []
    else if ringOpen s then .done s [.notice n]
    else .done (endTurn (if s.notices.lost then s else noteStatus (setLost s))) []

/-- A notice line joins the write-back queue at ring line p mod N, and the producer count rises by one (R174, R175 step 3). -/
def writeRing (s : State) (w : Windows) (data : Line) : State :=
  let s1 := enqueue s (.content (w.noticeBase + s.notices.producer.toNat % w.noticeLines) data none)
  { s1 with notices := { s1.notices with producer := s1.notices.producer + 1 } }

/-- Write a notice, with the status line reference behind it (R175 step 3). The post ends when the notice is queued. -/
def writeNotice (given : Bool) (t : Thread) (n : Notice) (s : State) : OpResult :=
  match s.decoder.windows with
  | none => .done (endTurn s) []
  | some w =>
    if hasPlace given s then
      .done (endTurn (noteStatus (writeRing s w (noticeLine n s.notices.producer s.control.time)))) []
    else .wait (beginWait s (.thread t))

/-- The record of a path whose change has been counted: the change count rises to at most 65535 and the reason is recorded (R179). -/
def NoticeRecord.counted (r : NoticeRecord) (why : PathReason) : NoticeRecord :=
  { r with count := min 65535 (r.count + 1), reason := some why }

/-- A PATH_STATE post (R179). -/
def postPathState (t : Thread) (p : Nat) (why : PathReason) (s : State) : OpResult :=
  withTurn t s fun s =>
    let r := noticeRecord s p
    if !s.control.enables.path then .done (endTurn s) []
    else if !r.outstanding && !r.due && ringOpen s then .done (setRecord s p (r.counted why)) [.writePath p true]
    else .done (endTurn (setRecord s p { r.counted why with due := true })) []

/-- The record of a path whose PATH_STATE has been written: OUTSTANDING, no due mark, count 0 (R179, R180, R181). -/
def NoticeRecord.written (r : NoticeRecord) (gen : BitVec 16) : NoticeRecord :=
  { r with outstanding := true, due := false, lastGen := gen, count := 0 }

/-- Write a PATH_STATE showing the path's state and generation as they stand (R178, R179). A record whose count was reset while
the notice waited for room has nothing to report, and nothing is written (log 20). -/
def writePathState (given : Bool) (t : Thread) (p : Nat) (last : Bool) (s : State) : OpResult :=
  let stop := fun s => if last then endTurn s else s
  let r := noticeRecord s p
  match s.decoder.windows with
  | none => .done (stop s) []
  | some w =>
    if r.count = 0 then .done (stop s) []
    else if hasPlace given s then
      .done (stop (setRecord (noteStatus (writeRing s w (pathStateLine s p r))) p (r.written (generationOf s p)))) []
    else .wait (beginWait s (.thread t))

/-- The deferred path notices from path `p` upward are written, in ascending path ID, until none is left or the ring is full (R181). -/
def drainDeferred (t : Thread) (p : Nat) (s : State) : OpResult :=
  withTurn t s fun s =>
    match s.notices.records.nextFrom p Config.pathEntries (fun _ r => r.deferred) with
    | none => .done (endTurn s) []
    | some (q, _) => if ringRoom s then .done s [.writePath q false, .drain (q + 1)] else .done (endTurn s) []

/-- A path acknowledgement (R180). -/
def acknowledgePath (t : Thread) (p : Nat) (gen : BitVec 16) (s : State) : OpResult :=
  withTurn t s fun s =>
    let r := noticeRecord s p
    if Config.pathEntries ≤ p ∨ r.outstanding = false ∨ gen ≠ r.lastGen then .done s []
    else if !r.due then .done (setRecord s p { r with outstanding := false }) []
    else if ringOpen s then .done s [.writePath p false]
    else .done (setRecord s p { r with outstanding := false }) []

end Sys2Proof.Machine
end

