-- ==== Sys2Proof/Machine/IntakeOps.lean ====
section
/-!
DEFINITION. The steps of the intake unit (spec/04): placing a record by its kind, its tag and the batch state, aborting the open
batch, the end of a taking and the end of takings at STOP.
-/

namespace Sys2Proof.Machine

/-- Remove the open batch from a queue read from its tail: its members, and its opening marker, the first marker met. Answers
the rest, the number of records removed and the marker's line offset (R63). -/
def removeOpen : List QueuedRecord → List QueuedRecord × Nat × Nat
  | [] => ([], 0, 0)
  | r :: rest =>
    match r.role with
    | .opening => (rest, 1, r.offset)
    | .member =>
      let x := removeOpen rest
      (x.1, x.2.1 + 1, x.2.2)
    | .loose | .closing =>
      let x := removeOpen rest
      (r :: x.1, x.2.1, x.2.2)

/-- The open batch leaves the intake queue, and the batch state becomes `b` (R63 steps 1 to 3). -/
def abortBatch (s : State) (b : BatchState) : State :=
  { s with intake := { s.intake with queue := (removeOpen s.intake.queue.reverse).1.reverse, batch := b } }

/-- The number of records an abort removes, marker included (R63, R71). -/
def abortCount (s : State) : Nat := (removeOpen s.intake.queue.reverse).2.1

/-- The line offset of the open batch's opening marker (R71). -/
def openMarkerOffset (s : State) : Nat := (removeOpen s.intake.queue.reverse).2.2

/-- The record in taking joins the intake queue in a role (R57). -/
def queueRecord (s : State) (r : HandedRecord) (role : Role) : State :=
  { s with intake := { s.intake with
    queue := s.intake.queue ++ [{ record := r.record, offset := r.offset, role }], taking := none } }

def setBatch (s : State) (b : BatchState) : State := { s with intake := { s.intake with batch := b } }

/-- A record dropped with BATCH_FAULT CLOSE_MISMATCH (R60 to R62, R71). -/
def mismatch (r : HandedRecord) (openTag : BitVec 16) : List Op :=
  [.post (.batchFault .closeMismatch (recKindCode r.record) (recTag r.record) openTag r.offset 0)]

/-- The tag of the open batch, or 0 (R71). -/
def BatchState.openTag : BatchState → BitVec 16
  | .opened t => t
  | .closed | .discarding _ => 0

/-- A BATCH_OPEN is queued as the opening marker of a new batch (R60, R62). -/
def openNewBatch (s : State) (r : HandedRecord) : State := setBatch (queueRecord s r .opening) (.opened (recTag r.record))

/-- A record of kinds 1..5 that has passed its form check (R60 to R62). -/
def placeReport (s : State) (r : HandedRecord) : State × List Op :=
  if recTag r.record = 0 then (queueRecord s r .loose, [])
  else match s.intake.batch with
    | .closed => (s, mismatch r 0)
    | .opened t => if recTag r.record = t then (queueRecord s r .member, []) else (s, mismatch r t)
    | .discarding t => if recTag r.record = t then (s, []) else (s, mismatch r 0)

/-- A BATCH_OPEN that has passed its form check (R60 to R62). A nesting one first aborts the open batch. -/
def placeOpen (s : State) (r : HandedRecord) : State × List Op :=
  match s.intake.batch with
  | .closed => (openNewBatch s r, [.ref .status])
  | .opened t =>
    (abortBatch s .closed,
      [.post (.batchFault .nested (recKindCode r.record) t (recTag r.record) r.offset (abortCount s)), .openBatch])
  | .discarding t => if recTag r.record = t then (s, []) else (openNewBatch s r, [.ref .status])

/-- A BATCH_CLOSE that has passed its form check (R60 to R62). -/
def placeClose (s : State) (r : HandedRecord) : State × List Op :=
  match s.intake.batch with
  | .closed => (s, mismatch r 0)
  | .opened t =>
    if recTag r.record = t then (setBatch (queueRecord s r .closing) .closed, [.ref .status]) else (s, mismatch r t)
  | .discarding t => if recTag r.record = t then (setBatch s .closed, []) else (s, mismatch r 0)

/-- The taking of a record, up to its end (R57 to R62): the state after it is placed or dropped, and what it queues and posts. -/
def placeRecord (s : State) (r : HandedRecord) : State × List Op :=
  if recKindCode r.record = 0 then (s, [])
  else if !formOk r.record then (s, [.post (.recordFault .badField r.record r.offset)])
  else match recKind r.record with
    | some .batchOpen => placeOpen s r
    | some .batchClose => placeClose s r
    | _ => placeReport s r

/-- The opening marker of the nesting BATCH_OPEN in taking is queued, and its status line reference (R61). -/
def openNested (s : State) : OpResult :=
  match s.intake.taking with
  | some r => .done (openNewBatch s r) [.ref .status]
  | none => .done s []

/-- The end of a taking: a dropped record stops counting, and an open batch is aborted when the count is 64 (R57, R64). -/
def finishTaking (r : HandedRecord) (s : State) : OpResult :=
  let s1 := { s with intake := { s.intake with taking := none } }
  match s1.intake.batch with
  | .opened t =>
    if intakeCount s1 = Config.intakeRecords then
      .done (abortBatch s1 (.discarding t))
        [.post (.batchFault .overflow (recKindCode r.record) t 0 r.offset (abortCount s1)), .ref .status, .stopCheck]
    else .done s1 [.stopCheck]
  | .closed | .discarding _ => .done s1 [.stopCheck]

/-- After STOP, once no record awaits its taking, an open batch is aborted with STOPPED and DISCARDING ends (R72). The record at the
marker's offset is a BATCH_OPEN, kind 6 (R71). -/
def stopBatch (s : State) : OpResult :=
  if s.control.mode ≠ .run ∧ s.intake.handed = [] then
    match s.intake.batch with
    | .opened t =>
      .done (abortBatch s .closed) [.post (.batchFault .stopped 6 t 0 (openMarkerOffset s) (abortCount s)), .ref .status]
    | .discarding _ => .done (setBatch s .closed) []
    | .closed => .done s []
  else .done s []

/-- The end of a request's taking: a dropped request stops counting (R140). -/
def finishRequest (s : State) : OpResult := .done { s with paths := { s.paths with taking := false } } []

end Sys2Proof.Machine
end

