-- ==== Sys2Proof/Machine/TopologyOps.lean ====
section
/-!
DEFINITION. The steps of the topology unit (spec/05, spec/06): nodes, ports and their pairing, links, removal, and the release of
link IDs. Each definition is one step of an operation under the topology unit's grant; what it queues and posts, and the steps
that follow it, come back as a list in the order of R88, R90 and R105.
-/

namespace Sys2Proof.Machine

/-! ### Derived values -/

/-- Insert an ID into a list of distinct IDs in ascending order. -/
def insertId (x : Id32) : List Id32 → List Id32
  | [] => [x]
  | y :: r => if x.toNat < y.toNat then x :: y :: r else if x = y then y :: r else y :: insertId x r

/-- The union of two SRLG lists, each ID once, in ascending order (R99). -/
def srlgUnion (a b : List Id32) : List Id32 := (a ++ b).foldl (fun acc x => insertId x acc) []

/-- The derived attributes of the link between two ports (R99). -/
def deriveAttrs (s : State) (p q : PortEntry) : LinkAttrs :=
  let union := srlgUnion p.reported.srlgs q.reported.srlgs
  { cost := max 1 (max p.reported.cost q.reported.cost), nu := max p.nu q.nu, foreign := p.foreign ||| q.foreign,
    srlgs := union.take Config.maxSrlgs, truncated := decide (Config.maxSrlgs < union.length),
    interDomain := portDomain s p ≠ portDomain s q }

/-- A port with the fields a report gives it, its derived fields computed with a profile (R83, R51, R46, R47). -/
def PortEntry.withReport (e : PortEntry) (p : Profile) (f : PortReported) : PortEntry :=
  { e with reported := f, nu := convert p f.raw, foreign := mapForeign p f.mask, clipped := mapClipped p f.mask }

/-- The profile of a port's domain, that of its node (R43, R51). -/
def portProfile (s : State) (e : PortEntry) : Profile := domainProfile s (portDomain s e)

/-- A PORT_STATE notice for a port as it stands, with its old state and link ID (R97). -/
def portStateNotice (s : State) (j : Nat) (e : PortEntry) (old : Option Pairing) (oldLink : Option Nat) (why : TopoReason) :
    Notice :=
  .portState j (portNetId s e) e.number e.reported.farId e.reported.farPort old (some e.pairing) oldLink e.link why

/-- A port's export reference, and its PORT_STATE when its state or link ID differs from the old ones (R88 steps 5 to 7). -/
def portItems (s : State) (j : Nat) (old : Option Pairing) (oldLink : Option Nat) (why : TopoReason) : List Op :=
  match s.topology.ports.get? j with
  | none => []
  | some e =>
    if old = some e.pairing ∧ oldLink = e.link then [.ref (.port j)]
    else [.ref (.port j), .post (portStateNotice s j e old oldLink why)]

/-! ### Links (R100 to R103) -/

/-- An end of a new link. -/
def linkEndOf (s : State) (j : Nat) (e : PortEntry) : LinkEnd := { port := some j, netId := portNetId s e, number := e.number }

/-- The entry of a new link between two ports: end A has the lower network ID; UP when both ports are up (R98, R100). -/
def newLink (s : State) (j : Nat) (p : PortEntry) (i : Nat) (q : PortEntry) : LinkEntry :=
  let a := linkEndOf s j p
  let b := linkEndOf s i q
  { state := if p.reported.up && q.reported.up then .up else .down,
    endA := if a.netId.toNat < b.netId.toNat then a else b, endB := if a.netId.toNat < b.netId.toNat then b else a,
    attrs := deriveAttrs s p q, created := topoNow s, changed := topoNow s, answered := false }

/-- What the allocation of a link queues, posts and sends (R100). -/
def newLinkItems (k : Nat) (l : LinkEntry) : List Op :=
  match l.state with
  | .up => [.ref (.link k), .ref .status, .post (.linkUp k .new l)]
  | .down | .retiring =>
    [.ref (.link k), .ref .status, .post (.linkDown k .new l false false), .event { kind := .down, link := k }]

/-- A pair of ports takes link ID `k`: both become PAIRED with it and the link is created (R81 step 4, R100, R108). -/
def pairPorts (s : State) (k j : Nat) (p : PortEntry) (i : Nat) (q : PortEntry) : State :=
  setPairing (setPairing (setLink s k (newLink s j p i q)) j .paired (some k)) i .paired (some k)

/-- The two port entries of a link in UP or DOWN. -/
def linkPorts (s : State) (l : LinkEntry) : Option (PortEntry × PortEntry) :=
  match l.endA.port, l.endB.port with
  | some a, some b =>
    match s.topology.ports.get? a, s.topology.ports.get? b with
    | some p, some q => some (p, q)
    | _, _ => none
  | _, _ => none

/-- Derive a link's attributes again; a difference is stored and reported (R102). -/
def updateLinkAttributes (k : Nat) (s : State) : OpResult :=
  match s.topology.links.get? k with
  | none => .done s []
  | some l =>
    match linkPorts s l with
    | none => .done s []
    | some (p, q) =>
      let new := deriveAttrs s p q
      if new = l.attrs then .done s []
      else
        .done (setLink s k { l with attrs := new, changed := topoNow s })
          [.ref (.link k), .post (.linkChanged k l.attrs new)]

/-- Derive a link's state again from its ports' operational states (R101). -/
def updateLinkState (k : Nat) (s : State) : OpResult :=
  match s.topology.links.get? k with
  | none => .done s []
  | some l =>
    match linkPorts s l with
    | none => .done s []
    | some (p, q) =>
      let bothUp := p.reported.up && q.reported.up
      if l.state = .up ∧ bothUp = false then
        let l' := { l with state := .down, changed := topoNow s }
        .done (setLink s k l')
          [.ref (.link k), .post (.linkDown k .portDown l' (!p.reported.up) (!q.reported.up)),
           .event { kind := .down, link := k }]
      else if l.state = .down ∧ bothUp = true then
        let l' := { l with state := .up, changed := topoNow s }
        .done (setLink s k l') [.ref (.link k), .post (.linkUp k .recovered l'), .event { kind := .up, link := k }]
      else .done s []

/-- A port leaves its link. -/
def leaveLink (s : State) (j : Option Nat) : State :=
  match j with
  | none => s
  | some j => { s with topology := { s.topology with ports := s.topology.ports.modify j (fun e => { e with link := none }) } }

/-- Retire a link: RETIRING, both ports leave it, LINK_RETIRED is posted and a RETIRE event is sent (R103). -/
def retireLink (k : Nat) (why : TopoReason) (s : State) : OpResult :=
  match s.topology.links.get? k with
  | none => .done s []
  | some l =>
    let l' := { l with
      state := .retiring, endA := { l.endA with port := none }, endB := { l.endB with port := none },
      changed := topoNow s, answered := false }
    .done (setLink (leaveLink (leaveLink s l.endA.port) l.endB.port) k l')
      [.ref (.link k), .post (.linkRetired k why l' l.state), .event { kind := .retire, link := k }]

/-! ### Pairing (R80 to R82) -/

/-- A port without a link takes a pairing state, with its export reference and PORT_STATE (R87 steps 1 and 2). -/
def movePort (j : Nat) (st : Pairing) (oldLink : Option Nat) (why : TopoReason) (s : State) : OpResult :=
  match s.topology.ports.get? j with
  | none => .done s []
  | some e =>
    let s1 := setPairing s j st none
    .done s1 (portItems s1 j (some e.pairing) oldLink why)

/-- A port takes newly reported fields with a new claim (R87 step 3); it belongs to no pair until its evaluation. -/
def repointPort (j : Nat) (f : PortReported) (s : State) : OpResult :=
  match s.topology.ports.get? j with
  | none => .done s []
  | some e =>
    .done (setPort s j { e.withReport (portProfile s e) f with
      refresh := topoNow s, pairing := .unanswered, link := none }) []

/-- The two ports are PAIRED together or WAITING together already (R81 step 3). -/
def pairedTogether (p q : PortEntry) : Bool :=
  (p.pairing == .paired && q.pairing == .paired && p.link.isSome && p.link == q.link) ||
    (p.pairing == .waiting && q.pairing == .waiting)

/-- Evaluate a port against its target (R81). What follows is that of R88 steps 4 to 6: a new link with its items, the port's
items against its old state and link ID, its partner's items. -/
def evaluatePort (j : Nat) (old : Option Pairing) (oldLink : Option Nat) (s : State) : OpResult :=
  match s.topology.ports.get? j with
  | none => .done s []
  | some p =>
    match targetOf s p with
    | none =>
      let s1 := setPairing s j .unanswered none
      .done s1 (portItems s1 j old oldLink .reported)
    | some (i, q) =>
      if !claims s q p then
        let s1 := setPairing s j .contradicted none
        .done s1 (portItems s1 j old oldLink .reported)
      else if pairedTogether p q then .done s (portItems s j old oldLink .reported)
      else
        match s.topology.links.lowestFree Config.linkEntries with
        | none =>
          let s1 := setPairing (setPairing s j .waiting none) i .waiting none
          .done s1 (portItems s1 j old oldLink .reported ++ portItems s1 i (some q.pairing) q.link .reported)
        | some k =>
          let s1 := pairPorts s k j p i q
          .done s1 (newLinkItems k (newLink s j p i q) ++ portItems s1 j old oldLink .reported ++
            portItems s1 i (some q.pairing) q.link .reported)

/-- The next claimant of a port from index `i` upward, other than the port itself and its own target (R82). -/
def nextClaimant (s : State) (j : Nat) (p : PortEntry) (i : Nat) : Option (Nat × PortEntry) :=
  s.topology.ports.nextFrom i Config.portEntries (fun c e => c ≠ j && claims s e p && !claims s p e)

/-- Evaluate again the claimants of a port: each finds it in use but claiming another port (R82). Each changes its state at its own turn,
before its own items are queued. DESIGN CHOICE, unsafe (log 50). -/
def recheckClaimants (j i : Nat) (s : State) : OpResult :=
  match s.topology.ports.get? j with
  | none => .done s []
  | some p =>
    match nextClaimant s j p i with
    | none => .done s []
    | some (c, e) =>
      if e.pairing = .contradicted then .done s [.claimants j (c + 1)]
      else
        let s1 := setPairing s c .contradicted none
        .done s1 (portItems s1 c (some e.pairing) e.link .reported ++ [.claimants j (c + 1)])

/-! ### Removal (R90, R91) -/

/-- The partner of a PAIRED port: the other port of its link. -/
def linkPartner (s : State) (j k : Nat) : Option Nat :=
  match s.topology.links.get? k with
  | none => none
  | some l => if l.endA.port = some j then l.endB.port else l.endA.port

/-- Remove a port (R90): its link is retired first, then its entry is freed. -/
def removePort (j : Nat) (why : TopoReason) (s : State) : OpResult :=
  match s.topology.ports.get? j with
  | none => .done s []
  | some e =>
    match e.link with
    | none => .done s [.freePort j why none none]
    | some k => .done s [.retireLink k why, .freePort j why (some k) ((linkPartner s j k).map (fun q => (q, k)))]

/-- Free a removed port's entry, with its items (R90 step 2); its claimants follow. -/
def freePort (j : Nat) (why : TopoReason) (oldLink : Option Nat) (former : Option (Nat × Nat)) (s : State) : OpResult :=
  match s.topology.ports.get? j with
  | none => .done s []
  | some e =>
    let s1 := setPortCount s e.node (· - 1)
    .done { s1 with topology := { s1.topology with ports := s1.topology.ports.erase j } }
      [.ref (.port j), .ref (.node e.node), .ref .status,
       .post (.portState j (portNetId s e) e.number e.reported.farId e.reported.farPort (some e.pairing) none oldLink none why),
       .orphans (portNetId s e) e.number 0 why former]

/-- The link ID a claimant held before the retirement of this removal, if it is the former partner. -/
def formerLink (former : Option (Nat × Nat)) (c : Nat) (e : PortEntry) : Option Nat :=
  match former with
  | some (q, k) => if q = c then some k else e.link
  | none => e.link

/-- The claimants of a removed port become UNANSWERED (R82, R90 step 3). R90 and R82 leave open whether all of them change state before
the first one's items are queued: here each changes at its own turn, in ascending index, before its own items are queued, so a line that is
issued while the operation waits for room shows the later ones in their old state. DESIGN CHOICE, unsafe (log 50). -/
def orphanClaimants (id : Id32) (number i : Nat) (why : TopoReason) (former : Option (Nat × Nat)) (s : State) : OpResult :=
  match s.topology.ports.nextFrom i Config.portEntries
      (fun _ e => e.reported.farId == id && e.reported.farPort == number) with
  | none => .done s []
  | some (c, e) =>
    if e.pairing = .unanswered then .done s [.orphans id number (c + 1) why former]
    else
      let s1 := setPairing s c .unanswered none
      .done s1 (portItems s1 c (some e.pairing) (formerLink former c e) why ++ [.orphans id number (c + 1) why former])

/-- Remove the ports of a node from index `j` upward, in ascending index, then free the node's entry (R91). -/
def removePorts (n j : Nat) (why : TopoReason) (count : Nat) (s : State) : OpResult :=
  match s.topology.ports.nextFrom j Config.portEntries (fun _ e => e.node == n) with
  | none => .done s [.freeNode n why count]
  | some (i, _) => .done s [.removePort i why, .removePorts n (i + 1) why (count + 1)]

/-- Free a removed node's entry and post NODE_REMOVED (R91). -/
def freeNode (n : Nat) (why : TopoReason) (count : Nat) (s : State) : OpResult :=
  match s.topology.nodes.get? n with
  | none => .done s []
  | some e =>
    .done { s with topology := { s.topology with nodes := s.topology.nodes.erase n } }
      [.ref (.node n), .ref .status, .post (.nodeRemoved n e.netId why count)]

/-! ### Reports (R66, R75 to R77, R84 to R87) -/

/-- A record whose application fails makes no effect but its RECORD_FAULT (R66, R70). -/
def recordFault (s : State) (why : RecordReason) (l : Line) (off : Nat) : OpResult := .done s [.post (.recordFault why l off)]

/-- A new node entry (R75). -/
def newNode (s : State) (l : Line) : NodeEntry :=
  { netId := recId l, domain := recByte8 l, rawPenalty := nodeRawPenalty l,
    penalty := convert (domainProfile s (recByte8 l)) (nodeRawPenalty l), transit := nodeTransit l, refresh := topoNow s,
    portCount := 0 }

/-- A NODE_REPORT for an entry in use (R76, R77). -/
def updateNode (s : State) (i : Nat) (e : NodeEntry) (l : Line) : OpResult :=
  if e.domain = recByte8 l ∧ e.rawPenalty = nodeRawPenalty l ∧ e.transit = nodeTransit l then
    .done (setNode s i { e with refresh := topoNow s }) []
  else
    let penalty :=
      if e.domain = recByte8 l ∧ e.rawPenalty = nodeRawPenalty l then e.penalty
      else convert (domainProfile s (recByte8 l)) (nodeRawPenalty l)
    let e' := { e with
      domain := recByte8 l, rawPenalty := nodeRawPenalty l, transit := nodeTransit l, penalty, refresh := topoNow s }
    .done (setNode s i e')
      ([.ref (.node i),
        .post (.nodeChanged i e' (e.domain ≠ e'.domain) (e.rawPenalty ≠ e'.rawPenalty || e.penalty ≠ e'.penalty)
          (e.transit ≠ e'.transit))] ++
        (if e.domain ≠ recByte8 l then [.reconvertPorts i 0] else []))

/-- Apply a NODE_REPORT (R75, R76). -/
def applyNodeReport (l : Line) (off : Nat) (s : State) : OpResult :=
  if !s.profiles.domains.has (recByte8 l) then recordFault s .profileMissing l off
  else
    match findNode s (recId l) with
    | some (i, e) => updateNode s i e l
    | none =>
      match s.topology.nodes.lowestFree Config.nodeEntries with
      | none => recordFault s .tableFull l off
      | some i =>
        .done (setNode s i (newNode s l)) [.ref (.node i), .post (.nodeAdded i (newNode s l)), .ref .status]

/-- A new port entry of node `i` (R84); its pairing state is set by its evaluation. Until then, while the application waits to queue
the references before it, the entry is UNANSWERED with no link: the spec names no state for that time (log 43). -/
def newPort (s : State) (i : Nat) (n : NodeEntry) (l : Line) : PortEntry :=
  let blank : PortEntry :=
    { node := i, number := recByte8 l, reported := portReported l, nu := 0, foreign := 0, clipped := false,
      refresh := topoNow s, pairing := .unanswered, link := none }
  blank.withReport (domainProfile s n.domain) (portReported l)

/-- The update of a PAIRED port's link after a report with an unchanged claim: attributes first, then state (R86, R101). -/
def linkUpdates (e : PortEntry) : List Op :=
  match e.link with
  | none => []
  | some k => [.linkAttributes k, .linkState k]

/-- What becomes of a port's former pair when its claim changes (R87 steps 1 and 2). -/
def leavePair (s : State) (j : Nat) (e : PortEntry) : List Op :=
  match e.pairing with
  | .paired =>
    match e.link with
    | none => []
    | some k =>
      match linkPartner s j k with
      | none => [.retireLink k .claimChanged]
      | some q => [.retireLink k .claimChanged, .portMove q .contradicted (some k) .reported]
  | .waiting =>
    match targetOf s e with
    | none => []
    | some (q, _) => [.portMove q .contradicted none .reported]
  | .unanswered | .contradicted => []

/-- A PORT_REPORT for an entry in use: identical, with the same claim, or re-pointed (R85 to R88). -/
def updatePort (s : State) (j : Nat) (e : PortEntry) (f : PortReported) : OpResult :=
  if f = e.reported then .done (setPort s j { e with refresh := topoNow s }) []
  else if f.farId = e.reported.farId ∧ f.farPort = e.reported.farPort then
    .done (setPort s j { e.withReport (portProfile s e) f with refresh := topoNow s }) (linkUpdates e ++ [.ref (.port j)])
  else .done s (leavePair s j e ++ [.repoint j f, .evaluate j (some e.pairing) e.link, .claimants j 0])

/-- Apply a PORT_REPORT (R84). -/
def applyPortReport (l : Line) (off : Nat) (s : State) : OpResult :=
  match findNode s (recId l) with
  | none => recordFault s .unknownReporter l off
  | some (i, n) =>
    match findPort s i (recByte8 l) with
    | some (j, e) => updatePort s j e (portReported l)
    | none =>
      match s.topology.ports.lowestFree Config.portEntries with
      | none => recordFault s .tableFull l off
      | some j =>
        .done (setPortCount (setPort s j (newPort s i n l)) i (· + 1))
          [.ref (.node i), .ref .status, .evaluate j none none, .claimants j 0]

/-- Apply a PORT_WITHDRAW; one that names a missing node or port is ignored (R89). -/
def applyPortWithdraw (l : Line) (s : State) : OpResult :=
  match findNode s (recId l) with
  | none => .done s []
  | some (i, _) =>
    match findPort s i (recByte8 l) with
    | none => .done s []
    | some (j, _) => .done s [.removePort j .withdrawn]

/-- Apply a NODE_WITHDRAW; one that names a missing node is ignored (R91). -/
def applyNodeWithdraw (l : Line) (s : State) : OpResult :=
  match findNode s (recId l) with
  | none => .done s []
  | some (i, _) => .done s [.removePorts i 0 .withdrawn 0]

/-- The refresh times of a domain's nodes and of their ports become "now" (R68). -/
def refreshDomain (s : State) (d : Nat) : State :=
  { s with topology := { s.topology with
    nodes := s.topology.nodes.map (fun x => if x.2.domain = d then (x.1, { x.2 with refresh := topoNow s }) else x),
    ports := s.topology.ports.map (fun x =>
      if s.topology.nodes.has x.2.node ∧ portDomain s x.2 = d then (x.1, { x.2 with refresh := topoNow s }) else x) } }

/-- Apply one report record by its kind (R66). -/
def applyRecord (l : Line) (off : Nat) (s : State) : OpResult :=
  match recKind l with
  | some .nodeReport => applyNodeReport l off s
  | some .portReport => applyPortReport l off s
  | some .portWithdraw => applyPortWithdraw l s
  | some .nodeWithdraw => applyNodeWithdraw l s
  | some .domainRefresh => .done (refreshDomain s (recByte8 l)) []
  | some .batchOpen | some .batchClose | none => .done s []

/-! ### Conversion under a new profile (R77, R78) -/

/-- Bring the next port of a node from index `j` upward into line with the profile of the node's domain (R77). -/
def reconvertPorts (n j : Nat) (s : State) : OpResult :=
  match s.topology.ports.nextFrom j Config.portEntries (fun _ e => e.node == n) with
  | none => .done s []
  | some (i, e) =>
    let e' := e.withReport (portProfile s e) e.reported
    .done (setPort s i e')
      ((if e' = e then [] else [.ref (.port i)]) ++
        (match e.link with | none => [] | some k => [.linkAttributes k]) ++ [.reconvertPorts n (i + 1)])

/-- Bring the next node of a domain from index `i` upward into line with the domain's profile (R78). -/
def reconvertNodes (d i : Nat) (s : State) : OpResult :=
  match s.topology.nodes.nextFrom i Config.nodeEntries (fun _ e => e.domain == d) with
  | none => .done s []
  | some (n, e) =>
    let e' := { e with penalty := convert (domainProfile s d) e.rawPenalty }
    .done (setNode s n e')
      ((if e'.penalty = e.penalty then [] else [.ref (.node n), .post (.nodeChanged n e' false true false)]) ++
        [.reconvertPorts n 0, .reconvertNodes d (n + 1)])

/-! ### Release of a link ID, strike events, the end of an operation -/

/-- A freed link ID goes to the WAITING pair with the lowest port index (R108). -/
def offerLink (k : Nat) (s : State) : OpResult :=
  match s.topology.ports.find? (fun x => x.2.pairing == .waiting) with
  | none => .done s []
  | some (j, p) =>
    match targetOf s p with
    | none => .done s []
    | some (i, q) =>
      let s1 := pairPorts s k j p i q
      .done s1 (newLinkItems k (newLink s j p i q) ++ portItems s1 j (some p.pairing) p.link .linkFreed ++
        portItems s1 i (some q.pairing) q.link .linkFreed)

/-- Send a strike event; a full strike queue suspends the operation (R104). -/
def sendEvent (e : Strike) (s : State) : OpResult :=
  if s.paths.strikes.length < Config.strikeEvents then
    .done { s with paths := { s.paths with strikes := s.paths.strikes ++ [e] } } []
  else .wait { s with topology := { s.topology with strikeWait := true } }

end Sys2Proof.Machine
end

