-- ==== Sys2Proof/Machine/Engine.lean ====
section
/-!
DEFINITION. The path engine (spec/07): which links a search may use, the search for one start slot, the orderings and policies,
automatic class choice, protected pairs and the outcome of a computation. A computation works on the engine's own record
(R116) and reads the rest of the state; it changes nothing else.
-/

namespace Sys2Proof.Machine

/-- What one search is made for: the inputs, the end nodes, the class with its width and budget, the excluded links and nodes
(the computation's own and those of diversity), and the primary that counts as reserved in a backup search (R118 to R121). -/
structure Query where
  inputs : Inputs
  src : Nat
  dst : Nat
  cls : Nat
  width : Nat
  budget : Nat
  noLinks : List Nat
  noNodes : List Nat
  taken : Option Route
  deriving DecidableEq, Repr

/-- An eligible link as the search sees it: its ID, its two end nodes, its cost and NU. -/
structure Edge where
  link : Nat
  a : Nat
  b : Nat
  cost : Nat
  nu : Nat
  deriving DecidableEq, Repr

/-! ### Eligibility (R120 to R123) -/

/-- The end nodes of a link: the nodes of the two port entries it holds (R120). -/
def linkNodes (s : State) (l : LinkEntry) : Option (Nat × Nat) :=
  match linkPorts s l with
  | some (p, q) => some (p.node, q.node)
  | none => none

/-- The domain of a node by its index. -/
def nodeDomain (s : State) (i : Nat) : Nat := ((s.topology.nodes.get? i).map (·.domain)).getD 0

/-- The slots that count as reserved on a link: its reservation set, without the own route's range on the own route's links, and
with the primary's range on the primary's links during a backup search (R121). -/
def countedReserved (s : State) (q : Query) (k : Nat) : SlotSet :=
  let base := reservedOn s k
  let own :=
    match q.inputs.own with
    | some r => if r.links.contains k then base &&& ~~~r.range else base
    | none => base
  match q.taken with
  | some r => if r.links.contains k then own ||| r.range else own
  | none => own

/-- A node's domain can carry a slot range and the class (R48, R121). -/
def domainCarries (s : State) (q : Query) (range : SlotSet) (i : Nat) : Bool :=
  slotsIn range (domainProfile s (nodeDomain s i)).slots && domainHasClass s (nodeDomain s i) q.cls

/-- The spectrum test (R121). -/
def spectrumOk (s : State) (q : Query) (start k : Nat) (l : LinkEntry) (a b : Nat) : Bool :=
  let range := slotRange start q.width
  slotsIn range q.inputs.mask && slotsApart range l.attrs.foreign && slotsApart range (countedReserved s q k) &&
    domainCarries s q range a && domainCarries s q range b

/-- A node's domain allows transit, or is the source's or the destination's domain (R122). -/
def transitOk (s : State) (q : Query) (i : Nat) : Bool :=
  (domainProfile s (nodeDomain s i)).transit || nodeDomain s i == nodeDomain s q.src || nodeDomain s i == nodeDomain s q.dst

/-- A link is eligible for the query's class and a start slot (R120 to R122); its edge. -/
def eligible (s : State) (q : Query) (start : Nat) (x : Nat × LinkEntry) : Option Edge :=
  match linkNodes s x.2 with
  | none => none
  | some (a, b) =>
    if x.2.state == .up && decide (x.2.attrs.nu < Config.opaqueNoise) && !q.noLinks.contains x.1 &&
        !q.noNodes.contains a && !q.noNodes.contains b && spectrumOk s q start x.1 x.2 a b && transitOk s q a &&
        transitOk s q b
    then some { link := x.1, a, b, cost := x.2.attrs.cost, nu := x.2.attrs.nu } else none

/-- The eligible links in ascending link ID: the set is fixed for one search (R123). -/
def eligibleEdges (s : State) (q : Query) (start : Nat) : List Edge := s.topology.links.filterMap (eligible s q start)

/-- The start slots the mask allows, ascending (R123). -/
def allowedStarts (mask : SlotSet) (width : Nat) : List Nat :=
  (List.range Config.gridSlots).filter
    (fun x => x % width == 0 && decide (x + width ≤ Config.gridSlots) && slotsIn (slotRange x width) mask)

/-! ### The search for one start slot (R124 to R127) -/

/-- Lexicographic comparison, from the left. -/
def lexLess : List Nat → List Nat → Bool
  | [], _ => false
  | _, [] => false
  | x :: xs, y :: ys => decide (x < y) || (x == y && lexLess xs ys)

/-- A label's key without its node index, by the search's key ordering (R124): `byNoise` for NOISE, else COST. -/
def Label.key (byNoise : Bool) (l : Label) : List Nat :=
  if byNoise then [l.noise, l.cost, l.hops] else [l.cost, l.noise, l.hops]

/-- The lesser of the best so far and one more label (R124). -/
def lesserLabel (byNoise : Bool) (best : Option (Nat × Label)) (x : Nat × Label) : Option (Nat × Label) :=
  if x.2.final then best
  else
    match best with
    | none => some x
    | some b => if lexLess (x.2.key byNoise ++ [x.1]) (b.2.key byNoise ++ [b.1]) then some x else some b

/-- The node to extract: of the labels that are not final, the one with the smallest key (R124). -/
def nextExtracted (byNoise : Bool) (labels : Table Label) : Option (Nat × Label) :=
  labels.foldl (lesserLabel byNoise) none

/-- The other end node of an edge. -/
def Edge.other (e : Edge) (u : Nat) : Nat := if e.a = u then e.b else e.a

/-- The edge of a link ID. -/
def edgeOf (es : List Edge) (k : Nat) : Option Edge := es.find? (fun e => e.link == k)

/-- The far end of a label's predecessor link (R126). -/
def predNode (es : List Edge) (v : Nat) (l : Label) : Option Nat := (l.pred.bind (edgeOf es)).map (fun e => e.other v)

/-- The label that crossing an edge from node `u` offers its other end (R125). -/
def offered (s : State) (q : Query) (u : Nat) (lu : Label) (e : Edge) : Label :=
  let v := e.other u
  let penalty := ((s.topology.nodes.get? u).map (·.penalty)).getD 0
  let leave := if u = q.src then lu.noise else noiseAdd lu.noise penalty
  let cross := noiseAdd leave e.nu
  let border := (domainProfile s (nodeDomain s v)).border
  let noise := if nodeDomain s u = nodeDomain s v then cross else noiseAdd cross border
  { cost := lu.cost + e.cost, noise, hops := lu.hops + 1, pred := some e.link, final := false }

/-- Whether an offered label replaces the present one (R126). -/
def replaces (byNoise : Bool) (es : List Edge) (u v : Nat) (new old : Label) : Bool :=
  lexLess (new.key byNoise) (old.key byNoise) ||
    (new.key byNoise == old.key byNoise &&
      (match predNode es v old with
       | some w => decide (u < w)
       | none => false))

/-- Relax one edge from the extracted node `u` (R125, R126). -/
def relax (s : State) (q : Query) (byNoise : Bool) (es : List Edge) (u : Nat) (lu : Label) (labels : Table Label) (e : Edge) :
    Table Label :=
  if e.a ≠ u ∧ e.b ≠ u then labels
  else
    let v := e.other u
    let new := offered s q u lu e
    if q.budget < new.noise ∨ q.inputs.hops < new.hops then labels
    else
      match labels.get? v with
      | none => labels.set v new
      | some old => if old.final then labels else if replaces byNoise es u v new old then labels.set v new else labels

/-- A partial route may be extended at a node: it is the source or is transit-capable (R125). -/
def mayExtend (s : State) (q : Query) (u : Nat) : Bool :=
  u == q.src || ((s.topology.nodes.get? u).map (·.transit)).getD false

/-- The extractions of a search; `fuel` bounds them by the number of nodes (R124). Answers the labels, and whether the destination
was reached. -/
def extractions (s : State) (q : Query) (byNoise : Bool) (es : List Edge) : Nat → Table Label → Table Label × Bool
  | 0, labels => (labels, false)
  | fuel + 1, labels =>
    match nextExtracted byNoise labels with
    | none => (labels, false)
    | some (u, lu) =>
      let labels := labels.set u { lu with final := true }
      if u = q.dst then (labels, true)
      else if mayExtend s q u then extractions s q byNoise es fuel (es.foldl (relax s q byNoise es u lu) labels)
      else extractions s q byNoise es fuel labels

/-- The links of the route, read back from a node's predecessor link to the source (R127). -/
def readBack (es : List Edge) (labels : Table Label) : Nat → Nat → List Nat → List Nat
  | 0, _, acc => acc
  | fuel + 1, v, acc =>
    match (labels.get? v).bind (·.pred) with
    | none => acc
    | some k =>
      match edgeOf es k with
      | none => acc
      | some e => readBack es labels fuel (e.other v) (k :: acc)

/-- The label the source begins with (R124). -/
def Label.origin : Label := { cost := 0, noise := 0, hops := 0, pred := none, final := false }

/-- One search on one start slot: the labels it leaves, and its route, if any (R124 to R127). -/
def search (s : State) (q : Query) (start : Nat) (byNoise : Bool) (e : Engine) : Engine × Option Route :=
  let es := eligibleEdges s q start
  let x := extractions s q byNoise es (Config.nodeEntries + 1) [(q.src, Label.origin)]
  let route :=
    if x.2 then
      (x.1.get? q.dst).map (fun l =>
        { cls := q.cls, start, width := q.width, cost := l.cost, noise := l.noise, hops := l.hops,
          links := readBack es x.1 (Config.maxHops + 1) q.dst [] })
    else none
  ({ e with labels := x.1 }, route)

/-! ### Orderings and policies (R129 to R131) -/

/-- The searches of the ordering on one start slot (R129). -/
def searchSlot (s : State) (q : Query) (e : Engine) (start : Nat) : Engine × Option Route :=
  match q.inputs.order with
  | .cost => search s q start false e
  | .noise => search s q start true e
  | .costThenNoise =>
    match search s q start false e with
    | (e1, some r) => (e1, some r)
    | (e1, none) => search s q start true e1

/-- The comparison of routes under LOWEST_COST (R131). -/
def Route.key (order : OrderMode) (r : Route) : List Nat :=
  match order with
  | .noise => [r.noise, r.cost, r.hops, r.start]
  | .cost | .costThenNoise => [r.cost, r.noise, r.hops, r.start]

/-- Visit start slots until one gives a route (R130). -/
def visitFirst (s : State) (q : Query) : List Nat → Engine → Engine
  | [], e => e
  | x :: xs, e =>
    match searchSlot s q e x with
    | (e1, some r) => { e1 with best := some r }
    | (e1, none) => visitFirst s q xs e1

/-- The working candidate after one more slot: replaced only by a strictly lesser route (R131). -/
def betterRoute (order : OrderMode) (best : Option Route) (r : Option Route) : Option Route :=
  match best, r with
  | none, r => r
  | some b, none => some b
  | some b, some r => if lexLess (r.key order) (b.key order) then some r else some b

/-- Visit every start slot and keep the least route (R131). -/
def visitAll (s : State) (q : Query) (xs : List Nat) (e : Engine) : Engine :=
  xs.foldl (fun e x =>
    let y := searchSlot s q e x
    { y.1 with best := betterRoute q.inputs.order y.1.best y.2 }) e

/-- The searches of one query, by its policy: the result stands as the best candidate (R130, R131). -/
def visit (s : State) (q : Query) (e : Engine) : Engine :=
  let starts := allowedStarts q.inputs.mask q.width
  let e := { e with best := none }
  match q.inputs.policy with
  | .firstFit => visitFirst s q starts e
  | .lastFit => visitFirst s q starts.reverse e
  | .lowestCost => visitAll s q starts e

/-! ### Diversity (R133) -/

/-- The SRLG IDs of a route's links (R133). -/
def routeSrlgs (s : State) (r : Route) : List Id32 :=
  r.links.flatMap (fun k => ((s.topology.links.get? k).map (·.attrs.srlgs)).getD [])

/-- The links excluded for diversity from a reference route: its own, and every link that shares an SRLG with it (R133). -/
def diverseLinks (s : State) (r : Route) : List Nat :=
  r.links ++ (s.topology.links.filter (fun x => x.2.attrs.srlgs.any (fun g => (routeSrlgs s r).contains g))).map (·.1)

/-- The nodes of a route. -/
def routeNodes (s : State) (r : Route) : List Nat :=
  r.links.flatMap (fun k =>
    match (s.topology.links.get? k).bind (linkNodes s) with
    | some (a, b) => [a, b]
    | none => [])

/-- The transit nodes of a reference route between the query's ends (R133). -/
def transitNodes (s : State) (q : Query) (r : Route) : List Nat :=
  (routeNodes s r).filter (fun i => i ≠ q.src && i ≠ q.dst)

/-- A query made diverse against a reference route, if there is one (R133). -/
def Query.diverse (s : State) (q : Query) (r : Option Route) : Query :=
  match r with
  | none => q
  | some r =>
    { q with
      noLinks := q.noLinks ++ diverseLinks s r,
      noNodes := if q.inputs.nodeDiverse then q.noNodes ++ transitNodes s q r else q.noNodes }

/-! ### Classes and outcomes (R118, R119, R132, R134, R137) -/

/-- The result for one class (R134): no primary; a primary but a required backup is missing; success. -/
inductive ClassResult where
  | noPrimary
  | noBackup
  | found (primary : Route) (backup : Option Route) (backupOutcome : ReqOutcome)
  deriving DecidableEq, Repr

/-- What a computation hands back (R137), with the end node indices it found (R155). -/
structure Computed where
  outcome : ReqOutcome
  cls : Option Nat
  primary : Option Route
  backup : Option Route
  backupOutcome : ReqOutcome
  src : Nat
  dst : Nat
  deriving DecidableEq, Repr

/-- The query of class `k` (R117, R118). -/
def classQuery (s : State) (i : Inputs) (src dst k : Nat) : Query :=
  { inputs := i, src, dst, cls := k, width := (classEntry s k).width, budget := (classEntry s k).budget,
    noLinks := i.exclLinks,
    noNodes := i.exclNodes.filterMap (fun id => if id = 0 then none else (findNode s id).map (·.1)), taken := none }

/-- Compute for one class: the primary, and with PAIR its backup (R134). -/
def computeClass (s : State) (i : Inputs) (src dst k : Nat) (e : Engine) : Engine × ClassResult :=
  let q := classQuery s i src dst k
  let e1 := visit s (q.diverse s i.reference) { e with cls := some k, primary := none }
  match e1.best with
  | none => (e1, .noPrimary)
  | some p =>
    if !i.pair then (e1, .found p none .none)
    else
      let e2 := visit s (({ q with taken := some p } : Query).diverse s (some p)) { e1 with primary := some p }
      match e2.best with
      | some b => (e2, .found p (some b) .ok)
      | none => if i.requireBackup then (e2, .noBackup) else (e2, .found p none .noBackup)

/-- The class is a member of the class sets of both end domains (R119). -/
def classServed (s : State) (src dst k : Nat) : Bool :=
  domainHasClass s (nodeDomain s src) k && domainHasClass s (nodeDomain s dst) k

/-- An outcome that carries nothing (R137). -/
def Computed.failed (o : ReqOutcome) (src dst : Nat) : Computed :=
  { outcome := o, cls := none, primary := none, backup := none, backupOutcome := if o = .noBackup then .noBackup else .none,
    src, dst }

/-- The classes tried in order until one succeeds; `seen` is the outcome so far (R132, R137). -/
def tryClasses (s : State) (i : Inputs) (src dst : Nat) : List Nat → ReqOutcome → Engine → Engine × Computed
  | [], seen, e => (e, .failed seen src dst)
  | k :: ks, seen, e =>
    if !classServed s src dst k then tryClasses s i src dst ks seen e
    else
      match computeClass s i src dst k e with
      | (e1, .found p b bo) =>
        (e1, { outcome := .ok, cls := some k, primary := some p, backup := b, backupOutcome := bo, src, dst })
      | (e1, .noBackup) => tryClasses s i src dst ks .noBackup e1
      | (e1, .noPrimary) => tryClasses s i src dst ks (if seen = .noBackup then .noBackup else .noPath) e1

/-- The classes a computation tries: the known one, or under AUTO 3, 2, 1, 0 (R119, R132). -/
def classesTried (i : Inputs) : List Nat :=
  match i.cls with
  | some k => [k]
  | none => [3, 2, 1, 0]

/-- A whole computation: the engine's record after its last search, and the outcome (R118, R119, R137). -/
def compute (s : State) (i : Inputs) (e : Engine) : Engine × Computed :=
  match findNode s i.srcId, findNode s i.dstId with
  | some (a, _), some (b, _) =>
    if a = b then (e, .failed .sameNode a b) else tryClasses s i a b (classesTried i) .classUnsupported e
  | _, _ => (e, .failed .unknownNode 0 0)

end Sys2Proof.Machine
end

