-- ==== Sys2Proof/Machine/PathOps.lean ====
section
/-!
DEFINITION. The steps of the path table unit (spec/08, spec/09): how strike events move paths, how computations end for each kind
of item, releases and resumes, result lines, and the clearing steps of RESTART.
-/

namespace Sys2Proof.Machine

/-! ### Moves of a path (R160, R164, R165, R167) -/

/-- The routes a path holds. -/
def PathEntry.routes (e : PathEntry) : List Route :=
  (e.primary.map (·.route)).toList ++ (e.backup.map (·.route)).toList

/-- A path whose traffic has lost its route falls back under its restore mode; the routes whose reservations it gives up (R160). -/
def fallBack (e : PathEntry) : PathEntry × List Route :=
  match e.restore, e.primary with
  | .hold, some _ => ({ e with state := .held }, [])
  | .release, some _ => ({ e with state := .down, primary := none, backup := none }, e.routes)
  | .reroute, some _ => ({ e with state := .restoring }, [])
  | .hold, none => ({ e with state := .down }, [])
  | .release, none => ({ e with state := .down }, [])
  | .reroute, none => ({ e with state := .restoring }, [])

/-- A route is present with struck count 0. -/
def intact (r : Option HeldRoute) : Bool :=
  match r with
  | some h => h.struck == 0
  | none => false

/-- A route of a path has become struck (R164). -/
def struckMove (e : PathEntry) (onPrimary : Bool) : PathEntry × List Route :=
  match e.state, onPrimary with
  | .active, true => if e.backup.isSome then ({ e with state := .onBackup }, []) else fallBack e
  | .active, false => ({ e with state := .exposed }, [])
  | .exposed, true => fallBack e
  | .onBackup, false => if intact e.primary then ({ e with state := .exposed }, []) else fallBack e
  | .onBackup, true | .exposed, false | .held, _ | .restoring, _ | .down, _ => (e, [])

/-- A route of a path has become intact (R165). -/
def repairedMove (e : PathEntry) (onPrimary : Bool) : PathEntry :=
  match e.state, onPrimary with
  | .onBackup, true => if e.revertive then { e with state := .active } else e
  | .exposed, false => { e with state := .active }
  | .held, true | .restoring, true => { e with state := if e.backup.isNone then .active else .exposed }
  | .held, false | .restoring, false => { e with state := .onBackup }
  | .active, _ | .onBackup, false | .exposed, true | .down, _ => e

/-- The backup of a path has been dropped (R167); the entry no longer holds it. -/
def backupDropped (e : PathEntry) : PathEntry × List Route :=
  match e.state with
  | .exposed => ({ e with state := .active }, [])
  | .onBackup => if intact e.primary then ({ e with state := .active }, []) else fallBack e
  | .active | .held | .restoring | .down => (e, [])

/-- The primary of a path has been dropped (R167): its backup is promoted, or it falls back with no route. -/
def primaryDropped (e : PathEntry) : PathEntry × List Route :=
  match e.backup with
  | some h =>
    let e' := { e with primary := some h, backup := none }
    if h.struck = 0 then ({ e' with state := .active }, []) else fallBack e'
  | none => fallBack { e with primary := none }

/-! ### Strike event processing (R161 to R166) -/

/-- The next path from ID `p` upward with a route containing link `k` (R161). -/
def nextPath (s : State) (k p : Nat) : Option (Nat × PathEntry) :=
  s.paths.entries.nextFrom p Config.pathEntries (fun _ e => pathHas e k)

/-- The struck count of a held route changes. -/
def HeldRoute.recount (h : HeldRoute) (f : Nat → Nat) : HeldRoute := { h with struck := f h.struck }

/-- The counts of a path after one of its routes, the one with link `k`, is counted again; whether that is the primary (R162, R163). -/
def recount (e : PathEntry) (k : Nat) (f : Nat → Nat) : PathEntry × Bool :=
  if heldHas e.primary k then ({ e with primary := e.primary.map (·.recount f) }, true)
  else ({ e with backup := e.backup.map (·.recount f) }, false)

/-- The struck count of a route of a path, 0 when it has none. -/
def struckOf (e : PathEntry) (onPrimary : Bool) : Nat :=
  (((if onPrimary then e.primary else e.backup).map (·.struck)).getD 0)

/-- A path after a DOWN event of a link one of its routes contains (R162, R164). -/
def downChange (e : PathEntry) (k : Nat) : PathEntry × List Route :=
  let x := recount e k (· + 1)
  if struckOf x.1 x.2 = 1 then struckMove x.1 x.2 else (x.1, [])

/-- A path after an UP event of a link one of its routes contains (R163, R165). -/
def upChange (e : PathEntry) (k : Nat) : PathEntry × List Route :=
  let x := recount e k (· - 1)
  (if struckOf e x.2 = 1 then repairedMove x.1 x.2 else x.1, [])

/-- A path after a RETIRE event of a link one of its routes contains, and the routes that leave it (R166, R167). -/
def retireChange (e : PathEntry) (k : Nat) : PathEntry × List Route :=
  if heldHas e.primary k then
    let x := primaryDropped { e with primary := none }
    (x.1, (e.primary.map (·.route)).toList ++ x.2)
  else
    let x := backupDropped { e with backup := none }
    (x.1, (e.backup.map (·.route)).toList ++ x.2)

/-- A path is changed: the routes that leave it lose their reservations, the entry is stored, its items are queued, and the event
goes on (R161, R166, R168). -/
def changePath (s : State) (p : Nat) (x : PathEntry × List Route) (why : PathReason) (next : Op) : OpResult :=
  .done (storePath (unreserveAll s x.2) p x.1) (pathItems s p x.1 why ++ [next])

/-- DOWN: deal with the next path found (R162). -/
def downPaths (k p : Nat) (s : State) : OpResult :=
  match nextPath s k p with
  | none => .done s []
  | some (i, e) => changePath s i (downChange e k) .linkDown (.downPaths k (i + 1))

/-- UP: deal with the next path found (R163). -/
def upPaths (k p : Nat) (s : State) : OpResult :=
  match nextPath s k p with
  | none => .done s []
  | some (i, e) => changePath s i (upChange e k) .linkUp (.upPaths k (i + 1))

/-- RETIRE: deal with the next path found (R166). -/
def retirePaths (k p : Nat) (s : State) : OpResult :=
  match nextPath s k p with
  | none => .done s []
  | some (i, e) => changePath s i (retireChange e k) .linkRetired (.retirePaths k (i + 1))

/-- A link's down flag is set or cleared (R158). -/
def setFlag (s : State) (k : Nat) (down : Bool) : State :=
  { s with paths := { s.paths with view := if down then insertNat k s.paths.view else removeNat k s.paths.view } }

/-- RETIRE_DONE: the topology unit sets the answered mark of a link in RETIRING (R106). -/
def setAnswered (s : State) (k : Nat) : State :=
  match s.topology.links.get? k with
  | some l => if l.state = .retiring then setLink s k { l with answered := true } else s
  | none => s

/-- The end of a RETIRE event: the link's set is emptied, its flag cleared, and RETIRE_DONE sent (R166). -/
def finishRetire (k : Nat) (s : State) : OpResult := .done (setAnswered (setFlag (setReserved s k 0) k false) k) []

/-! ### Results (R152 to R154) -/

/-- The items that answer a request: line 2, line 1, the end of its execution (R154). -/
def resultOps (q : QueuedRequest) (first second : ResultLine) : List Op :=
  [.result { slot := q.slot, line := 2, serial := q.serial } second,
   .result { slot := q.slot, line := 1, serial := q.serial } first, .operationEnd]

/-- The path a RELEASE, RESUME or REROUTE names, when it is in use (R148, R149). -/
def namedPath (s : State) (r : Line) : Option (Nat × PathEntry) :=
  if reqPathId r < Config.pathEntries then (s.paths.entries.get? (reqPathId r)).map (fun e => (reqPathId r, e)) else none

/-- Line 1 shows a path ID for a RELEASE, RESUME or REROUTE that named a path in use, and then its class (R152). -/
def shownPath (s : State) (r : Line) : Option (Nat × PathEntry) :=
  match reqKind r with
  | some .release | some .resume | some .reroute => namedPath s r
  | some .probe | some .setup | none => none

/-- The results of a request whose answer carries no route: its outcome, its path, no backup (R152, R153). -/
def plainResult (s : State) (q : QueuedRequest) (o : ReqOutcome) : List Op :=
  let named := shownPath s q.record
  resultOps q (.first (reqTag q.record) o (named.map (·.2.cls)) (named.map (·.1)) .absent)
    (.second (reqTag q.record) .none .absent)

/-- The results of a RESUME or REROUTE with outcome OK: the path's routes as they stand when the lines are queued (R152, R153). -/
def pathResult (q : QueuedRequest) (p : Nat) (e : PathEntry) : List Op :=
  resultOps q (.first (reqTag q.record) .ok (some e.cls) (some p) (.primaryOf p))
    (.second (reqTag q.record) .none (.backupOf p))

def routeSource : Option Route → RouteSource
  | some r => .fixed r
  | none => .absent

/-- The results of a PROBE or SETUP, with the path a SETUP allocated (R152, R153). -/
def computedResult (q : QueuedRequest) (c : Computed) (p : Option Nat) : List Op :=
  resultOps q (.first (reqTag q.record) c.outcome c.cls p (routeSource c.primary))
    (.second (reqTag q.record) c.backupOutcome (routeSource c.backup))

/-! ### Operations without a grant (R148) -/

/-- A RELEASE of a path in use: the state after it and the items it queues before its results (R148). -/
def releasePath (s : State) (p : Nat) (e : PathEntry) : State × List Op :=
  (freePath (unreserveAll s e.routes) p, [.ref (.path p), .ref .status])

/-- A RESUME is allowed: ON_BACKUP with an intact primary (R148). -/
def resumable (e : PathEntry) : Bool := e.state == .onBackup && intact e.primary

/-- A RESUME of a resumable path (R148). -/
def resumePath (s : State) (p : Nat) (e : PathEntry) : State × List Op :=
  let e' := { e with state := .active }
  (storePath s p e', pathItems s p e' .requested)

/-! ### Inputs of a computation (R135, R136, R146) -/

/-- The inputs of a PROBE or SETUP (R146, R147). -/
def requestInputs (r : Line) : Inputs :=
  { srcId := reqSource r, dstId := reqDest r, cls := reqClass r, mask := reqMask r,
    policy := (reqPolicy r).getD .firstFit, order := (reqOrder r).getD .cost, hops := hopLimit (reqMaxHops r),
    exclLinks := reqExclLinks r, exclNodes := reqExclNodes r, pair := reqPair r, requireBackup := reqRequireBackup r,
    nodeDiverse := reqNodeDiverse r, own := none, reference := none }

/-- The inputs of a REROUTE (R135). -/
def rerouteInputs (r : Line) (e : PathEntry) : Inputs :=
  { srcId := e.srcId, dstId := e.dstId, cls := some e.cls, mask := reqMask r, policy := (reqPolicy r).getD .firstFit,
    order := (reqOrder r).getD .cost, hops := hopLimit (reqMaxHops r), exclLinks := reqExclLinks r,
    exclNodes := reqExclNodes r, pair := false, requireBackup := false, nodeDiverse := e.nodeDiverse,
    own := (if reqTargetBackup r then e.backup else e.primary).map (·.route),
    reference := (if reqTargetBackup r then e.primary else e.backup).map (·.route) }

/-- The inputs of a restoration (R136). -/
def restorationInputs (e : PathEntry) : Inputs :=
  { srcId := e.srcId, dstId := e.dstId, cls := some e.cls, mask := BitVec.allOnes 80, policy := .firstFit,
    order := .costThenNoise, hops := Config.maxHops, exclLinks := [], exclNodes := [], pair := false,
    requireBackup := false, nodeDiverse := e.nodeDiverse, own := e.primary.map (·.route),
    reference := e.backup.map (·.route) }

/-- The check of a REROUTE when its grant is taken up (R149). -/
def rerouteCheck (s : State) (r : Line) : ReqOutcome :=
  match namedPath s r with
  | none => .unknownPath
  | some (_, e) =>
    if !(e.state == .active || e.state == .exposed || e.state == .held) then .wrongState
    else if !exclNodesOk (reqExclNodes r) e.srcId e.dstId then .badRequest else .ok

/-! ### The end of a computation (R147, R150, R151, R170, R171) -/

def HeldRoute.fresh (r : Route) : HeldRoute := { route := r, struck := 0 }

/-- The entry a SETUP allocates (R147 step 2), in its first state ACTIVE. -/
def newPath (r : Line) (c : Computed) (primary : Route) : PathEntry :=
  { state := .active, srcId := reqSource r, dstId := reqDest r, srcIndex := c.src, dstIndex := c.dst,
    cls := c.cls.getD 0, restore := (reqRestore r).getD .hold, revertive := reqRevertive r,
    nodeDiverse := reqNodeDiverse r, primary := some (.fresh primary), backup := c.backup.map .fresh,
    originTag := reqTag r }

/-- Reserve the routes of a SETUP, allocate the path and enter ACTIVE (R147 steps 1 to 3). -/
def allocatePath (s : State) (p : Nat) (r : Line) (c : Computed) (primary : Route) : State :=
  let s1 := reserveRoute s primary
  let s2 := match c.backup with
    | some b => reserveRoute s1 b
    | none => s1
  let s3 := { s2 with paths := { s2.paths with generations := s2.paths.generations.setD p 0 0 } }
  storePath (setRecord s3 p (noticeRecord s3 p).toIdle) p (newPath r c primary)

/-- A SETUP's computation has ended (R147). -/
def endSetup (s : State) (q : QueuedRequest) (c : Computed) : State × List Op :=
  match c.primary, s.paths.entries.lowestFree Config.pathEntries with
  | some primary, some p =>
    (allocatePath s p q.record c primary,
      [.ref (.path p), .ref .status, .postPath p .requested, .pathGrantEnd] ++ computedResult q c (some p))
  | _, _ => (s, [.pathGrantEnd] ++ computedResult q c none)

/-- The state of a path after a REROUTE that gave a route (R151). -/
def reroutedState (e : PathEntry) (targetBackup : Bool) : PathState :=
  match e.state, targetBackup with
  | .exposed, true => .active
  | .held, true => .onBackup
  | .held, false => if e.backup.isNone then .active else .exposed
  | st, _ => st

/-- The entry after a REROUTE that gave a route (R150, R151). -/
def reroutedPath (e : PathEntry) (targetBackup : Bool) (c : Computed) (new : Route) : PathEntry :=
  { e with
    state := reroutedState e targetBackup, srcIndex := c.src, dstIndex := c.dst,
    primary := if targetBackup then e.primary else some (.fresh new),
    backup := if targetBackup then some (.fresh new) else e.backup }

/-- A REROUTE's computation has ended (R149 to R151). Its path changes are made, the grant is released, and then its items are queued.
R154 releases the grant when the path changes have been made and does not say whether their items belong to them: that they do not
is the model's choice (log 45). For a SETUP they do (R147). -/
def endReroute (s : State) (q : QueuedRequest) (c : Computed) : State × List Op :=
  match namedPath s q.record, c.primary with
  | some (p, e), some new =>
    let target := if reqTargetBackup q.record then e.backup else e.primary
    let e' := reroutedPath e (reqTargetBackup q.record) c new
    (storePath (replaceReservation s (target.map (·.route)) new) p e',
      [.pathGrantEnd] ++ pathItems s p e' .requested ++ pathResult q p e')
  | _, _ => (s, [.pathGrantEnd] ++ plainResult s q c.outcome)

/-- The entry after a restoration that found a route (R170). -/
def restoredPath (e : PathEntry) (c : Computed) (new : Route) : PathEntry :=
  { e with
    state := if e.backup.isNone then .active else .exposed, srcIndex := c.src, dstIndex := c.dst,
    primary := some (.fresh new) }

/-- The entry after a restoration that found none (R171). -/
def unrestoredPath (e : PathEntry) : PathEntry := { e with state := if e.primary.isSome then .held else .down }

/-- A restoration's computation has ended (R170, R171): its path changes are made and the grant is released, and the operation slot
becomes free when its items are queued (R169). -/
def endRestoration (s : State) (p : Nat) (c : Computed) : State × List Op :=
  match s.paths.entries.get? p with
  | none => (s, [.pathGrantEnd, .operationEnd])
  | some e =>
    match c.primary with
    | some new =>
      let e' := restoredPath e c new
      (storePath (replaceReservation s (e.primary.map (·.route)) new) p e',
        [.pathGrantEnd] ++ pathItems s p e' .restored ++ [.operationEnd])
    | none => (storePath s p (unrestoredPath e), [.pathGrantEnd] ++ pathItems s p (unrestoredPath e) .restoreFailed ++ [.operationEnd])

/-- What follows a computation for the selected item (R146, R147, R149, R169). -/
def endItem (s : State) (item : Item) (c : Computed) : State × List Op :=
  match item with
  | .restoration p => endRestoration s p c
  | .request q =>
    match reqKind q.record with
    | some .setup => endSetup s q c
    | some .reroute => endReroute s q c
    | some .probe | some .release | some .resume | none => (s, [.pathGrantEnd] ++ computedResult q c none)

/-! ### Small steps -/

/-- The path table unit's grant is released (R111, R154). -/
def endPathGrant (s : State) : OpResult := .done (releaseGrant s) []

/-- The operation slot becomes free (R143, R154). -/
def endOperation (s : State) : OpResult := .done { s with paths := { s.paths with slot := none } } []

/-! ### Clearing -/

/-- Every topology table and the link view are cleared (R33, R115, R36). -/
def clearTopologyTables (s : State) : State :=
  { s with
    topology := { s.topology with nodes := [], ports := [], links := [] },
    paths := { s.paths with view := [] } }

/-- Every path entry is FREE, every reservation set and the restoration set empty; the generations are kept (R34, R36). -/
def clearPathTables (s : State) : State :=
  { s with paths := { s.paths with entries := [], reserved := [], restoration := [] } }

/-- RESTART steps 4 to 6, up to the reference items (R36, R73, R173, R174). -/
def restartTables (s : State) : State :=
  let s1 := clearPathTables (clearTopologyTables s)
  { s1 with
    intake := { queue := [], batch := .closed, handed := [], taking := none },
    paths := { s1.paths with handed := [], taking := false, queue := [], strikes := [] },
    notices := { s1.notices with records := [] } }

/-- RESTART step 7 (R36). -/
def restartCounts (s : State) : State :=
  { s with notices := { s.notices with producer := 0, consumer := 0, lost := false } }

/-- RESTART step 9: DONE at once, or when an abandoned profile read has answered (R35, R36). -/
def restartDone (s : State) : State :=
  match s.control.inProgress with
  | some c =>
    if s.memory.ownRead.isSome then
      { s with control := { s.control with inProgress := some { c with phase := .awaitRead } } }
    else completeCommand s .done
  | none => s

end Sys2Proof.Machine
end

