-- ==== Sys2Proof/Machine/Settle.lean ====
section
/-!
DEFINITION. How operations go on: one step of a thread, which threads can go on, and the settling of the part, in which every
operation goes on until it ends or must wait (R18, R69, R104, R161, R175).
-/

namespace Sys2Proof.Machine

/-- The line of the request window a result mark names (R6, R139). -/
def resultTarget (s : State) (m : ResultMark) : Nat :=
  (s.decoder.windows.map (·.requestBase)).getD 0 + 3 * m.slot + m.line

/-- One step of thread `t`, whose next step is `op`. `given` says that the thread has been given a freed place of the write-back
queue (R18). -/
def runOp (given : Bool) (t : Thread) (op : Op) (s : State) : OpResult :=
  match op with
  | .ref r => queueRef given t r s
  | .post n => postNotice t n s
  | .notice n => writeNotice given t n s
  | .postPath p why => postPathState t p why s
  | .writePath p last => writePathState given t p last s
  | .drain p => drainDeferred t p s
  | .ackPath p gen => acknowledgePath t p gen s
  | .unlock => .done (endTurn s) []
  | .takeFinish r => finishTaking r s
  | .openBatch => openNested s
  | .stopCheck => stopBatch s
  | .requestFinish => finishRequest s
  | .applyRecord l off => applyRecord l off s
  | .reconvertNodes d i => reconvertNodes d i s
  | .reconvertPorts n j => reconvertPorts n j s
  | .linkAttributes k => updateLinkAttributes k s
  | .linkState k => updateLinkState k s
  | .retireLink k why => retireLink k why s
  | .portMove j st oldLink why => movePort j st oldLink why s
  | .repoint j f => repointPort j f s
  | .evaluate j old oldLink => evaluatePort j old oldLink s
  | .claimants j i => recheckClaimants j i s
  | .removePort j why => removePort j why s
  | .freePort j why oldLink former => freePort j why oldLink former s
  | .orphans id number i why former => orphanClaimants id number i why former s
  | .removePorts n j why count => removePorts n j why count s
  | .freeNode n why count => freeNode n why count s
  | .offer k => offerLink k s
  | .event e => sendEvent e s
  | .topologyEnd => .done (endTopology s) []
  | .downPaths k p => downPaths k p s
  | .upPaths k p => upPaths k p s
  | .retirePaths k p => retirePaths k p s
  | .retireDone k => finishRetire k s
  | .pathGrantEnd => endPathGrant s
  | .result m l => queueContent given t (resultTarget s m) (resultLine s l) (some m) s
  | .operationEnd => endOperation s
  | .complete o => .done (completeCommand s o) []
  | .restartTables => .done (restartTables s) []
  | .restartCounts => .done (restartCounts s) []
  | .restartDone => .done (restartDone s) []

/-- Take one step of a thread: its steps to come are those the step adds and then the rest, or the same ones while it waits. -/
def micro (given : Bool) (t : Thread) (s : State) : State :=
  match s.threads.get t with
  | [] => s
  | op :: rest =>
    match runOp given t op s with
    | .done s' push => s'.putOps t (push ++ rest)
    | .wait s' => s'

/-- The thread waits for room in the strike queue (R104). -/
def waitsForStrikes (s : State) (t : Thread) : Bool :=
  s.topology.strikeWait &&
    (match s.threads.get t with
     | .event _ :: _ => true
     | _ => false)

/-- The thread waits for its turn at the notice unit (R175). -/
def waitsForTurn (s : State) (t : Thread) : Bool :=
  match s.notices.turn with
  | [] => false
  | h :: r => h ≠ t && r.contains t

/-- A thread can go on: it has steps to come, and waits for nothing (R18, R104, R175). -/
def canRun (s : State) (t : Thread) : Bool :=
  !(s.threads.get t).isEmpty && !s.writeBack.waiters.contains (.thread t) && !waitsForStrikes s t && !waitsForTurn s t

/-- The thread that goes on next (log 9). -/
def nextThread (s : State) : Option Thread := Thread.all.find? (canRun s)

/-- Nothing can go on by itself: every operation has ended or waits. -/
def quiescent (s : State) : Bool := (nextThread s).isNone

/-- Take steps while some thread can go on, at most `fuel` of them. -/
def settle : Nat → State → State
  | 0, s => s
  | fuel + 1, s =>
    match nextThread s with
    | none => s
    | some t => settle fuel (micro false t s)

/-- A bound on the steps that follow from one step, itself included. -/
def Op.cost : Op → Nat
  | .ref _ | .unlock | .requestFinish | .repoint _ _ | .event _ | .topologyEnd | .retireDone _ | .pathGrantEnd
  | .result _ _ | .operationEnd | .complete _ | .restartTables | .restartCounts | .restartDone => 1
  | .notice _ | .writePath _ _ | .openBatch => 2
  | .post _ | .postPath _ _ | .ackPath _ _ => 3
  | .drain p => 1 + 3 * (Config.pathEntries - p)
  | .stopCheck | .linkAttributes _ | .portMove _ _ _ _ => 5
  | .takeFinish _ => 10
  | .linkState _ | .retireLink _ _ | .freeNode _ _ _ => 6
  | .evaluate _ _ _ | .offer _ => 15
  | .claimants _ i | .orphans _ _ i _ _ => 1 + 5 * (Config.portEntries - i)
  | .freePort _ _ _ _ => 10248
  | .removePort _ _ => 10255
  | .removePorts _ j _ _ => 7 + 10256 * (Config.portEntries - j)
  | .reconvertPorts _ j => 1 + 7 * (Config.portEntries - j)
  | .reconvertNodes _ i => 1 + 14342 * (Config.nodeEntries - i)
  | .applyRecord _ _ => 8 + 10256 * Config.portEntries
  | .downPaths _ p | .upPaths _ p | .retirePaths _ p => 1 + 5 * (Config.pathEntries - p)

/-- The bound for a list of steps. -/
def costOf (ops : List Op) : Nat := (ops.map Op.cost).sum

/-- The bound for all threads. -/
def totalCost (s : State) : Nat := (Thread.all.map (fun t => costOf (s.threads.get t))).sum

/-- Every operation goes on until it ends or must wait. The fuel is never used up (Laws/Settle.lean). -/
def settleAll (s : State) : State := settle (2 * totalCost s + 17) s

/-- Give a thread further steps, and let the part settle. -/
def launch (s : State) (t : Thread) (ops : List Op) : State := settleAll (s.addOps t ops)

/-- A command's effect, which it has only while the reset pin is released (R19). -/
def live (s : State) (f : State → State) : Host.Outcome State Fault Refusal := .next (if s.inReset then s else f s)

end Sys2Proof.Machine
end

