-- ==== Sys2Proof/Machine/Decoder.lean ====
section
/-!
DEFINITION. The window decoder and the ports' tests (spec/01): the class of a line, write backpressure, the holding of reads, the
release of holds, and the checks of SET_WINDOWS (R23).
-/

namespace Sys2Proof.Machine

/-- The classes of R6, with what the address gives: a line offset, or a slot and its line. -/
inductive LineClass where
  | anchorCommand
  | anchorAnswer
  | anchorAcknowledgement
  | intakeRecord (offset : Nat)
  | requestLine (slot : Nat)
  | resultLine (slot line : Nat)
  | exportLine
  | noticeLine
  | ordinary
  deriving DecidableEq, Repr

/-- A line lies in the window of `count` lines from `base`. -/
def inWindow (base count n : Nat) : Bool := decide (base ≤ n) && decide (n < base + count)

/-- The class of an anchor page line by its number in the page (R6). -/
def anchorClass (offset : Nat) : LineClass :=
  match offset with
  | 0 => .anchorCommand
  | 1 => .anchorAnswer
  | 2 => .anchorAnswer
  | 3 => .anchorAcknowledgement
  | _ => .ordinary

/-- The class of a line in the four windows of SET_WINDOWS, by address alone (R6). -/
def windowClass (w : Windows) (n : Nat) : LineClass :=
  if inWindow w.intakeBase w.intakeLines n then .intakeRecord (n - w.intakeBase)
  else if inWindow w.requestBase (3 * w.requestSlots) n then
    if (n - w.requestBase) % 3 = 0 then .requestLine ((n - w.requestBase) / 3)
    else .resultLine ((n - w.requestBase) / 3) ((n - w.requestBase) % 3)
  else if inWindow w.exportBase Config.exportLines n then .exportLine
  else if inWindow w.noticeBase w.noticeLines n then .noticeLine
  else .ordinary

/-- The class of a line by its address alone: the window it lies in (R5, R6). -/
def addressClass (s : State) (n : Nat) : LineClass :=
  let rest := match s.decoder.windows with
    | some w => windowClass w n
    | none => .ordinary
  match s.decoder.anchor with
  | some a => if inWindow a Config.anchorLines n then anchorClass (n - a) else rest
  | none => rest

/-- The class of a write: intake records and request lines 0 are decoded in RUN only (R6). -/
def writeClass (s : State) (n : Nat) : LineClass :=
  match addressClass s n with
  | .intakeRecord o => if s.control.mode = .run then .intakeRecord o else .ordinary
  | .requestLine i => if s.control.mode = .run then .requestLine i else .ordinary
  | c => c

/-- The result line a read addresses, when its slot is pending (R6). -/
def readResultLine (s : State) (n : Nat) : Option (Nat × Nat) :=
  match addressClass s n with
  | .resultLine i l => if s.paths.pendingSlots.has i then some (i, l) else none
  | _ => none

/-- All 64 byte enables are set (R7). -/
def fullLine (w : LineWrite) : Bool := w.enables == BitVec.allOnes 64

/-- The number of byte enables set (R178). -/
def enablesSet (e : Enables64) : Nat := ((List.range 64).filter (fun i => e.getLsbD i)).length

/-- The observed class of a line class, if it is observed (R7). -/
def LineClass.observed : LineClass → Option Observed
  | .anchorCommand => some .command
  | .anchorAcknowledgement => some .acknowledgement
  | .intakeRecord _ => some .intake
  | .requestLine _ => some .request
  | .anchorAnswer | .resultLine _ _ | .exportLine | .noticeLine | .ordinary => none

/-- Write backpressure on the head of the write channel (R10). -/
def backpressure (s : State) (w : LineWrite) : Bool :=
  fullLine w &&
    (match writeClass s (lineNumber w.addr) with
     | .intakeRecord _ => intakeCount s == Config.intakeRecords
     | .requestLine _ => requestCount s == Config.requestEntries
     | _ => false)

/-- A step is the post of a notice, or the queueing of one. -/
def Op.isPost : Op → Bool
  | .post _ | .notice _ => true
  | _ => false

/-- The PARTIAL_WRITE post of an earlier write has not ended (R8). -/
def postPending (s : State) : Bool := s.threads.decoder.any Op.isPost

/-- A command record is handed to the control unit, which deals with the records handed over (R7, R21). -/
def handCommand (s : State) (r : Line) : State := judgeCommands (s.control.handed ++ [r]) s

/-- A taken write is handed to the block that owns its line (R7). -/
def handOver (s : State) (w : LineWrite) : LineClass → State
  | .anchorCommand => handCommand s w.data
  | .anchorAcknowledgement => { s with notices := { s.notices with handed := s.notices.handed ++ [w.data] } }
  | .intakeRecord o =>
    { s with intake := { s.intake with handed := s.intake.handed ++ [{ record := w.data, offset := o }] } }
  | .requestLine i => { s with paths := { s.paths with handed := s.paths.handed ++ [{ slot := i, record := w.data }] } }
  | .anchorAnswer | .resultLine _ _ | .exportLine | .noticeLine | .ordinary => s

/-- What a forwarded write of a class gives the part: a record handed over and dealt with, a PARTIAL_WRITE post, or nothing (R7 to
R9, R21). -/
def decodeWrite (s : State) (w : LineWrite) (c : LineClass) : State :=
  if fullLine w then handOver s w c
  else
    match c.observed with
    | some o => launch s .decoder [.post (.partialWrite w.addr o (enablesSet w.enables))]
    | none => s

/-- The head of the write channel is accepted, unless something holds it back (R1, R8, R10). -/
def acceptHead (s : State) : State :=
  match s.system.channel with
  | [] => s
  | w :: rest =>
    if postPending s || backpressure s w then s
    else
      let s1 := enterSequence { s with system := { s.system with channel := rest } } (.write w.addr w.data w.enables)
      decodeWrite s1 w (writeClass s (lineNumber w.addr))

/-! ### The hold table (R12 to R14) -/

/-- A read of a result line is placed in the hold table (R12). -/
def holds (s : State) (slot line : Nat) : Bool :=
  resultAwaited s slot line && s.control.holdTimeout ≠ 0 && decide (s.system.holds.length < Config.holdEntries)

/-- A hold entry for a read, with its deadline (R12). -/
def newHold (s : State) (addr : Addr) (tag slot line : Nat) : Hold :=
  { tag, addr, slot, line, deadline := s.control.time + s.control.holdTimeout.setWidth 64 }

/-- An accepted read is held or forwarded (R1, R12). -/
def acceptRead (s : State) (addr : Addr) (tag : Nat) : State :=
  match readResultLine s (lineNumber addr) with
  | some (i, l) =>
    if holds s i l then { s with system := { s.system with holds := s.system.holds ++ [newHold s addr tag i l] } }
    else forwardRead s addr tag
  | none => forwardRead s addr tag

/-- The issue of a result line releases the reads held on it, and marks what it means for its slot (R13, R139). The line is known by
its slot index and line number, not by its address: a stale ABORTED item of a request window that SET_WINDOWS has moved since releases
the reads held on the same line of the slot in the new window. R13 says "that same line" and leaves this open (log 42). The released
reads enter the sequence here, with the write, so a software write accepted after the release always stands behind them, where R13
lets it enter before or after a released read: the model's choice (log 51). -/
def resultIssued (s : State) (m : ResultMark) : State :=
  let mine := fun h : Hold => h.slot == m.slot && h.line == m.line
  let s1 := forwardHolds { s with system := { s.system with holds := s.system.holds.filter (fun h => !mine h) } }
    (s.system.holds.filter mine)
  match s1.paths.pendingSlots.get? m.slot with
  | none => s1
  | some p =>
    if p.serial ≠ m.serial then s1
    else if m.line = 1 then { s1 with paths := { s1.paths with pendingSlots := s1.paths.pendingSlots.erase m.slot } }
    else { s1 with paths := { s1.paths with
      pendingSlots := s1.paths.pendingSlots.set m.slot { p with line2Issued := true } } }

/-- The oldest item of the write-back queue is issued (R16). -/
def issueItem (s : State) (x : WbItem) : State :=
  match x with
  | .ref r => enterSequence s (.ownWrite (lineAddr (refTarget s r)) (refLine s r))
  | .content target data m =>
    let s1 := enterSequence s (.ownWrite (lineAddr target) data)
    match m with
    | some m => resultIssued s1 m
    | none => s1

/-! ### The checks of SET_WINDOWS (R23) -/

/-- A window of `count` lines from a byte address ends at or below 2^64. -/
def windowFits (base count : Nat) : Bool := decide (base + 64 * count ≤ 2 ^ 64)

/-- Two windows, as base line and count, share no line. -/
def windowsApart (a b : Nat × Nat) : Bool := decide (a.1 + a.2 ≤ b.1) || decide (b.1 + b.2 ≤ a.1)

/-- No two windows of a list share a line. -/
def allApart : List (Nat × Nat) → Bool
  | [] => true
  | x :: xs => xs.all (windowsApart x) && allApart xs

/-- A number is a power of two. -/
def powerOfTwo (n : Nat) : Bool := (List.range 64).any (fun k => n == 2 ^ k)

/-- The argument checks of SET_WINDOWS (R23). -/
def windowArgsOk (s : State) (a : WindowArgs) : Bool :=
  a.intakeBase % 64 == 0 && a.requestBase % 64 == 0 && a.exportBase % 64 == 0 && a.noticeBase % 64 == 0 &&
    decide (1 ≤ a.intakeLines ∧ a.intakeLines ≤ 4096) && decide (1 ≤ a.requestSlots ∧ a.requestSlots ≤ 256) &&
    decide (16 ≤ a.noticeLines ∧ a.noticeLines ≤ 4096) && powerOfTwo a.noticeLines &&
    windowFits a.intakeBase a.intakeLines && windowFits a.requestBase (3 * a.requestSlots) &&
    windowFits a.exportBase Config.exportLines && windowFits a.noticeBase a.noticeLines &&
    allApart [(a.intakeBase / 64, a.intakeLines), (a.requestBase / 64, 3 * a.requestSlots),
      (a.exportBase / 64, Config.exportLines), (a.noticeBase / 64, a.noticeLines), (anchorBase s, Config.anchorLines)]

/-- The descriptors SET_WINDOWS stores (R5, R23). -/
def windowsOf (a : WindowArgs) : Windows :=
  { intakeBase := a.intakeBase / 64, intakeLines := a.intakeLines, requestBase := a.requestBase / 64,
    requestSlots := a.requestSlots, exportBase := a.exportBase / 64, noticeBase := a.noticeBase / 64,
    noticeLines := a.noticeLines }

end Sys2Proof.Machine
end

