-- ==== Sys2Proof/Machine/Pins.lean ====
section
/-!
DEFINITION. The steps of the reset pin: RESET_ASSERTED and RESET_RELEASED.
-/

namespace Sys2Proof.Machine

/-- The part while the reset pin is asserted: every transaction in flight is abandoned, the write-back queue is emptied, and all
state has its reset value (R3, R5, R11, R15, R19, R20). The host's queue of commands is not the part's. -/
def assertReset (s : State) : State := { State.reset with pending := s.pending }

/-- The reset pin is released: the straps are sampled, the time base starts at 0, and a status line reference is queued (R5, R37,
R38). The anchor page lies at the strap value times 1 MiB, which is 16384 lines. -/
def releaseReset (straps : BitVec 8) (s : State) : State :=
  enqueue { s with
    inReset := false, decoder := { s.decoder with anchor := some (straps.toNat * 16384) },
    control := { s.control with time := 0 } } (.ref .status)

/-- RESET_ASSERTED (R19). -/
def execResetAsserted (s : State) : Host.Outcome State Fault Refusal := .next (assertReset s)

/-- RESET_RELEASED (R5). A pin that is released already cannot be released: nothing changes (log 7). -/
def execResetReleased (straps : BitVec 8) (s : State) : Host.Outcome State Fault Refusal :=
  .next (if s.inReset then releaseReset straps s else s)

end Sys2Proof.Machine
end

