-- ==== Sys2Proof/Machine/Ports.lean ====
section
/-!
DEFINITION. The steps of the two ports and the hold table: WRITE_ACCEPTED, READ_ACCEPTED, READ_RESPONSE, HOLD_DEADLINE.
-/

namespace Sys2Proof.Machine

/-- A write is presented: it joins the write channel behind those not yet accepted (R1). -/
def present (s : State) (w : LineWrite) : State := { s with system := { s.system with channel := s.system.channel ++ [w] } }

/-- WRITE_ACCEPTED (R1, R6 to R11): the write presented with this step, if any, joins the channel, and the head is accepted unless
something holds it back. An address is a multiple of 64 (01, section 1.1; log 8). -/
def execWriteAccepted (presented : Option LineWrite) (s : State) : Host.Outcome State Fault Refusal :=
  match presented with
  | none => live s acceptHead
  | some w => if Addr.aligned w.addr then live s (fun s => acceptHead (present s w)) else .fault .unalignedAddress

/-- READ_ACCEPTED (R1, R6, R12). -/
def execReadAccepted (addr : Addr) (tag : Nat) (s : State) : Host.Outcome State Fault Refusal :=
  if Addr.aligned addr then live s (fun s => acceptRead s addr tag) else .fault .unalignedAddress

/-- The first element with a tag leaves a list of forwarded reads. -/
def removeRead (tag : Nat) : List (Nat × Addr) → List (Nat × Addr)
  | [] => []
  | r :: rest => if r.1 = tag then rest else r :: removeRead tag rest

/-- A response is returned to the interconnect under its tag (R3). -/
def returnResponse (s : State) (tag : Nat) (answer : ReadData) : State :=
  if s.memory.reads.any (fun r => r.1 == tag) then
    { s with
      memory := { s.memory with reads := removeRead tag s.memory.reads },
      system := { s.system with replies := s.system.replies ++ [(tag, answer)] } }
  else s

/-- READ_RESPONSE (R3). -/
def execReadResponse (tag : Nat) (answer : ReadData) (s : State) : Host.Outcome State Fault Refusal :=
  live s (fun s => returnResponse s tag answer)

/-- A hold entry whose deadline the time base has reached is released (R14). -/
def releaseDue (s : State) (entry : Nat) : State :=
  match s.system.holds[entry]? with
  | none => s
  | some h =>
    if h.deadline.toNat ≤ s.control.time.toNat then
      forwardRead { s with system := { s.system with holds := s.system.holds.eraseIdx entry } } h.addr h.tag
    else s

/-- HOLD_DEADLINE (R14). -/
def execHoldDeadline (entry : Nat) (s : State) : Host.Outcome State Fault Refusal := live s (fun s => releaseDue s entry)

end Sys2Proof.Machine
end

