-- ==== Sys2Proof/Machine/WriteBackUnit.lean ====
section
/-!
DEFINITION. The steps of the write-back queue: WRITE_BACK_ISSUE, WRITE_BACK_ROOM, RESPONSE_WRITE.
-/

namespace Sys2Proof.Machine

/-- The oldest item leaves the write-back queue and is issued (R16). -/
def issueOldest (s : State) : State :=
  match s.writeBack.queue with
  | [] => s
  | x :: rest => issueItem { s with writeBack := { s.writeBack with queue := rest } } x

/-- WRITE_BACK_ISSUE (R13, R16, R17, R139). -/
def execWriteBackIssue (s : State) : Host.Outcome State Fault Refusal := live s issueOldest

/-- The first in the line of those waiting for room leaves it. -/
def dropWaiter (s : State) : State := { s with writeBack := { s.writeBack with waiters := s.writeBack.waiters.tail } }

/-- A freed place goes to the operation that has waited longest, which goes on, or to the status line reference of the notice unit,
which leaves it free when one has been queued meanwhile (R17, R18). An operation that waits to queue a reference, and whose entry gets
one queued by another block meanwhile, stays in line until its place comes and then adds nothing: R18 says that such an attempt never
waits, and leaves open whether the wait then ends at once. That is the model's choice (log 47). -/
def giveRoom (s : State) : State :=
  match s.writeBack.waiters with
  | .thread t :: _ => if notFull s then settleAll (micro true t (dropWaiter s)) else s
  | .noticeStatus :: _ =>
    if notFull s then (if refQueued s .status then dropWaiter s else enqueue (dropWaiter s) (.ref .status)) else s
  | _ => s

/-- WRITE_BACK_ROOM (R18). -/
def execWriteBackRoom (s : State) : Host.Outcome State Fault Refusal := live s giveRoom

/-- The response write that has waited longest is queued with the image as it stands (R22). -/
def giveResponseRoom (s : State) : State :=
  match s.writeBack.waiters with
  | .response :: _ =>
    if notFull s then enqueue (dropWaiter s) (.content (anchorBase s + 1) (responseLine s) none) else s
  | _ => s

/-- RESPONSE_WRITE (R22). -/
def execResponseWrite (s : State) : Host.Outcome State Fault Refusal := live s giveResponseRoom

end Sys2Proof.Machine
end

