-- ==== Sys2Proof/Machine/TopologyRequest.lean ====
section
/-!
DEFINITION. The topology unit's request for the database, shared by the steps at which work becomes ready (R93, R109).
-/

namespace Sys2Proof.Machine

/-- The idle topology unit requests the database for the first kind of ready work; with an operation in progress or a request
waiting, or nothing ready, it makes none (R109). While RESTART runs there is no work (R36). -/
def requestTopology (s : State) : State :=
  if s.topology.work.isSome || restarting s then s
  else
    match readyWork s with
    | none => s
    | some w => requestGrant { s with topology := { s.topology with work := some w } } .topology

end Sys2Proof.Machine
end

