-- ==== Sys2Proof/Machine/ControlUnit.lean ====
section
/-!
DEFINITION. The steps of the control unit (spec/02): the commands of the anchor page, the profile read's answer and installation,
and the end of the drain.
-/

namespace Sys2Proof.Machine

/-! ### The frame of a command (R21) -/

/-- The command record at the head of those handed over is dealt with by `f` when its code satisfies `p` and it meets no command
in progress; the records behind it are then judged (R21). -/
def onRecord (p : Line → Bool) (f : Line → State → State) (s : State) : State :=
  match s.control.handed with
  | [] => s
  | r :: rest =>
    if p r && !isRefused s r then
      let s1 := f r { s with control := { s.control with handed := rest } }
      judgeCommands s1.control.handed s1
    else s

/-- The record's code is `code`. -/
def hasCode (code : Nat) (r : Line) : Bool := (cmdCode r).toNat == code

/-- The record becomes the command in progress, in a phase (R21). -/
def begin (s : State) (r : Line) (phase : Phase) : State :=
  { s with control := { s.control with inProgress := some { record := r, phase } } }

/-- The command in progress enters another phase. -/
def setPhase (s : State) (phase : Phase) : State :=
  match s.control.inProgress with
  | some c => { s with control := { s.control with inProgress := some { c with phase } } }
  | none => s

/-- The record becomes the command in progress, and the items of its effects are queued before its outcome DONE (R18, R22). -/
def performing (s : State) (r : Line) (items : List Op) : State :=
  launch (begin s r .effects) .control (items ++ [.complete .done])

def setMode (s : State) (m : Mode) : State := { s with control := { s.control with mode := m } }

/-! ### UNKNOWN_COMMAND (R21) -/

def unknownCode (r : Line) : Bool := cmdCode r ≠ 0 && !cmdKnown r

/-- UNKNOWN_COMMAND (R21 step 3). -/
def execUnknownCommand (s : State) : Host.Outcome State Fault Refusal :=
  live s (onRecord unknownCode (fun r s => finishRecord s r .unknownCommand))

/-! ### SET_WINDOWS (R23) -/

/-- The four descriptors are set and both notice counts zeroed (R5, R23). -/
def setWindows (s : State) (w : Windows) : State :=
  { s with
    decoder := { s.decoder with windows := some w },
    notices := { s.notices with producer := 0, consumer := 0 } }

def runSetWindows (r : Line) (s : State) : State :=
  if s.control.mode ≠ .off then finishRecord s r .wrongMode
  else if !windowArgsOk s (windowArgs r) then finishRecord s r .badArgument
  else if s.paths.pendingSlots ≠ [] then finishRecord s r .notEmpty
  else
    performing (setWindows s (windowsOf (windowArgs r))) r
      (topologyRefs s ++ pathRefs s ++ (if anyDeferred s then [.drain 0] else []) ++ [.ref .status])

/-- SET_WINDOWS (R23). -/
def execSetWindows (s : State) : Host.Outcome State Fault Refusal := live s (onRecord (hasCode codeSetWindows) runSetWindows)

/-! ### LOAD_PROFILE (R24, R25) -/

/-- The node table holds an entry of a domain. -/
def domainInUse (s : State) (d : Nat) : Bool := s.topology.nodes.any (fun x => x.2.domain == d)

/-- The part's own read enters the memory sequence (R2, R4, R24). -/
def startOwnRead (s : State) (addr : Addr) : State :=
  enterSequence { s with memory := { s.memory with ownRead := some addr } } (.ownRead addr)

def runLoadProfile (r : Line) (s : State) : State :=
  if Config.domains ≤ profileDomainArg r ∨ Addr.aligned (profileAddrArg r) = false then finishRecord s r .badArgument
  else if s.control.mode = .run ∧ domainInUse s (profileDomainArg r) then finishRecord s r .notEmpty
  else startOwnRead (begin s r (.readInFlight (profileDomainArg r))) (profileAddrArg r)

/-- LOAD_PROFILE (R24): in DRAIN, STOP is in progress and the record is refused (R21). -/
def execLoadProfile (s : State) : Host.Outcome State Fault Refusal := live s (onRecord (hasCode codeLoadProfile) runLoadProfile)

/-- The answer to the profile read (R4, R25), or to one that RESTART abandoned (R35). -/
def answerProfileRead (answer : ReadData) (s : State) : State :=
  if s.memory.ownRead.isNone then s
  else
    let s1 := { s with memory := { s.memory with ownRead := none } }
    match s1.control.inProgress with
    | some { phase := .readInFlight d, .. } =>
      (match answer with
       | .error => completeCommand s1 .memoryFault
       | .line l =>
         if profileOk l then setPhase s1 (.awaitInstall d (profileOf l)) else completeCommand s1 .badArgument)
    | some { phase := .awaitRead, .. } => completeCommand s1 .done
    | _ => s1

/-- PROFILE_READ_RESPONSE (R25, R35). -/
def execProfileReadResponse (answer : ReadData) (s : State) : Host.Outcome State Fault Refusal :=
  live s (answerProfileRead answer)

def installProfile (s : State) (d : Nat) (p : Profile) : State :=
  { s with profiles := { s.profiles with domains := s.profiles.domains.set d p } }

/-- A valid profile is installed once the topology unit holds no grant (R25, R41). -/
def installWaiting (s : State) : State :=
  match s.control.inProgress with
  | some { phase := .awaitInstall d p, .. } =>
    if s.arbiter.holder = some .topology then s
    else if domainInUse s d then
      if s.control.mode = .off then requestTopology (setPhase (installProfile s d p) (.reconversion d))
      else completeCommand s .notEmpty
    else completeCommand (installProfile s d p) .done
  | _ => s

/-- PROFILE_INSTALLATION (R25). -/
def execProfileInstallation (s : State) : Host.Outcome State Fault Refusal := live s installWaiting

/-! ### LOAD_CLASSES, SET_TIMING, SET_REPORTING (R26 to R28) -/

def classArgOk (e : ClassEntry) : Bool := (e.width == 1 || e.width == 2) && decide (1 ≤ e.budget ∧ e.budget ≤ 65534)

def runLoadClasses (r : Line) (s : State) : State :=
  if s.control.mode ≠ .off then finishRecord s r .wrongMode
  else if !(classArgs r).all classArgOk then finishRecord s r .badArgument
  else if s.paths.entries ≠ [] then finishRecord s r .notEmpty
  else finishRecord { s with profiles := { s.profiles with classes := classArgs r } } r .done

/-- LOAD_CLASSES (R26). -/
def execLoadClasses (s : State) : Host.Outcome State Fault Refusal := live s (onRecord (hasCode codeLoadClasses) runLoadClasses)

def runSetTiming (r : Line) (s : State) : State :=
  finishRecord { s with control := { s.control with holdTimeout := timingArg r } } r .done

/-- SET_TIMING (R27). -/
def execSetTiming (s : State) : Host.Outcome State Fault Refusal := live s (onRecord (hasCode codeSetTiming) runSetTiming)

/-- Every path notice record becomes IDLE, its due mark cleared and its change count reset; one that is then as at reset is not
listed (R182, R34). -/
def idleRecords (t : Table NoticeRecord) : Table NoticeRecord :=
  (t.map (fun x => (x.1, x.2.toIdle))).filter (fun x => x.2 ≠ NoticeRecord.idle)

/-- The four enables are replaced and NOTICES_LOST cleared; disabling PATH idles every path notice record (R28, R182). -/
def setReporting (s : State) (en : Enables) : State :=
  { s with
    control := { s.control with enables := en },
    notices := { s.notices with
      lost := false, records := if en.path then s.notices.records else idleRecords s.notices.records } }

def runSetReporting (r : Line) (s : State) : State :=
  if s.notices.lost then performing (setReporting s (enablesArg r)) r [.ref .status]
  else finishRecord (setReporting s (enablesArg r)) r .done

/-- SET_REPORTING (R28, R182). -/
def execSetReporting (s : State) : Host.Outcome State Fault Refusal := live s (onRecord (hasCode codeSetReporting) runSetReporting)

/-! ### START, STOP and the drain's end (R30 to R32) -/

/-- The refresh time of every node and port entry becomes "now" (R30). -/
def refreshAll (s : State) : State :=
  { s with topology := { s.topology with
    nodes := s.topology.nodes.map (fun x => (x.1, { x.2 with refresh := s.control.time })),
    ports := s.topology.ports.map (fun x => (x.1, { x.2 with refresh := s.control.time })) } }

def runStart (r : Line) (s : State) : State :=
  if s.control.mode ≠ .off ∨ s.decoder.windows = none then finishRecord s r .wrongMode
  else performing (setMode (refreshAll s) .run) r [.ref .status]

/-- START (R30). -/
def execStart (s : State) : Host.Outcome State Fault Refusal := live s (onRecord (hasCode codeStart) runStart)

/-- The abort of STOP, when no taking is under way; a taking under way makes it at its end (R72). -/
def stopIntake (s : State) : State :=
  if s.threads.intake = [] ∧ s.intake.handed = [] then launch s .intake [.stopCheck] else s

def runStop (r : Line) (s : State) : State :=
  if s.control.mode ≠ .run then finishRecord s r .wrongMode
  else stopIntake (launch (setMode (begin s r .draining) .drain) .control [.ref .status])

/-- STOP (R31, R72). -/
def execStop (s : State) : Host.Outcome State Fault Refusal := live s (onRecord (hasCode codeStop) runStop)

/-- The drain ends: OFF, a status line reference, and STOP's outcome DONE (R32). -/
def endDrain (s : State) : State :=
  if s.control.mode = .drain ∧ drainDone s ∧ restarting s = false then
    launch (setMode s .off) .control [.ref .status, .complete .done]
  else s

/-- DRAIN_END (R32). -/
def execDrainEnd (s : State) : Host.Outcome State Fault Refusal := live s endDrain

/-! ### CLEAR_TOPOLOGY and CLEAR_PATHS (R33, R34) -/

def runClearTopology (r : Line) (s : State) : State :=
  if s.control.mode ≠ .off then finishRecord s r .wrongMode
  else if s.paths.entries ≠ [] then finishRecord s r .notEmpty
  else requestTopology (begin s r .clearing)

/-- CLEAR_TOPOLOGY (R33): the topology unit requests the database, at once when it is idle (R109). -/
def execClearTopology (s : State) : Host.Outcome State Fault Refusal := live s (onRecord (hasCode codeClearTopology) runClearTopology)

/-- Every path is freed: the tables of R34 and the path notice records. -/
def clearPaths (s : State) : State :=
  let s1 := clearPathTables s
  { s1 with notices := { s1.notices with records := idleRecords s1.notices.records } }

def runClearPaths (r : Line) (s : State) : State :=
  if s.control.mode ≠ .off then finishRecord s r .wrongMode
  else performing (clearPaths s) r (pathRefs s ++ [.ref .status])

/-- CLEAR_PATHS (R34, R173). -/
def execClearPaths (s : State) : Host.Outcome State Fault Refusal := live s (onRecord (hasCode codeClearPaths) runClearPaths)

/-! ### RESTART (R35, R36) -/

/-- Every operation of the part is abandoned: its steps to come, its place among the waiters for room and at the notice unit, the
computation, the topology unit's work, the grant and the requests for it. The response write awaiting room is kept, and so is
the last-granted requester (R20, R36 steps 1 and 2, R112, R116, R175). -/
def abandonAll (s : State) : State :=
  { s with
    control := { s.control with mode := .off },
    threads := Threads.none,
    writeBack := { s.writeBack with waiters := s.writeBack.waiters.filter (· == .response) },
    notices := { s.notices with turn := [] },
    topology := { s.topology with work := none, strikeWait := false },
    arbiter := { s.arbiter with holder := none, waitTopology := false, waitPath := false },
    engine := Engine.idle,
    paths := { s.paths with slot := none, runCount := 0 } }

/-- The ABORTED result of a pending slot, line 2 and then line 1 (R36 step 3, R152, R153). Its line 1 shows no path ID and no class,
also for a RELEASE, RESUME or REROUTE that had been executed or was in execution: R36 gives the result the tag alone, R152 shows the ID
of a path that was in use at the execution, and which of them holds here is the model's choice (log 48). -/
def abortedResult (x : Nat × PendingSlot) : List Op :=
  [.result { slot := x.1, line := 2, serial := x.2.serial } (.second x.2.tag .aborted .absent),
   .result { slot := x.1, line := 1, serial := x.2.serial } (.first x.2.tag .aborted none none .absent)]

/-- The steps of RESTART after its first two (R36). -/
def restartOps (s : State) : List Op :=
  s.paths.pendingSlots.flatMap abortedResult ++ [.restartTables] ++ topologyRefs s ++ pathRefs s ++
    [.restartCounts, .ref .status, .restartDone]

def runRestart (r : Line) (s : State) : State := launch (begin (abandonAll s) r .effects) .control (restartOps s)

/-- RESTART (R35, R36). -/
def execRestart (s : State) : Host.Outcome State Fault Refusal := live s (onRecord (hasCode codeRestart) runRestart)

end Sys2Proof.Machine
end

