-- ==== Sys2Proof/Machine/NoticeUnit.lean ====
section
/-!
DEFINITION. The step of the notice unit: ACKNOWLEDGEMENT.
-/

namespace Sys2Proof.Machine

/-- The consumer count an acknowledgement leaves (R177 step 1): accepted when it lies between the held count and the producer. -/
def acceptedConsumer (s : State) (c : BitVec 32) : BitVec 32 :=
  if (c - s.notices.consumer).toNat ≤ ringUsed s then c else s.notices.consumer

/-- The next acknowledgement handed over is dealt with, with the notice unit's turn until its end (R177, R180, R181). -/
def acknowledgeNext (s : State) : State :=
  match s.notices.handed with
  | [] => s
  | l :: rest =>
    if s.threads.acknowledge ≠ [] ∨ s.notices.turn ≠ [] then s
    else
      let c := acceptedConsumer s (ackConsumer l)
      let s1 := { s with notices := { s.notices with handed := rest, consumer := c, turn := [.acknowledge] } }
      launch s1 .acknowledge
        (if c = s.notices.consumer then [.ackPath (ackPathId l) (ackGeneration l), .unlock]
         else [.ref .status, .ackPath (ackPathId l) (ackGeneration l), .drain 0])

/-- ACKNOWLEDGEMENT (R177). -/
def execAcknowledgement (s : State) : Host.Outcome State Fault Refusal := live s acknowledgeNext

end Sys2Proof.Machine
end

