-- ==== Sys2Proof/Machine/IntakeUnit.lean ====
section
/-!
DEFINITION. The step of the intake unit: INTAKE_RECORD_TAKING.
-/

namespace Sys2Proof.Machine

/-- The next intake record handed over is taken: it is placed or dropped, its items follow, and the taking ends with the overflow
test (R57 to R64, R72). RESTART discards the records that await their taking (R36). -/
def takeRecord (s : State) : State :=
  match s.intake.handed with
  | [] => s
  | r :: rest =>
    if s.threads.intake ≠ [] ∨ s.intake.taking.isSome ∨ restarting s then s
    else
      let x := placeRecord { s with intake := { s.intake with handed := rest, taking := some r } } r
      launch x.1 .intake (x.2 ++ [.takeFinish r])

/-- INTAKE_RECORD_TAKING (R57). -/
def execIntakeRecordTaking (s : State) : Host.Outcome State Fault Refusal := live s takeRecord

end Sys2Proof.Machine
end

