-- ==== Sys2Proof/Machine/TopologyUnit.lean ====
section
/-!
DEFINITION. The steps of the topology unit: its request, the operations under its grant, and the resumption of one suspended on a
full strike queue.
-/

namespace Sys2Proof.Machine

/-- TOPOLOGY_REQUEST (R109). -/
def execTopologyRequest (s : State) : Host.Outcome State Fault Refusal := live s requestTopology

/-- The topology unit holds the grant for a kind of work it has not begun (R110). -/
def granted (s : State) (w : Work) : Bool :=
  s.arbiter.holder == some .topology && s.topology.work == some w && s.threads.topology.isEmpty

/-- The intake queue is replaced. -/
def setQueue (s : State) (q : List QueuedRecord) : State := { s with intake := { s.intake with queue := q } }

/-- The loose record at the head leaves the queue and is applied (R66). -/
def applyLoose (s : State) : State :=
  match s.intake.queue with
  | r :: rest =>
    if granted s .intake && r.role == .loose then
      launch (setQueue s rest) .topology [.applyRecord r.record r.offset, .topologyEnd]
    else s
  | [] => s

/-- LOOSE_RECORD_APPLICATION (R66). -/
def execLooseRecordApplication (s : State) : Host.Outcome State Fault Refusal := live s applyLoose

/-- The records behind an opening marker: the members up to the batch's closing marker, and the records that stay (R67). -/
def splitBatch : List QueuedRecord → List QueuedRecord × List QueuedRecord
  | [] => ([], [])
  | r :: rest =>
    match r.role with
    | .closing => ([], rest)
    | .member => (r :: (splitBatch rest).1, (splitBatch rest).2)
    | .loose | .opening => ((splitBatch rest).1, r :: (splitBatch rest).2)

/-- The closed batch at the head leaves the queue and its members are applied in order (R67). -/
def applyBatch (s : State) : State :=
  match s.intake.queue with
  | r :: rest =>
    if granted s .intake && r.role == .opening && headApplicable s then
      launch (setQueue s (splitBatch rest).2) .topology
        ((splitBatch rest).1.map (fun m => .applyRecord m.record m.offset) ++ [.ref .status, .topologyEnd])
    else s
  | [] => s

/-- BATCH_APPLICATION (R67). -/
def execBatchApplication (s : State) : Host.Outcome State Fault Refusal := live s applyBatch

/-- An entry that is due makes the idle topology unit request the database (R92, R93). -/
def noteDue (e : EntryName) (s : State) : State := if entryDueNow s e then requestTopology s else s

/-- ENTRY_DUE (R92). -/
def execEntryDue (entry : EntryName) (s : State) : Host.Outcome State Fault Refusal := live s (noteDue entry)

/-- The lowest due node, or else port, is removed with reason AGED; with none due the grant is released at once (R94). -/
def expireNext (s : State) : State :=
  if granted s .expiry then
    match firstDueNode s (topoNow s) with
    | some (i, _) => launch s .topology [.removePorts i 0 .aged 0, .topologyEnd]
    | none =>
      match firstDuePort s (topoNow s) with
      | some (j, _) => launch s .topology [.removePort j .aged, .topologyEnd]
      | none => endTopology s
  else s

/-- EXPIRY (R94). -/
def execExpiry (s : State) : Host.Outcome State Fault Refusal := live s expireNext

/-- A link's entry becomes FREE. -/
def freeLink (s : State) (k : Nat) : State := { s with topology := { s.topology with links := s.topology.links.erase k } }

/-- The release of the link ID the request was made for (R107, R108). -/
def releaseLink (s : State) : State :=
  match s.topology.work with
  | some (.release k) =>
    if granted s (.release k) then
      launch (freeLink s k) .topology [.ref (.link k), .ref .status, .offer k, .topologyEnd]
    else s
  | _ => s

/-- LINK_ID_RELEASE (R107). -/
def execLinkIdRelease (s : State) : Host.Outcome State Fault Refusal := live s releaseLink

/-- The reconversion of a domain under the grant of LOAD_PROFILE (R25, R78). -/
def reconvert (s : State) : State :=
  match s.control.inProgress with
  | some { phase := .reconversion d, .. } =>
    if granted s .command then launch s .topology [.reconvertNodes d 0, .complete .done, .topologyEnd] else s
  | _ => s

/-- PROFILE_RECONVERSION (R78). -/
def execProfileReconversion (s : State) : Host.Outcome State Fault Refusal := live s reconvert

/-- The clearing of CLEAR_TOPOLOGY under its grant, once no strike event is queued or in processing (R33, R115). -/
def clearTopology (s : State) : State :=
  match s.control.inProgress with
  | some { phase := .clearing, .. } =>
    if granted s .command && strikesIdle s then
      launch (clearTopologyTables s) .topology (topologyRefs s ++ [.ref .status, .complete .done, .topologyEnd])
    else s
  | _ => s

/-- CLEAR_TOPOLOGY_OPERATION (R33, R115). -/
def execClearTopologyOperation (s : State) : Host.Outcome State Fault Refusal := live s clearTopology

/-- An event has left a full strike queue: the suspended operation sends its event and goes on (R104). -/
def giveStrikeRoom (s : State) : State :=
  if s.topology.strikeWait ∧ s.paths.strikes.length < Config.strikeEvents then
    settleAll { s with topology := { s.topology with strikeWait := false } }
  else s

/-- STRIKE_QUEUE_ROOM (R104). -/
def execStrikeQueueRoom (s : State) : Host.Outcome State Fault Refusal := live s giveStrikeRoom

end Sys2Proof.Machine
end

