-- ==== Sys2Proof/Machine/PathTableUnit.lean ====
section
/-!
DEFINITION. The steps of the path table unit and the path engine: request taking, selection, the take-up of the grant, the end of a
computation, and strike events.
-/

namespace Sys2Proof.Machine

/-! ### REQUEST_TAKING (R139 to R142) -/

/-- The request joins the queue with its verdict, and its slot the pending set (R140 step 3). -/
def queueRequest (s : State) (r : HandedRequest) : State :=
  { s with paths := { s.paths with
    queue := s.paths.queue ++ [{ slot := r.slot, record := r.record, valid := requestValid r.record, serial := s.paths.serial }],
    pendingSlots := s.paths.pendingSlots.set r.slot
      { tag := reqTag r.record, serial := s.paths.serial, line2Issued := false },
    serial := s.paths.serial + 1 } }

/-- The next request handed over is taken (R140). The taking of a refused request ends when its notice is queued; that of a queued
one when its status line reference is (R141; log 46). RESTART discards the requests that await their taking (R36). -/
def takeRequest (s : State) : State :=
  match s.paths.handed with
  | [] => s
  | r :: rest =>
    if s.threads.taking ≠ [] ∨ restarting s then s
    else
      let s1 := { s with paths := { s.paths with handed := rest } }
      if reqKindCode r.record = 0 then s1
      else if s1.paths.pendingSlots.has r.slot then
        launch { s1 with paths := { s1.paths with taking := true } } .taking
          [.post (.requestRefused r.slot (reqTag r.record) (reqKindCode r.record)), .requestFinish]
      else launch (queueRequest s1 r) .taking [.ref .status]

/-- REQUEST_TAKING (R140). -/
def execRequestTaking (s : State) : Host.Outcome State Fault Refusal := live s takeRequest

/-! ### SELECTION (R143 to R145, R148) -/

/-- The operation slot takes an item, and the run count its new value (R143, R144). -/
def selectItem (s : State) (item : Item) (phase : ItemPhase) (run : Nat) : State :=
  { s with paths := { s.paths with slot := some { item, phase, runBefore := s.paths.runCount }, runCount := run } }

/-- A restoration is selected, and requests the grant (R143, R144). -/
def selectRestoration (s : State) (p : Nat) : State :=
  requestGrant (selectItem s (.restoration p) .waiting (min 4 (s.paths.runCount + 1))) .path

/-- A request that needs the database is selected, and requests the grant (R144). -/
def selectWaiting (s : State) (q : QueuedRequest) : State :=
  launch (requestGrant (selectItem s (.request q) .waiting 0) .path) .operation [.ref .status]

/-- A request that needs no database is executed at its selection: its changes are made, and its items queued (R144, R154). The
status line reference of its leaving the queue comes first (R141). -/
def selectAnswered (q : QueuedRequest) (changed : State) (items : List Op) : State :=
  launch (selectItem changed (.request q) .answering 0) .operation (.ref .status :: items)

/-- A RELEASE at its selection (R145, R148): the answer names the path it freed. -/
def selectRelease (s : State) (q : QueuedRequest) : State :=
  match namedPath s q.record with
  | none => selectAnswered q s (plainResult s q .unknownPath)
  | some (p, e) =>
    let x := releasePath s p e
    selectAnswered q x.1 (x.2 ++ plainResult s q .ok)

/-- A RESUME at its selection (R145, R148). -/
def selectResume (s : State) (q : QueuedRequest) : State :=
  match namedPath s q.record with
  | none => selectAnswered q s (plainResult s q .unknownPath)
  | some (p, e) =>
    if resumable e then
      let x := resumePath s p e
      selectAnswered q x.1 (x.2 ++ pathResult q p e)
    else selectAnswered q s (plainResult s q .wrongState)

/-- The request at the head of the queue is selected (R143 to R145, R148). -/
def selectRequest (s : State) (q : QueuedRequest) : State :=
  if !q.valid then selectAnswered q s (plainResult s q .badRequest)
  else
    match reqKind q.record with
    | some .probe => selectWaiting s q
    | some .setup =>
      if (s.paths.entries.lowestFree Config.pathEntries).isSome then selectWaiting s q
      else selectAnswered q s (plainResult s q .tableFull)
    | some .reroute => selectWaiting s q
    | some .release => selectRelease s q
    | some .resume => selectResume s q
    | none => selectAnswered q s (plainResult s q .badRequest)

/-- The path table unit may select (R143): its slot is free, no strike event is queued or in processing, in RUN or DRAIN. -/
def maySelect (s : State) : Bool :=
  s.paths.slot.isNone && s.threads.operation.isEmpty && strikesIdle s && s.control.mode ≠ .off && !restarting s

/-- The next item is selected (R143). -/
def selectNext (s : State) : State :=
  if !maySelect s then s
  else
    match s.paths.restoration, s.paths.queue with
    | p :: _, [] => selectRestoration s p
    | p :: _, q :: rest =>
      if s.paths.runCount < 4 then selectRestoration s p
      else selectRequest { s with paths := { s.paths with queue := rest } } q
    | [], q :: rest => selectRequest { s with paths := { s.paths with queue := rest } } q
    | [], [] => s

/-- SELECTION (R143). -/
def execSelection (s : State) : Host.Outcome State Fault Refusal := live s selectNext

/-! ### GRANT_TAKE_UP (R144, R146, R147, R149, R169) -/

/-- The operation slot's item enters another phase. -/
def setItemPhase (s : State) (o : Operation) (phase : ItemPhase) : State :=
  { s with paths := { s.paths with slot := some { o with phase } } }

/-- The engine is handed the inputs of a computation (R116). -/
def startComputation (s : State) (o : Operation) (i : Inputs) : State :=
  { setItemPhase s o .computing with engine := { Engine.idle with inputs := some i } }

/-- A restoration whose path has left the restoration set is dropped (R144). -/
def dropRestoration (s : State) (o : Operation) : State :=
  releaseGrant { s with paths := { s.paths with slot := none, runCount := o.runBefore } }

/-- The operation of a request begins (R146, R147, R149). -/
def takeUpRequest (s : State) (o : Operation) (q : QueuedRequest) : State :=
  match reqKind q.record with
  | some .reroute =>
    (match rerouteCheck s q.record, namedPath s q.record with
     | .ok, some (_, e) => startComputation s o (rerouteInputs q.record e)
     | failure, _ => launch (setItemPhase s o .answering) .operation (.pathGrantEnd :: plainResult s q failure))
  | _ => startComputation s o (requestInputs q.record)

/-- The path table unit takes up its grant (R144). A restoration is served when its path is RESTORING at this moment, also when the path
left the restoration set and joined it again while the request waited: R144 drops one whose path left, R169 serves one that is still
RESTORING, and that the state at the take-up decides is the model's choice (log 49). -/
def takeUpGrant (s : State) : State :=
  match s.paths.slot with
  | some o =>
    if s.arbiter.holder == some .path && o.phase == .waiting && strikesIdle s && s.threads.operation.isEmpty then
      match o.item with
      | .restoration p =>
        (match s.paths.entries.get? p with
         | some e => if e.state = .restoring then startComputation s o (restorationInputs e) else dropRestoration s o
         | none => dropRestoration s o)
      | .request q => takeUpRequest s o q
    else s
  | none => s

/-- GRANT_TAKE_UP (R144). -/
def execGrantTakeUp (s : State) : Host.Outcome State Fault Refusal := live s takeUpGrant

/-! ### COMPUTATION_END (R137) -/

/-- The engine hands back its outcome and keeps no trace; the item's changes are made and its items queued (R137, R147, R150,
R154, R170, R171). -/
def endComputation (s : State) : State :=
  match s.paths.slot, s.engine.inputs with
  | some o, some i =>
    if o.phase == .computing && s.threads.operation.isEmpty then
      let c := (compute s i s.engine).2
      let x := endItem { setItemPhase s o .answering with engine := Engine.idle } o.item c
      launch x.1 .operation x.2
    else s
  | _, _ => s

/-- COMPUTATION_END (R137). -/
def execComputationEnd (s : State) : Host.Outcome State Fault Refusal := live s endComputation

/-! ### Strike events (R161 to R166) -/

/-- The strike event at the head, when it may be taken and is of this kind (R104, R161): its link, and the state without it. -/
def nextStrike (s : State) (kind : StrikeKind) : Option (Nat × State) :=
  match s.paths.strikes with
  | [] => none
  | x :: rest =>
    if strikesRun s && x.kind == kind then some (x.link, { s with paths := { s.paths with strikes := rest } }) else none

/-- A DOWN event: one that finds its flag set changes nothing else (R162). -/
def strikeDown (s : State) : State :=
  match nextStrike s .down with
  | none => s
  | some (k, s1) => if s1.paths.view.contains k then s1 else launch (setFlag s1 k true) .strike [.downPaths k 0]

/-- DOWN_EVENT (R162). -/
def execDownEvent (s : State) : Host.Outcome State Fault Refusal := live s strikeDown

/-- An UP event: one that finds its flag clear changes nothing else (R163). -/
def strikeUp (s : State) : State :=
  match nextStrike s .up with
  | none => s
  | some (k, s1) => if s1.paths.view.contains k then launch (setFlag s1 k false) .strike [.upPaths k 0] else s1

/-- UP_EVENT (R163). -/
def execUpEvent (s : State) : Host.Outcome State Fault Refusal := live s strikeUp

/-- A RETIRE event (R166). -/
def strikeRetire (s : State) : State :=
  match nextStrike s .retire with
  | none => s
  | some (k, s1) => launch s1 .strike [.retirePaths k 0, .retireDone k]

/-- RETIRE_EVENT (R166). -/
def execRetireEvent (s : State) : Host.Outcome State Fault Refusal := live s strikeRetire

end Sys2Proof.Machine
end

