-- ==== Sys2Proof/Machine/Dispatch.lean ====
section
/-!
DEFINITION. The effect of every command: one arm for each row of spec/opcode_table.json.
-/

namespace Sys2Proof.Machine

def exec (i : Instr) (s : State) : Host.Outcome State Fault Refusal :=
  match i with
  | .resetAsserted => Sys2Proof.Machine.execResetAsserted s
  | .resetReleased straps => Sys2Proof.Machine.execResetReleased straps s
  | .writeAccepted presented => Sys2Proof.Machine.execWriteAccepted presented s
  | .readAccepted addr tag => Sys2Proof.Machine.execReadAccepted addr tag s
  | .readResponse tag answer => Sys2Proof.Machine.execReadResponse tag answer s
  | .holdDeadline entry => Sys2Proof.Machine.execHoldDeadline entry s
  | .writeBackIssue => Sys2Proof.Machine.execWriteBackIssue s
  | .writeBackRoom => Sys2Proof.Machine.execWriteBackRoom s
  | .responseWrite => Sys2Proof.Machine.execResponseWrite s
  | .strikeQueueRoom => Sys2Proof.Machine.execStrikeQueueRoom s
  | .unknownCommand => Sys2Proof.Machine.execUnknownCommand s
  | .setWindows => Sys2Proof.Machine.execSetWindows s
  | .loadProfile => Sys2Proof.Machine.execLoadProfile s
  | .profileReadResponse answer => Sys2Proof.Machine.execProfileReadResponse answer s
  | .profileInstallation => Sys2Proof.Machine.execProfileInstallation s
  | .profileReconversion => Sys2Proof.Machine.execProfileReconversion s
  | .loadClasses => Sys2Proof.Machine.execLoadClasses s
  | .setTiming => Sys2Proof.Machine.execSetTiming s
  | .setReporting => Sys2Proof.Machine.execSetReporting s
  | .start => Sys2Proof.Machine.execStart s
  | .stop => Sys2Proof.Machine.execStop s
  | .drainEnd => Sys2Proof.Machine.execDrainEnd s
  | .clearTopology => Sys2Proof.Machine.execClearTopology s
  | .clearTopologyOperation => Sys2Proof.Machine.execClearTopologyOperation s
  | .clearPaths => Sys2Proof.Machine.execClearPaths s
  | .restart => Sys2Proof.Machine.execRestart s
  | .acknowledgement => Sys2Proof.Machine.execAcknowledgement s
  | .intakeRecordTaking => Sys2Proof.Machine.execIntakeRecordTaking s
  | .topologyRequest => Sys2Proof.Machine.execTopologyRequest s
  | .looseRecordApplication => Sys2Proof.Machine.execLooseRecordApplication s
  | .batchApplication => Sys2Proof.Machine.execBatchApplication s
  | .entryDue entry => Sys2Proof.Machine.execEntryDue entry s
  | .expiry => Sys2Proof.Machine.execExpiry s
  | .linkIdRelease => Sys2Proof.Machine.execLinkIdRelease s
  | .requestTaking => Sys2Proof.Machine.execRequestTaking s
  | .selection => Sys2Proof.Machine.execSelection s
  | .grantTakeUp => Sys2Proof.Machine.execGrantTakeUp s
  | .computationEnd => Sys2Proof.Machine.execComputationEnd s
  | .downEvent => Sys2Proof.Machine.execDownEvent s
  | .upEvent => Sys2Proof.Machine.execUpEvent s
  | .retireEvent => Sys2Proof.Machine.execRetireEvent s

end Sys2Proof.Machine
end

