-- ==== Sys2Proof/Machine/Step.lean ====
section
/-!
DEFINITION. The step of the block: the command at the front of its queue, or a tick of the reference clock.
-/

namespace Sys2Proof.Machine

/-- One microsecond of the reference clock: the time base counts while the reset pin is released (R38; log 3). -/
def tick (s : State) : State :=
  if s.inReset then s else { s with control := { s.control with time := s.control.time + 1 } }

/-- The command at the front of the queue is taken and has its effect; on an empty queue the time base ticks. -/
def step (s : State) : Host.Outcome State Fault Refusal :=
  match s.pending with
  | [] => .next (tick s)
  | c :: rest => exec c { s with pending := rest }

/-- The state with the command a word spells put at the front of the queue; no word spells one (Sys2Proof.decodeTableWord). -/
def State.withFetchWord (s : State) (nbits w : Nat) : State :=
  match decodeTableWord nbits w with
  | some c => { s with pending := c :: s.pending }
  | none => s

end Sys2Proof.Machine
end

