-- ==== Sys2Proof/Safety.lean ====
section
/-!
DEFINITION. What the laws of the spec ask of a state, as properties that can be decided: the bounds of the queues, the coalescing
of references, the restoration set, the canonical form of the tables, and quiescence.
-/

namespace Sys2Proof.Machine

/-- The references in a list of write-back items. -/
def queuedRefs (q : List WbItem) : List Ref :=
  q.filterMap (fun x => match x with
    | .ref r => some r
    | .content _ _ _ => none)

/-- The write-back queue holds at most 64 items, and at most one reference item for each entry (R16, R17); it is empty while the
reset pin is asserted (R19). -/
def QueueLaw (s : State) : Prop :=
  s.writeBack.queue.length ≤ Config.writeBackItems ∧ (queuedRefs s.writeBack.queue).Nodup ∧
    (s.inReset = true → s.writeBack.queue = [])

/-- The bounds of the other queues: 8 hold entries (section 1.5), 64 intake records (R57), 16 requests (R140), 32 strike events
(R104), a run count of at most 4, and so the count kept from before a selection (R143, R144). -/
def BoundLaw (s : State) : Prop :=
  s.system.holds.length ≤ Config.holdEntries ∧ intakeCount s ≤ Config.intakeRecords ∧
    requestCount s ≤ Config.requestEntries ∧ s.paths.strikes.length ≤ Config.strikeEvents ∧ s.paths.runCount ≤ 4 ∧
    ∀ o, s.paths.slot = some o → o.runBefore ≤ 4

/-- The indices of a sparse table rise strictly, so that equal tables are equal data. -/
def Table.ascending {α : Type} (t : Table α) : Prop := t.keys.Pairwise (· < ·)

/-- The paths in RESTORING, in ascending path ID. -/
def restoringPaths (s : State) : List Nat := ((s.paths.entries.filter (fun x => x.2.state == .restoring)).map (·.1))

/-- The restoration set holds exactly the paths in RESTORING, each once (R159). -/
def RestorationLaw (s : State) : Prop := s.paths.entries.ascending ∧ s.paths.restoration = restoringPaths s

/-- The tables are in canonical form, and nodes, ports and paths lie in their tables (R74, R79, R155). -/
def TableLaw (s : State) : Prop :=
  (s.topology.nodes.wf Config.nodeEntries = true ∧ s.topology.ports.wf Config.portEntries = true ∧
    s.topology.links.ascending) ∧
  (s.paths.entries.wf Config.pathEntries = true ∧ s.paths.generations.ascending ∧ s.paths.reserved.ascending ∧
    s.paths.pendingSlots.ascending) ∧ s.notices.records.ascending ∧ s.profiles.domains.ascending

/-- The pin is released, no operation is under way and nothing waits, at the notice unit or for room; the write-back queue has room
for `n` more items. -/
structure Calm (s : State) (n : Nat) : Prop where
  released : s.inReset = false
  threads : s.threads = Threads.none
  waiters : s.writeBack.waiters = []
  turn : s.notices.turn = []
  strikeWait : s.topology.strikeWait = false
  room : s.writeBack.queue.length + n ≤ Config.writeBackItems

/-- The state with a reference item queued at the tail, unless one for the entry is queued already, or the entry's export window
is unset (R16, R17). -/
def withRef (s : State) (r : Ref) : State :=
  if (r ≠ .status ∧ s.decoder.windows = none) ∨ .ref r ∈ s.writeBack.queue then s
  else { s with writeBack := { s.writeBack with queue := s.writeBack.queue ++ [.ref r] } }

/-- The state with several reference items queued, in order. -/
def withRefs (s : State) (rs : List Ref) : State := rs.foldl withRef s

/-- The state with a content item queued at the tail. -/
def withContent (s : State) (target : Nat) (data : Line) (m : Option ResultMark) : State :=
  { s with writeBack := { s.writeBack with queue := s.writeBack.queue ++ [.content target data m] } }

/-- The state in which a record's outcome has entered "last completed", no command is in progress, and the response image has been
queued for anchor line 1 (R21, R22). -/
def answered (s : State) (r : Line) (o : CmdOutcome) : State :=
  let s1 := { s with control := { s.control with
    inProgress := none, completed := { tag := cmdTag r, code := cmdCode r, outcome := o } } }
  withContent s1 (anchorBase s1 + 1) (responseLine s1) none

/-- A reference for every entry in use: nodes, ports, links and paths, each in ascending index (R23, R36). -/
def usedRefs (s : State) : List Ref :=
  s.topology.nodes.map (fun x => .node x.1) ++ s.topology.ports.map (fun x => .port x.1) ++
    s.topology.links.map (fun x => .link x.1) ++ s.paths.entries.map (fun x => .path x.1)

/-- The arbiter as it is once `r` has been granted while no other request waited (R110). -/
def heldBy (s : State) (r : Requester) : Arbiter :=
  { holder := some r, waitTopology := false, waitPath := false, last := some r, grantTime := s.control.time }

/-- No one holds the database and no request waits (R110). -/
def ArbiterFree (s : State) : Prop :=
  s.arbiter.holder = none ∧ s.arbiter.waitTopology = false ∧ s.arbiter.waitPath = false

/-- The topology unit holds the database for a kind of work it has not begun, and no request waits (R110). -/
def TopologyGranted (s : State) (w : Work) : Prop :=
  s.arbiter.holder = some .topology ∧ s.arbiter.waitTopology = false ∧ s.arbiter.waitPath = false ∧ s.topology.work = some w

/-- The state once the topology unit's operation has ended, with no request waiting (R111). -/
def topologyIdle (s : State) : State :=
  { s with topology := { s.topology with work := none }, arbiter := { s.arbiter with holder := none } }

/-- The two content items that answer a request, line 2 and then line 1 of its slot (R154). -/
def withResult (s : State) (slot serial : Nat) (first second : Line) : State :=
  withContent (withContent s (resultTarget s { slot, line := 2, serial }) second (some { slot, line := 2, serial }))
    (resultTarget s { slot, line := 1, serial }) first (some { slot, line := 1, serial })

/-- A result line 1 that carries no route: the tag, the outcome, no class and no path (R152, R189). -/
def bareFirst (tag : BitVec 32) (o : ReqOutcome) : Line :=
  lineOf [fld 0 4 tag.toNat, fld 4 1 o.code, fld 5 1 0xFF, fld 6 2 0xFFFF]

/-- A result line 2 that carries no route (R153, R189). -/
def bareSecond (tag : BitVec 32) (o : ReqOutcome) : Line := lineOf [fld 0 4 tag.toNat, fld 4 1 o.code]

/-- The state with the writes of the channel replaced, the head first (R1). -/
def withChannel (s : State) (ws : List LineWrite) : State := { s with system := { s.system with channel := ws } }

/-- The state in which the head of the write channel has been accepted and forwarded, with `rest` behind it, and nothing else has
happened (R1, R2). -/
def forwarded (s : State) (w : LineWrite) (rest : List LineWrite) : State :=
  { withChannel s rest with
    memory := { s.memory with sequence := s.memory.sequence ++ [.write w.addr w.data w.enables] } }

/-- Write `w` is the head of the write channel at WRITE_ACCEPTED, and `rest` is behind it: writes that have waited in the channel, and
behind them the one presented with the command, if any, whose address names a line; the pin is released (R1). -/
structure AtHead (s : State) (presented : Option LineWrite) (w : LineWrite) (rest : List LineWrite) : Prop where
  released : s.inReset = false
  aligned : ∀ x, presented = some x → x.addr.toNat % 64 = 0
  channel : s.system.channel ++ presented.toList = w :: rest

/-- The two ABORTED lines of every pending slot, in ascending slot index, line 2 and then line 1 (R36). -/
def abortedLines (s : State) : State :=
  s.paths.pendingSlots.foldl (fun u x =>
    withResult u x.1 x.2.serial (bareFirst x.2.tag .aborted) (bareSecond x.2.tag .aborted)) s

/-- The record of a command is the only one handed over, and no command is in progress (R21). -/
structure Commanded (s : State) (r : Line) (code : Nat) : Prop where
  handed : s.control.handed = [r]
  free : s.control.inProgress = none
  code : (cmdCode r).toNat = code

/-- The state without the records handed over to the control unit. -/
def dealtWith (s : State) : State := { s with control := { s.control with handed := [] } }

/-- A next state keeps a property. -/
def Keeps (P : State → Prop) : Prop := ∀ s t, P s → step s = .next t → P t

/-- The arbiter's requests wait only behind a holder (R110, R111). -/
def ArbiterSound (s : State) : Prop :=
  s.arbiter.holder = none → s.arbiter.waitTopology = false ∧ s.arbiter.waitPath = false

/-- The state once the topology unit has asked for the database for a kind of work: granted at once by a free arbiter (R109, R110). -/
def topologyAsks (s : State) (w : Work) : State :=
  { s with
    topology := { s.topology with work := some w }
    arbiter := if s.arbiter.holder = none then heldBy s .topology else { s.arbiter with waitTopology := true } }

/-- The state once the path table unit has asked for the database: granted at once by a free arbiter (R110, R144). -/
def pathAsks (s : State) : State :=
  { s with arbiter := if s.arbiter.holder = none then heldBy s .path else { s.arbiter with waitPath := true } }

/-- A link is owed a release (R106, R107). -/
def LinkEntry.owed (l : LinkEntry) : Prop := l.state = .retiring ∧ l.answered = true

/-- The command in progress wants no database operation (R109). -/
def NoCommandWork (s : State) : Prop :=
  ∀ c, s.control.inProgress = some c → c.phase ≠ .clearing ∧ ∀ d, c.phase ≠ .reconversion d

/-- An entry of domain `d` last refreshed at `refresh` is due at `now` (R92). -/
def IsDue (s : State) (now : BitVec 64) (d : Nat) (refresh : BitVec 64) : Prop :=
  s.control.mode ≠ .off ∧ 0 < (domainProfile s d).age ∧ refresh.toNat + (domainProfile s d).age * 1000000 ≤ now.toNat

/-- The state while the notice unit has dealt with an acknowledgement's consumer count `c` (R177). -/
def acknowledged (s : State) (rest : List AckRecord) (c : BitVec 32) (records : Table NoticeRecord) : State :=
  { s with notices := { s.notices with handed := rest, consumer := c, records := records } }

/-- The intake unit after a taking: its queue and its batch state; the record in hand is taken (R57). -/
def taken (s : State) (rest : List HandedRecord) (q : List QueuedRecord) (b : BatchState) : State :=
  { s with intake := { queue := q, batch := b, handed := rest, taking := none } }

/-- The open batch in an intake queue: the records before its marker, the marker, and the members and loose records behind it. -/
structure OpenBatchIn (q before : List QueuedRecord) (marker : QueuedRecord) (behind : List QueuedRecord) : Prop where
  queue : q = before ++ marker :: behind
  marker : marker.role = .opening
  behind : ∀ x ∈ behind, x.role = .member ∨ x.role = .loose

/-- The loose records of a list, in their order. -/
def looseOf (q : List QueuedRecord) : List QueuedRecord := q.filter (fun x => x.role == .loose)

/-- The members in a list, in their order. -/
def membersOf (q : List QueuedRecord) : List QueuedRecord := q.filter (fun x => x.role == .member)

/-- The state with the intake queue replaced. -/
def withQueue (s : State) (q : List QueuedRecord) : State := { s with intake := { s.intake with queue := q } }

/-- Index `i` is the lowest free one of a table of `n` entries. -/
def LowestFree {α : Type} (t : Table α) (n i : Nat) : Prop := i < n ∧ t.get? i = none ∧ ∀ j, j < i → t.get? j ≠ none

/-- A result line 1 without a route: for a RELEASE, RESUME or REROUTE that named a path in use it shows the path and its class
(R152). -/
def plainFirst (s : State) (r : Line) (o : ReqOutcome) : Line :=
  match shownPath s r with
  | none => bareFirst (reqTag r) o
  | some (p, e) => lineOf [fld 0 4 (reqTag r).toNat, fld 4 1 o.code, fld 5 1 e.cls, fld 6 2 p]

/-- The path table unit once the request at the head has been executed: it has left the queue and the slot is free (R143). -/
def served (s : State) (rest : List QueuedRequest) : State :=
  { s with paths := { s.paths with queue := rest, slot := none, runCount := 0 } }

/-- The path table unit may select (R143). -/
structure MaySelect (s : State) : Prop where
  slot : s.paths.slot = none
  strikes : s.paths.strikes = []
  mode : s.control.mode ≠ .off
  restart : restarting s = false

/-- The operation slot's item has asked for the grant and holds it, not yet taken up, and no other request waits (R144). -/
structure PathGranted (s : State) (o : Operation) : Prop where
  slot : s.paths.slot = some o
  phase : o.phase = .waiting
  holder : s.arbiter.holder = some .path
  waits : s.arbiter.waitTopology = false ∧ s.arbiter.waitPath = false

/-- The state in which the engine has been handed inputs (R116, R117). -/
def computingWith (s : State) (o : Operation) (i : Inputs) : State :=
  { s with
    paths := { s.paths with slot := some (Operation.mk o.item .computing o.runBefore) }
    engine := { inputs := some i, labels := [], best := none, primary := none, cls := none } }

/-- A computation is under way for the operation slot's item, and no other request for the database waits (R116). -/
structure Computing (s : State) (o : Operation) (i : Inputs) : Prop where
  slot : s.paths.slot = some o
  phase : o.phase = .computing
  inputs : s.engine.inputs = some i
  holder : s.arbiter.holder = some .path
  waits : s.arbiter.waitTopology = false ∧ s.arbiter.waitPath = false

/-- The state once the item's execution has ended: the engine keeps no trace, the slot is free, the grant released (R111, R137, R143). -/
def itemEnded (s : State) : State :=
  { s with
    engine := Engine.idle, paths := { s.paths with slot := none }, arbiter := { s.arbiter with holder := none } }

/-- The strike event at the head may be taken: it is of this kind and link, no event is in processing, no grant taken up (R161). -/
structure StrikeNext (s : State) (kind : StrikeKind) (k : Nat) (rest : List Strike) : Prop where
  head : s.paths.strikes = ⟨kind, k⟩ :: rest
  grant : grantTakenUp s = false
  restart : restarting s = false

/-- The link view and the strike queue after a strike event has been taken. -/
def struckView (s : State) (rest : List Strike) (view : List Nat) : State :=
  { s with paths := { s.paths with strikes := rest, view := view } }

/-- What a RETIRE event leaves of its link: an empty reservation set, a clear flag, and the answered mark of a RETIRING link (R106,
R166). -/
def retired (s : State) (k : Nat) : State :=
  { s with
    paths := { s.paths with reserved := s.paths.reserved.erase k, view := removeNat k s.paths.view },
    topology := { s.topology with
      links := s.topology.links.modify k (fun l => if l.state = .retiring then { l with answered := true } else l) } }

/-- The deferred path notices: the paths whose record is IDLE with the due mark set, in ascending path ID (R179, R181). -/
def deferredPaths (s : State) : List Nat :=
  (s.notices.records.filter (fun x => x.2.deferred && decide (x.1 < Config.pathEntries))).map (·.1)

/-- The state with a path's PATH_STATE written into the ring and the status line reference behind it: the path is OUTSTANDING at its
generation, its due mark clear and its count 0 (R175 step 3, R179 to R181). -/
def pathNotified (w : Windows) (s : State) (p : Nat) : State :=
  let line := pathStateLine s p (noticeRecord s p)
  withRef { withContent s (w.noticeBase + s.notices.producer.toNat % w.noticeLines) line none with
    notices := { s.notices with
      producer := s.notices.producer + 1
      records := s.notices.records.setD p NoticeRecord.idle
        { noticeRecord s p with outstanding := true, due := false, lastGen := generationOf s p, count := 0 } } } .status

/-- The state with the first `n` deferred path notices written, in ascending path ID (R181). -/
def drainedTo (w : Windows) (n : Nat) (s : State) : State := ((deferredPaths s).take n).foldl (pathNotified w) s

/-- A port with its derived fields computed again from its reported ones with a profile (R77, R78). -/
def rederived (p : Profile) (e : PortEntry) : PortEntry :=
  { e with
    nu := convert p e.reported.raw, foreign := mapForeign p e.reported.mask, clipped := mapClipped p e.reported.mask }

/-- A port joins no pair: its pairing state is `st`, and it holds no link. -/
def PortEntry.unpaired (e : PortEntry) (st : Pairing) : PortEntry := { e with pairing := st, link := none }

/-- A link retired at a time: RETIRING, its ports gone, its identities kept (R103). -/
def LinkEntry.retiredAt (l : LinkEntry) (now : BitVec 64) : LinkEntry :=
  { l with
    state := .retiring, endA := { l.endA with port := none }, endB := { l.endB with port := none }, changed := now
    answered := false }

/-- A port claims port `number` of the node with this network ID (R80). -/
def PortEntry.names (e : PortEntry) (id : Id32) (number : Nat) : Prop := e.reported.farId = id ∧ e.reported.farPort = number

/-- The links of a route, one after another, join the nodes given in their order (R120, R127). -/
def joinsInOrder (s : State) : List Nat → List Nat → Prop
  | [], [_] => True
  | k :: ks, a :: b :: ns =>
    (∃ l, s.topology.links.get? k = some l ∧ (linkNodes s l = some (a, b) ∨ linkNodes s l = some (b, a))) ∧
      joinsInOrder s ks (b :: ns)
  | _, _ => False

/-- The noise of a walk over links and nodes from noise `n`: leaving any node but the source adds its penalty, crossing a link its NU,
and entering another domain that domain's border penalty (R53, R125). -/
def walkedNoise (s : State) (src : Nat) : Nat → List Nat → List Nat → Nat
  | n, k :: ks, a :: b :: ns =>
    let leave := if a = src then n else noiseAdd n (((s.topology.nodes.get? a).map (·.penalty)).getD 0)
    let cross := noiseAdd leave (((s.topology.links.get? k).map (·.attrs.nu)).getD 0)
    walkedNoise s src
      (if nodeDomain s a = nodeDomain s b then cross else noiseAdd cross (domainProfile s (nodeDomain s b)).border) ks (b :: ns)
  | n, _, _ => n

/-- A route is diverse from another: it shares no link and no SRLG with it, and with NODE_DIVERSE no node but the ends (R133). -/
structure DiverseFrom (s : State) (i : Inputs) (src dst : Nat) (r other : Route) : Prop where
  links : ∀ k ∈ r.links, k ∉ other.links
  srlgs : ∀ k ∈ r.links, ∀ l, s.topology.links.get? k = some l → ∀ g ∈ l.attrs.srlgs, g ∉ routeSrlgs s other
  nodes : i.nodeDiverse = true → ∀ n ∈ routeNodes s r, n ∈ routeNodes s other → n = src ∨ n = dst

/-- A line shows fields (offset, bytes, value) at their places, and zero in every byte that none of them covers (R183, R185). -/
def Shows (l : Line) (fs : List (Nat × Nat × Nat)) : Prop :=
  (∀ f ∈ fs, fieldNat l f.1 f.2.1 = f.2.2) ∧
    ∀ b < 64, (∀ f ∈ fs, b < f.1 ∨ f.1 + f.2.1 ≤ b) → fieldNat l b 1 = 0

/-- The fields of a node entry lie in the ranges of R74. -/
def NodeEntry.Fits (e : NodeEntry) : Prop := e.domain < 16 ∧ e.rawPenalty < 65536 ∧ e.penalty < 65536 ∧ e.portCount ≤ 256

/-- The fields of a port entry lie in the ranges of R79. -/
def PortEntry.Fits (e : PortEntry) : Prop :=
  e.node < 256 ∧ e.number < 256 ∧ e.reported.farPort < 256 ∧ e.reported.cost < 65536 ∧ e.reported.raw < 65536 ∧ e.nu < 65536 ∧
    e.reported.srlgs.length ≤ 6 ∧ ∀ k, e.link = some k → k < 1024

/-- The fields of a link entry lie in the ranges of R98. -/
def LinkEntry.Fits (e : LinkEntry) : Prop :=
  e.endA.number < 256 ∧ e.endB.number < 256 ∧ (∀ j, e.endA.port = some j ∨ e.endB.port = some j → j < 2048) ∧
    e.attrs.cost < 65536 ∧ e.attrs.nu < 65536 ∧ e.attrs.srlgs.length ≤ 6

/-- The fields of a route lie in the ranges of R127. -/
def Route.Fits (r : Route) : Prop :=
  r.start < 80 ∧ r.width ≤ 2 ∧ r.hops ≤ 20 ∧ r.cost ≤ 1310700 ∧ r.noise < 65536 ∧ r.links.length ≤ 20 ∧ ∀ k ∈ r.links, k < 1024

/-- The fields of a path entry lie in the ranges of R155. -/
def PathEntry.Fits (e : PathEntry) : Prop :=
  e.cls < 4 ∧ e.srcIndex < 256 ∧ e.dstIndex < 256 ∧
    ∀ h, e.primary = some h ∨ e.backup = some h → h.route.Fits ∧ h.struck ≤ 20

/-- The route summary at a byte offset of a path line; that of an absent route is zero (R185, R191). -/
def summaryOf (off : Nat) : Option HeldRoute → List (Nat × Nat × Nat)
  | none => []
  | some h =>
    [(off, 1, h.route.start), (off + 1, 1, h.route.hops), (off + 2, 1, h.struck), (off + 3, 3, h.route.cost),
      (off + 6, 2, h.route.noise)]

/-- The route block of a result line; that of an absent route is zero (R185, R189). -/
def routeBlockOf : Option Route → List (Nat × Nat × Nat)
  | none => []
  | some r =>
    [(8, 1, r.start), (9, 1, r.width), (10, 1, r.hops), (12, 4, r.cost), (16, 2, r.noise)] ++
      (List.range 20).map (fun n => (20 + 2 * n, 2, r.links.getD n 0))

end Sys2Proof.Machine
end

