-- ==== Sys2Proof/Safety/Effects.lean ====
section
/-!
DEFINITION. What an operation queues and posts, and what the steps of the topology unit do, each in one piece, for the statements: the
state after a notice, after a PATH_STATE post and after a list of them; and the effects of spec/05 and spec/06 on the tables with the
references and notices they give rise to, in their order. A part in which nothing waits has no need of threads: an effect is its state
and its list.
-/

namespace Sys2Proof.Machine

/-! ### References, notices and PATH_STATE posts -/

/-- One item of an operation in its order: a reference, a notice, or a PATH_STATE post (R16, R175, R179). -/
inductive Said where
  | ref (r : Ref)
  | post (n : Notice)
  | pathState (p : Nat) (why : PathReason)
  deriving DecidableEq, Repr

/-- A notice has been discarded: NOTICES_LOST is set, and when it is newly set a status line reference is queued (R175 step 2). -/
def noticeLost (s : State) : State :=
  if s.notices.lost then s else withRef { s with notices := { s.notices with lost := true } } .status

/-- A notice has been written: its line has joined the queue for ring line p mod N, the producer count has risen, and a status line
reference is queued (R174, R175 step 3). -/
def noticeWritten (s : State) (w : Windows) (line : Line) : State :=
  withRef { withContent s (w.noticeBase + s.notices.producer.toNat % w.noticeLines) line none with
    notices := { s.notices with producer := s.notices.producer + 1 } } .status

/-- A notice has been posted (R175): a disabled class is not written; with the window set, room in the ring and no path deferred the
notice is written; and else it is discarded. -/
def posted (s : State) (n : Notice) : State :=
  if noticeEnabled s n = false then s
  else
    match s.decoder.windows with
    | none => noticeLost s
    | some w =>
      if ringUsed s < w.noticeLines ∧ ∀ x ∈ s.notices.records, x.2.deferred = false then
        noticeWritten s w (noticeLine n s.notices.producer s.control.time)
      else noticeLost s

/-- The record of a path notice is replaced. -/
def withRecord (s : State) (p : Nat) (r : NoticeRecord) : State :=
  { s with notices := { s.notices with records := s.notices.records.setD p NoticeRecord.idle r } }

/-- A PATH_STATE has been posted (R179): a disabled class is not written; else the change is counted and its reason recorded, and an
IDLE path without a due mark has its notice written when the ring takes it, and any other its due mark set. -/
def pathStatePosted (s : State) (p : Nat) (why : PathReason) : State :=
  if s.control.enables.path = false then s
  else
    let r := noticeRecord s p
    let counted : NoticeRecord := { r with count := min 65535 (r.count + 1), reason := some why }
    match s.decoder.windows with
    | none => withRecord s p { counted with due := true }
    | some w =>
      if r.outstanding = false ∧ r.due = false ∧ ringUsed s < w.noticeLines ∧ ∀ x ∈ s.notices.records, x.2.deferred = false then
        pathNotified w (withRecord s p counted) p
      else withRecord s p { counted with due := true }

/-- The state with one item queued or posted. -/
def withOne (s : State) : Said → State
  | .ref r => withRef s r
  | .post n => posted s n
  | .pathState p why => pathStatePosted s p why

/-- The state with the items of a list queued and posted, in their order. -/
def withSaid (s : State) (xs : List Said) : State := xs.foldl withOne s

/-- The places of the write-back queue that an item can need: a notice brings its status line reference (R175). -/
def Said.places (s : State) : Said → Nat
  | .ref _ => 1
  | .post n => if noticeEnabled s n then 2 else 0
  | .pathState _ _ => if s.control.enables.path then 2 else 0

/-- The places that the items of a list can need. -/
def places (s : State) (xs : List Said) : Nat := (xs.map (Said.places s)).sum

/-- What a change of a path brings: its reference, and PATH_STATE when its state field changes from `old` (R168). -/
def pathSaid (p : Nat) (old new : PathState) (why : PathReason) : List Said :=
  if old = new then [.ref (.path p)] else [.ref (.path p), .pathState p why]


/-! ### Effects -/

/-- An effect: the state it leaves, and what it queues and posts. -/
structure Effect where
  state : State
  said : List Said
  deriving DecidableEq, Repr

/-- One effect after another. -/
def Effect.andThen (x : Effect) (f : State → Effect) : Effect := { state := (f x.state).state, said := x.said ++ (f x.state).said }

/-- Several effects, one after another. -/
def Effect.each (s : State) (f : State → Nat → Effect) (xs : List Nat) : Effect :=
  xs.foldl (fun x i => x.andThen (fun u => f u i)) { state := s, said := [] }

/-- No effect. -/
def Effect.none (s : State) : Effect := { state := s, said := [] }

/-- The paths with a route through link `k`, in ascending path ID: each changes by `move`, gives up the routes that it answers, and brings
its items (R161, R168). -/
def pathsMoved (s : State) (k : Nat) (move : PathEntry → PathEntry × List Route) (why : PathReason) : Effect :=
  Effect.each s (fun u p =>
    match u.paths.entries.get? p with
    | none => .none u
    | some e =>
      { state := storePath (unreserveAll u (move e).2) p (move e).1, said := pathSaid p e.state (move e).1.state why })
    ((s.paths.entries.filter (fun x => heldHas x.2.primary k || heldHas x.2.backup k)).map (·.1))

/-! ### Effects on the topology tables -/

/-- The next state of an operation of the topology unit whose effect is `x`: its items queued and posted, the grant released (R110). -/
def Effect.ended (x : Effect) : State := topologyIdle (withSaid x.state x.said)

/-- Port `j`'s reference, and its PORT_STATE when its pairing state or link ID differs from the old ones (R88, R97). -/
def portSaid (s : State) (j : Nat) (old : Option Pairing) (oldLink : Option Nat) (why : TopoReason) : List Said :=
  match s.topology.ports.get? j with
  | none => []
  | some e =>
    .ref (.port j) ::
      (if old = some e.pairing ∧ oldLink = e.link then []
       else [.post (.portState j (((s.topology.nodes.get? e.node).map (·.netId)).getD 0) e.number e.reported.farId
         e.reported.farPort old (some e.pairing) oldLink e.link why)])

/-- Port `j` takes a pairing state and no link, from the old link ID given, with its items. -/
def portLeft (s : State) (j : Nat) (st : Pairing) (oldLink : Option Nat) (why : TopoReason) : Effect :=
  match s.topology.ports.get? j with
  | none => .none s
  | some e =>
    let t : State := { s with topology := { s.topology with ports := s.topology.ports.set j (e.unpaired st) } }
    { state := t, said := portSaid t j (some e.pairing) oldLink why }

/-- A port, if there is one, no longer belongs to a link. -/
def unlinkPort (t : Table PortEntry) : Option Nat → Table PortEntry
  | none => t
  | some j => t.modify j (fun e => { e with link := none })

/-- Link `k` is retired (R103): RETIRING with its ports gone and its identities kept, both ports out of it, a RETIRE event sent, the
link's reference queued and LINK_RETIRED posted with its former state. -/
def linkRetired (s : State) (k : Nat) (why : TopoReason) : Effect :=
  match s.topology.links.get? k with
  | none => .none s
  | some l =>
    let now := l.retiredAt s.arbiter.grantTime
    { state := { s with
        topology := { s.topology with
          ports := unlinkPort (unlinkPort s.topology.ports l.endA.port) l.endB.port, links := s.topology.links.set k now }
        paths := { s.paths with strikes := s.paths.strikes ++ [⟨.retire, k⟩] } }
      said := [.ref (.link k), .post (.linkRetired k why now l.state)] }

/-- The port at the other end of link `k` from port `j`. -/
def otherEnd (s : State) (j k : Nat) : Option Nat :=
  match s.topology.links.get? k with
  | none => none
  | some l => if l.endA.port = some j then l.endB.port else l.endA.port

/-- The link between ports `j` and `m` at its making (R98 to R100): end A has the lower network ID; UP when both ports are up, and
else DOWN. -/
def madeLink (s : State) (j : Nat) (p : PortEntry) (m : Nat) (q : PortEntry) : LinkEntry :=
  let idOf := fun e : PortEntry => ((s.topology.nodes.get? e.node).map (·.netId)).getD 0
  let one : LinkEnd := { port := some j, netId := idOf p, number := p.number }
  let two : LinkEnd := { port := some m, netId := idOf q, number := q.number }
  { state := if p.reported.up = true ∧ q.reported.up = true then .up else .down
    endA := if (idOf p).toNat < (idOf q).toNat then one else two
    endB := if (idOf p).toNat < (idOf q).toNat then two else one
    attrs := deriveAttrs s p q, created := s.arbiter.grantTime, changed := s.arbiter.grantTime, answered := false }

/-- Ports `j` and `m` are PAIRED on link `k` (R81 step 4, R100, R108): the link is made, with its reference, a status line reference and
LINK_UP or LINK_DOWN of reason NEW, and a DOWN event when it is DOWN; then the two ports' items, port `j`'s against `old` and
`oldLink`. -/
def portsPaired (s : State) (k j : Nat) (p : PortEntry) (m : Nat) (q : PortEntry) (old : Option Pairing) (oldLink : Option Nat)
    (why : TopoReason) : Effect :=
  let l := madeLink s j p m q
  let up := p.reported.up = true ∧ q.reported.up = true
  let joined := fun e : PortEntry => { e with pairing := .paired, link := some k }
  let t : State := { s with
    topology := { s.topology with
      ports := (s.topology.ports.modify j joined).modify m joined, links := s.topology.links.set k l }
    paths := { s.paths with strikes := s.paths.strikes ++ (if up then [] else [⟨.down, k⟩]) } }
  { state := t
    said := [.ref (.link k), .ref .status, .post (if up then .linkUp k .new l else .linkDown k .new l false false)] ++
      portSaid t j old oldLink why ++ portSaid t m (some q.pairing) q.link why }

/-- Port `j`, which is in no pair, is evaluated against its target (R81): without a target it is UNANSWERED; with one that does not
claim it CONTRADICTED; and with one that does the two are PAIRED on the lowest free link ID, or WAITING when none is free. Its items
are judged against `old` and `oldLink` (R88 steps 4 to 6). -/
def portEvaluated (s : State) (j : Nat) (old : Option Pairing) (oldLink : Option Nat) : Effect :=
  let alone := fun st : Pairing =>
    let t : State := { s with topology := { s.topology with ports := s.topology.ports.modify j (fun e => e.unpaired st) } }
    ({ state := t, said := portSaid t j old oldLink .reported } : Effect)
  match s.topology.ports.get? j with
  | none => .none s
  | some p =>
    match targetOf s p with
    | none => alone .unanswered
    | some (m, q) =>
      if claims s q p = false then alone .contradicted
      else
        match (List.range 1024).find? (fun k => (s.topology.links.get? k).isNone) with
        | some k => portsPaired s k j p m q old oldLink .reported
        | none =>
          let wait := fun e : PortEntry => e.unpaired .waiting
          let t : State := { s with topology := { s.topology with ports := (s.topology.ports.modify j wait).modify m wait } }
          { state := t, said := portSaid t j old oldLink .reported ++ portSaid t m (some q.pairing) q.link .reported }

/-- The ports of a list take a pairing state and no link, with their items in ascending port index; `oldLink` gives the link ID each
held before. -/
def portsLeft (s : State) (which : Nat × PortEntry → Bool) (st : Pairing) (oldLink : Nat × PortEntry → Option Nat)
    (why : TopoReason) : Effect :=
  let t : State := { s with topology := { s.topology with
    ports := s.topology.ports.map (fun x => if which x then (x.1, x.2.unpaired st) else x) } }
  { state := t
    said := (s.topology.ports.filter which).flatMap (fun x => portSaid t x.1 (some x.2.pairing) (oldLink x) why) }

/-- After port `j` has come or changed its claim, every claimant of it that it does not claim is CONTRADICTED; one that is so already
is left untouched (R82, R87 step 5). -/
def claimantsContradicted (s : State) (j : Nat) : Effect :=
  match s.topology.ports.get? j with
  | none => .none s
  | some p =>
    portsLeft s (fun x => x.1 ≠ j && claims s x.2 p && !claims s p x.2 && x.2.pairing ≠ .contradicted) .contradicted
      (fun x => x.2.link) .reported

/-- Port `j` is removed (R90): its link is retired; its entry is freed and its node's port count falls by one, with its reference, its
node's, a status line reference and PORT_STATE with new state ABSENT; and every claimant of it that is not UNANSWERED becomes so, the
former partner from the link ID it held (R82). -/
def portRemoved (s : State) (why : TopoReason) (j : Nat) : Effect :=
  match s.topology.ports.get? j with
  | none => .none s
  | some e =>
    let id := ((s.topology.nodes.get? e.node).map (·.netId)).getD 0
    let retire := match e.link with
      | none => Effect.none s
      | some k => linkRetired s k why
    let partner := e.link.bind (otherEnd s j)
    (retire.andThen (fun u =>
      { state := { u with topology := { u.topology with
          nodes := u.topology.nodes.modify e.node (fun x => { x with portCount := x.portCount - 1 })
          ports := u.topology.ports.erase j } }
        said := [.ref (.port j), .ref (.node e.node), .ref .status,
          .post (.portState j id e.number e.reported.farId e.reported.farPort (some e.pairing) none e.link none why)] })).andThen
    (fun u => portsLeft u
      (fun x => x.2.reported.farId == id && x.2.reported.farPort == e.number && x.2.pairing ≠ .unanswered) .unanswered
      (fun x => if partner = some x.1 then e.link else x.2.link) why)

/-- The ports of node `i`, in ascending port index. -/
def portsOf (s : State) (i : Nat) : List Nat := (s.topology.ports.filter (fun x => x.2.node == i)).map (·.1)

/-- Node `i` is removed (R91): each of its ports is, in ascending index and each to its end; then its entry is freed, with its
reference, a status line reference and NODE_REMOVED with the number of ports freed. -/
def nodeRemoved (s : State) (why : TopoReason) (i : Nat) : Effect :=
  (Effect.each s (fun u j => portRemoved u why j) (portsOf s i)).andThen (fun u =>
    { state := { u with topology := { u.topology with nodes := u.topology.nodes.erase i } }
      said := [.ref (.node i), .ref .status,
        .post (.nodeRemoved i (((s.topology.nodes.get? i).map (·.netId)).getD 0) why (portsOf s i).length)] })

/-- The attributes of link `k` are derived again (R102): a difference is stored, and reported with LINK_CHANGED. -/
def linkRederived (s : State) (k : Nat) : Effect :=
  match s.topology.links.get? k with
  | none => .none s
  | some l =>
    match l.endA.port.bind s.topology.ports.get?, l.endB.port.bind s.topology.ports.get? with
    | some p, some q =>
      if deriveAttrs s p q = l.attrs then .none s
      else
        { state := { s with topology := { s.topology with
            links := s.topology.links.set k { l with attrs := deriveAttrs s p q, changed := s.arbiter.grantTime } } }
          said := [.ref (.link k), .post (.linkChanged k l.attrs (deriveAttrs s p q))] }
    | _, _ => .none s

/-- The state of link `k` is derived again (R101): UP falls to DOWN when a port is not up, with LINK_DOWN naming the ends that are
down, and a DOWN event; DOWN rises to UP when both are up, with LINK_UP and an UP event. -/
def linkStateRederived (s : State) (k : Nat) : Effect :=
  match s.topology.links.get? k with
  | none => .none s
  | some l =>
    match l.endA.port.bind s.topology.ports.get?, l.endB.port.bind s.topology.ports.get? with
    | some p, some q =>
      let turned := fun (st : LinkState) (kind : StrikeKind) (n : LinkEntry → Notice) =>
        let now : LinkEntry := { l with state := st, changed := s.arbiter.grantTime }
        ({ state := { s with
             topology := { s.topology with links := s.topology.links.set k now }
             paths := { s.paths with strikes := s.paths.strikes ++ [⟨kind, k⟩] } }
           said := [.ref (.link k), .post (n now)] } : Effect)
      if l.state = .up ∧ (p.reported.up = false ∨ q.reported.up = false) then
        turned .down .down (fun now => .linkDown k .portDown now (!p.reported.up) (!q.reported.up))
      else if l.state = .down ∧ p.reported.up = true ∧ q.reported.up = true then
        turned .up .up (fun now => .linkUp k .recovered now)
      else .none s
    | _, _ => .none s

/-- Port `j` leaves its pair before it is re-pointed (R87 steps 1 and 2): the link of a PAIRED port is retired and the partner is
CONTRADICTED; the partner of a WAITING port is CONTRADICTED. -/
def pairLeft (s : State) (j : Nat) (e : PortEntry) : Effect :=
  match e.pairing, e.link with
  | .paired, some k =>
    (linkRetired s k .claimChanged).andThen (fun u =>
      match otherEnd s j k with
      | none => .none u
      | some m => portLeft u m .contradicted (some k) .reported)
  | .waiting, _ =>
    match targetOf s e with
    | none => .none s
    | some (m, _) => portLeft s m .contradicted none .reported
  | .paired, none | .unanswered, _ | .contradicted, _ => .none s

/-- The ports of node `i` are brought into line with a profile, in ascending index (R77): each has its derived fields computed again,
with its reference when they differ, and the attributes of its link derived again. -/
def portsRederived (s : State) (p : Profile) (i : Nat) : Effect :=
  Effect.each s (fun u j =>
    match u.topology.ports.get? j with
    | none => .none u
    | some e =>
      ({ state := { u with topology := { u.topology with ports := u.topology.ports.set j (rederived p e) } }
         said := if rederived p e = e then [] else [.ref (.port j)] } : Effect).andThen (fun v =>
        match e.link with
        | none => .none v
        | some k => linkRederived v k)) (portsOf s i)

/-- The nodes of domain `d` are brought into line with its profile, in ascending index (R78): each has its penalty converted again, with
its reference and NODE_CHANGED naming PENALTY when it differs, and then its ports. -/
def domainReconverted (s : State) (d : Nat) : Effect :=
  Effect.each s (fun u i =>
    match u.topology.nodes.get? i with
    | none => .none u
    | some e =>
      let now := { e with penalty := convert (domainProfile s d) e.rawPenalty }
      ({ state := { u with topology := { u.topology with nodes := u.topology.nodes.set i now } }
         said := if now.penalty = e.penalty then [] else [.ref (.node i), .post (.nodeChanged i now false true false)] } :
        Effect).andThen (fun v => portsRederived v (domainProfile s d) i))
    ((s.topology.nodes.filter (fun x => x.2.domain == d)).map (·.1))

end Sys2Proof.Machine
end

