-- ==== Sys2Proof/Safety/Routes.lean ====
section
/-!
DEFINITION. What the path engine's answers are held to, for the statements: the links and routes a search may use, the labels it rejects,
the route an ordering and a policy choose among the searches of the start slots, and the outcome for one class.
-/

namespace Sys2Proof.Machine

/-! ### The routes of a search (R120 to R122, R128) -/

/-- A node's domain carries the slots and the class (R121), and lets a route pass: it allows transit or is the domain of an end (R122). -/
structure DomainTakes (s : State) (q : Query) (range : SlotSet) (n : Nat) : Prop where
  slots : slotsIn range (domainProfile s (nodeDomain s n)).slots = true
  cls : domainHasClass s (nodeDomain s n) q.cls = true
  transit : (domainProfile s (nodeDomain s n)).transit = true ∨ nodeDomain s n = nodeDomain s q.src ∨
    nodeDomain s n = nodeDomain s q.dst

/-- The slots that count as reserved on a link (R121): its reservation set, without the own route's range on the own route's links, and
with the primary's range on the primary's links in a backup search. -/
def reservedFor (s : State) (q : Query) (k : Nat) : SlotSet :=
  let kept := match q.inputs.own with
    | some r => if k ∈ r.links then reservedOn s k &&& ~~~r.range else reservedOn s k
    | none => reservedOn s k
  match q.taken with
  | some r => if k ∈ r.links then kept ||| r.range else kept
  | none => kept

/-- Link `k` passes every test for the query's class and a start slot (R120 to R122). -/
def Usable (s : State) (q : Query) (start k : Nat) : Prop :=
  ∃ l a b, s.topology.links.get? k = some l ∧ linkNodes s l = some (a, b) ∧ l.state = .up ∧ l.attrs.nu < 65535 ∧
    k ∉ q.noLinks ∧ a ∉ q.noNodes ∧ b ∉ q.noNodes ∧ slotsIn (slotRange start q.width) q.inputs.mask = true ∧
    slotRange start q.width &&& l.attrs.foreign = 0 ∧ slotRange start q.width &&& reservedFor s q k = 0 ∧
    DomainTakes s q (slotRange start q.width) a ∧ DomainTakes s q (slotRange start q.width) b

/-- A route from the source to the destination over links usable on a start slot and, between its ends, through transit-capable nodes,
no node twice (R128). -/
structure IsRoute (s : State) (q : Query) (start : Nat) (links nodes : List Nat) : Prop where
  first : nodes.head? = some q.src
  last : nodes.getLast? = some q.dst
  once : nodes.Nodup
  joined : joinsInOrder s links nodes
  usable : ∀ k ∈ links, Usable s q start k
  transit : ∀ n ∈ nodes, n ≠ q.src → n ≠ q.dst → (s.topology.nodes.get? n).map (·.transit) = some true

/-- The cost of a list of links (R54). -/
def costOfLinks (s : State) (links : List Nat) : Nat :=
  (links.map (fun k => ((s.topology.links.get? k).map (·.attrs.cost)).getD 0)).sum

/-- Whether, in the extractions that begin with `labels`, a label is formed for a node that is not final that `tooMuch` rejects (R124,
R125). -/
def formsLabel (s : State) (q : Query) (byNoise : Bool) (es : List Edge) (tooMuch : Label → Bool) : Nat → Table Label → Bool
  | 0, _ => false
  | fuel + 1, labels =>
    match nextExtracted byNoise labels with
    | none => false
    | some (u, lu) =>
      let now := labels.set u { lu with final := true }
      if u = q.dst then false
      else if mayExtend s q u then
        es.any (fun e => (e.a == u || e.b == u) && !((now.get? (e.other u)).map (·.final)).getD false && tooMuch (offered s q u lu e)) ||
          formsLabel s q byNoise es tooMuch fuel (es.foldl (relax s q byNoise es u lu) now)
      else formsLabel s q byNoise es tooMuch fuel now

/-- A search rejects a label for its budget or its hops (R125, R128). -/
def rejectsLabel (s : State) (q : Query) (start : Nat) (byNoise : Bool) : Bool :=
  formsLabel s q byNoise (eligibleEdges s q start) (fun l => decide (q.budget < l.noise) || decide (q.inputs.hops < l.hops)) 257
    [(q.src, Label.origin)]

/-- A search rejects a label for its hops (R125, R128). -/
def rejectsHops (s : State) (q : Query) (start : Nat) (byNoise : Bool) : Bool :=
  formsLabel s q byNoise (eligibleEdges s q start) (fun l => decide (q.inputs.hops < l.hops)) 257 [(q.src, Label.origin)]

/-! ### Orderings, policies and classes (R129 to R131, R134) -/

/-- The route of one search, by cost or by noise, made by an engine with empty label places (R116). -/
def routeBy (s : State) (q : Query) (byNoise : Bool) (start : Nat) : Option Route := (search s q start byNoise Engine.idle).2

/-- The route of one start slot (R129): under COST_THEN_NOISE the NOISE search runs only where the COST search found none. -/
def routeAt (s : State) (q : Query) (start : Nat) : Option Route :=
  match q.inputs.order with
  | .cost => routeBy s q false start
  | .noise => routeBy s q true start
  | .costThenNoise => (routeBy s q false start).or (routeBy s q true start)

/-- A start slot is allowed by the mask (R123). -/
def StartAllowed (q : Query) (x : Nat) : Prop :=
  x % q.width = 0 ∧ x + q.width ≤ 80 ∧ slotsIn (slotRange x q.width) q.inputs.mask = true

/-- The route the policy chooses (R130, R131): the one of the lowest or the highest allowed start slot that gives any, or the least of
all by cost, noise, hops and start slot, noise before cost under the ordering NOISE. -/
def ChosenRoute (s : State) (q : Query) (r : Route) : Prop :=
  ∃ x < 80, StartAllowed q x ∧ routeAt s q x = some r ∧
    ∀ y < 80, StartAllowed q y → y ≠ x → ∀ other, routeAt s q y = some other →
      match q.inputs.policy with
      | .firstFit => x < y
      | .lastFit => y < x
      | .lowestCost =>
        lexLess (if q.inputs.order = .noise then [r.noise, r.cost, r.hops, x] else [r.cost, r.noise, r.hops, x])
          (if q.inputs.order = .noise then [other.noise, other.cost, other.hops, y] else [other.cost, other.noise, other.hops, y]) =
          true

/-- No allowed start slot gives a route (R130, R131). -/
def NoRoute (s : State) (q : Query) : Prop := ∀ x < 80, StartAllowed q x → routeAt s q x = none

/-- A query made diverse from a reference route (R133): its links, the links that share an SRLG with them, and, when the computation is
node-diverse, its transit nodes are excluded besides; nothing else of the query changes. -/
def IsDiverseQuery (s : State) (q : Query) (reference : Option Route) (d : Query) : Prop :=
  d = { q with noLinks := d.noLinks, noNodes := d.noNodes } ∧
    (∀ k, k ∈ d.noLinks ↔ k ∈ q.noLinks ∨ ∃ r, reference = some r ∧
      (k ∈ r.links ∨ ∃ l, (k, l) ∈ s.topology.links ∧ ∃ g ∈ l.attrs.srlgs, g ∈ routeSrlgs s r)) ∧
    ∀ n, n ∈ d.noNodes ↔ n ∈ q.noNodes ∨ ∃ r, reference = some r ∧ q.inputs.nodeDiverse = true ∧ n ∈ routeNodes s r ∧
      n ≠ q.src ∧ n ≠ q.dst

/-- The query of a computation for class `k` between two nodes (R117, R118): the class's width and budget, the excluded links, and the
excluded nodes that are in use. -/
def IsClassQuery (s : State) (i : Inputs) (src dst k : Nat) (q : Query) : Prop :=
  q = { inputs := i, src, dst, cls := k, width := (classEntry s k).width, budget := (classEntry s k).budget, noLinks := i.exclLinks,
        noNodes := q.noNodes, taken := none } ∧
    ∀ n, n ∈ q.noNodes ↔ ∃ id ∈ i.exclNodes, id ≠ 0 ∧ (findNode s id).map (·.1) = some n

/-- A computation that hands on nothing but its outcome (R137). -/
def handsOn (o : ReqOutcome) (src dst : Nat) : Computed :=
  { outcome := o, cls := none, primary := none, backup := none, backupOutcome := if o = .noBackup then .noBackup else .none, src, dst }

end Sys2Proof.Machine
end

