-- ==== Sys2Proof/Certificates/Slice0/Obligations.lean ====
section
/-!
DEFINITION. The statements for the provers: what a step does, what reset leaves, the laws every step keeps, and for every command
a next state it answers with.
-/

open Sys2Proof Sys2Proof.Machine

/-! ### The machine -/

/-- A step runs the command at the front of the queue on the state with the queue's rest. -/
def Obligations.StepRunsFrontCommand : Prop :=
  ∀ (s : State) (c : Instr) (rest : List Instr), s.pending = c :: rest → step s = exec c { s with pending := rest }

/-- On an empty queue the time base counts one microsecond, and only while the pin is released (R38; log 3). -/
def Obligations.TickCountsMicroseconds : Prop :=
  ∀ s : State, s.pending = [] →
    (s.inReset = true → step s = .next s) ∧
    (s.inReset = false → step s = .next { s with control := { s.control with time := s.control.time + 1 } })

/-- A transaction whose address is no multiple of 64 does not exist on the ports: the model stops (01, section 1.1; log 8). -/
def Obligations.UnalignedTransactionStops : Prop :=
  ∀ (s : State) (w : LineWrite) (a : Addr) (tag : Nat),
    (w.addr.toNat % 64 ≠ 0 → exec (.writeAccepted (some w)) s = .fault .unalignedAddress) ∧
    (a.toNat % 64 ≠ 0 → exec (.readAccepted a tag) s = .fault .unalignedAddress)

/-- The values the spec gives for the reset pin (R5, R19, R20, R26, R41, R56, R74, R79, R98, R104, R110, R139, R143, R155, R173,
R174), and that the attention line is deasserted (R176). -/
def Obligations.ResetValues : Prop :=
  (State.reset.control.mode = .off ∧ State.reset.control.inProgress = none ∧
    State.reset.control.completed = { tag := 0, code := 0, outcome := .empty } ∧
    State.reset.control.refused = { tag := 0, code := 0, outcome := .empty } ∧ State.reset.control.holdTimeout = 2000 ∧
    State.reset.control.enables = { topology := true, intakeFault := true, path := true, request := true }) ∧
  (State.reset.writeBack = { queue := [], waiters := [] } ∧ State.reset.system.holds = [] ∧
    State.reset.decoder.windows = none ∧ State.reset.profiles.domains = [] ∧
    State.reset.profiles.classes.map (fun e => (e.width, e.budget)) = [(1, 6000), (1, 4000), (1, 2500), (2, 1500)]) ∧
  (State.reset.intake.queue = [] ∧ State.reset.intake.batch = .closed ∧ State.reset.topology.nodes = [] ∧
    State.reset.topology.ports = [] ∧ State.reset.topology.links = [] ∧ State.reset.arbiter.holder = none ∧
    State.reset.arbiter.waitTopology = false ∧ State.reset.arbiter.waitPath = false ∧ State.reset.arbiter.last = none) ∧
  (State.reset.paths.pendingSlots = [] ∧ State.reset.paths.queue = [] ∧ State.reset.paths.slot = none ∧
    State.reset.paths.runCount = 0 ∧ State.reset.paths.entries = [] ∧ State.reset.paths.generations = [] ∧
    State.reset.paths.reserved = [] ∧ State.reset.paths.view = [] ∧ State.reset.paths.strikes = [] ∧
    State.reset.paths.restoration = []) ∧
  (State.reset.engine.inputs = none ∧ State.reset.engine.labels = [] ∧ State.reset.notices.producer = 0 ∧
    State.reset.notices.consumer = 0 ∧ State.reset.notices.lost = false ∧ State.reset.notices.records = [] ∧
    State.reset.attention = false)

/-- The laws hold of the machine right after reset, and nothing is under way in it. -/
def Obligations.LawsHoldAtReset : Prop :=
  QueueLaw State.reset ∧ BoundLaw State.reset ∧ RestorationLaw State.reset ∧ TableLaw State.reset ∧
    quiescent State.reset = true

/-! ### Laws every step keeps -/

/-- At most 64 write-back items, and at most one reference item for each entry (R16, R17). -/
def Obligations.WriteBackQueueLawKept : Prop := Keeps QueueLaw

/-- The queues stay within their bounds (R10, R12, R57, R104, R140, R143). -/
def Obligations.BoundsKept : Prop := Keeps BoundLaw

/-- The restoration set holds exactly the paths in RESTORING (R159). -/
def Obligations.RestorationLawKept : Prop := Keeps RestorationLaw

/-- The tables keep their canonical form and their sizes (R74, R79, R155). -/
def Obligations.TablesKept : Prop := Keeps TableLaw

/-- Between two commands no operation can go on by itself: each has ended or waits for room, its turn or an event's leaving
(R18, R104, R175). -/
def Obligations.QuiescenceKept : Prop := Keeps (fun s => quiescent s = true)

/-! ### Rules over all commands -/

/-- Only the reset pin's two steps touch the time base: a command reads it and RESTART does not change it (R38). Only START, STOP,
the drain's end, RESTART and the reset pin change the mode (R29). -/
def Obligations.TimeAndModeChangeOnlyBy : Prop :=
  (∀ (c : Instr) (s t : State), exec c s = .next t → c ≠ .resetAsserted → (∀ straps, c ≠ .resetReleased straps) →
     t.control.time = s.control.time) ∧
  (∀ (c : Instr) (s t : State), exec c s = .next t → c ≠ .resetAsserted → c ≠ .start → c ≠ .stop → c ≠ .drainEnd →
     c ≠ .restart → t.control.mode = s.control.mode)

/-- Configuration is changed only by the command that sets it, and by the reset pin: the window descriptors, the class table, the
profiles, the hold timeout and the enables. RESTART keeps all of it (R5, R20, R26, R36, R41). -/
def Obligations.ConfigurationChangesOnlyBy : Prop :=
  ∀ (c : Instr) (s t : State), exec c s = .next t → c ≠ .resetAsserted → (∀ straps, c ≠ .resetReleased straps) →
    t.decoder.anchor = s.decoder.anchor ∧ (c ≠ .setWindows → t.decoder.windows = s.decoder.windows) ∧
    (c ≠ .loadClasses → t.profiles.classes = s.profiles.classes) ∧
    (c ≠ .profileInstallation → t.profiles.domains = s.profiles.domains) ∧
    (c ≠ .setTiming → t.control.holdTimeout = s.control.holdTimeout) ∧
    (c ≠ .setReporting → t.control.enables = s.control.enables)

/-- While the reset pin is asserted the part does nothing: only its release changes the state (R3, R19; log 7). -/
def Obligations.AssertedPinStopsThePart : Prop :=
  ∀ (c : Instr) (s : State), s.inReset = true → c.wellFormed = true → c ≠ .resetAsserted →
    (∀ straps, c ≠ .resetReleased straps) → exec c s = .next s

/-! ### The reset pin -/

/-- RESET_ASSERTED abandons everything in flight, brings every block to its value after the reset pin and deasserts the attention line
(R176); RESET_RELEASED sets the
anchor page at the strap value times 1 MiB, starts the time base at 0 and queues a status line reference, and nothing else changes
(R3, R5, R19, R37, R38). -/
def Obligations.ResetPinResults : Prop :=
  (∀ s : State, exec .resetAsserted s = .next { State.reset with pending := s.pending } ∧
     ({ State.reset with pending := s.pending } : State).attention = false) ∧
  (∀ (s : State) (straps : BitVec 8), s.inReset = true →
     exec (.resetReleased straps) s = .next { s with
       inReset := false
       decoder := { s.decoder with anchor := some (straps.toNat * 2 ^ 20 / 64) }
       control := { s.control with time := 0 }
       writeBack := { s.writeBack with queue := s.writeBack.queue ++ [.ref .status] } })

/-! ### Ports -/

/-- The classes of lines: of the anchor page in every mode, and of the four windows while set, where they share no line with the
anchor page and one another (R5, R6). -/
def Obligations.LineClasses : Prop :=
  ∀ (s : State) (a : Nat) (w : Windows), s.decoder.anchor = some a → s.decoder.windows = some w →
    allApart [(w.intakeBase, w.intakeLines), (w.requestBase, 3 * w.requestSlots), (w.exportBase, 3840),
      (w.noticeBase, w.noticeLines), (a, 64)] = true →
    (addressClass s a = .anchorCommand ∧ addressClass s (a + 1) = .anchorAnswer ∧ addressClass s (a + 2) = .anchorAnswer ∧
      addressClass s (a + 3) = .anchorAcknowledgement ∧ ∀ i, 4 ≤ i → i < 64 → addressClass s (a + i) = .ordinary) ∧
    (∀ o, o < w.intakeLines → addressClass s (w.intakeBase + o) = .intakeRecord o) ∧
    (∀ i, i < w.requestSlots → addressClass s (w.requestBase + 3 * i) = .requestLine i ∧
      addressClass s (w.requestBase + 3 * i + 1) = .resultLine i 1 ∧
      addressClass s (w.requestBase + 3 * i + 2) = .resultLine i 2) ∧
    (∀ o, o < 3840 → addressClass s (w.exportBase + o) = .exportLine) ∧
    (∀ o, o < w.noticeLines → addressClass s (w.noticeBase + o) = .noticeLine)

/-- The write at the head of the channel, presented with the command or waiting from before, is forwarded with no further effect,
whatever its byte enables, when its line is of no observed class (R1, R9); intake lines and request lines 0 are of no observed class
outside RUN (R6). That a write may be presented with the row is the model's form of it (log 34). -/
def Obligations.UnobservedWriteForwarded : Prop :=
  ∀ (s : State) (presented : Option LineWrite) (w : LineWrite) (rest : List LineWrite), AtHead s presented w rest →
    postPending s = false →
    ((∀ o, addressClass s (lineNumber w.addr) ≠ .intakeRecord o) ∧ (∀ i, addressClass s (lineNumber w.addr) ≠ .requestLine i) ∨
      s.control.mode ≠ .run) →
    addressClass s (lineNumber w.addr) ≠ .anchorCommand → addressClass s (lineNumber w.addr) ≠ .anchorAcknowledgement →
    exec (.writeAccepted presented) s = .next (forwarded s w rest)

/-- A full-line write of an observed class at the head of the channel is forwarded, and its data handed once to the block that owns the
class, while the queue concerned has room (R7); so is one that has been held back there, once its queue has room (R1, R11). A command
record of code 0 is ignored (R21); any other is left in `control.handed` for its own step, where R21 has it dealt with at once: that is
the model's choice (log 15). So is a RESTART record that meets another command in progress (R21, R35). -/
def Obligations.FullLineWriteHandedOver : Prop :=
  ∀ (s : State) (presented : Option LineWrite) (w : LineWrite) (rest : List LineWrite), AtHead s presented w rest →
    postPending s = false → w.enables = BitVec.allOnes 64 →
    (addressClass s (lineNumber w.addr) = .anchorAcknowledgement →
      exec (.writeAccepted presented) s = .next { forwarded s w rest with
        notices := { s.notices with handed := s.notices.handed ++ [w.data] } }) ∧
    (∀ o, addressClass s (lineNumber w.addr) = .intakeRecord o → s.control.mode = .run → intakeCount s ≠ 64 →
      exec (.writeAccepted presented) s = .next { forwarded s w rest with
        intake := { s.intake with handed := s.intake.handed ++ [{ record := w.data, offset := o }] } }) ∧
    (∀ i, addressClass s (lineNumber w.addr) = .requestLine i → s.control.mode = .run → requestCount s ≠ 16 →
      exec (.writeAccepted presented) s = .next { forwarded s w rest with
        paths := { s.paths with handed := s.paths.handed ++ [{ slot := i, record := w.data }] } }) ∧
    (addressClass s (lineNumber w.addr) = .anchorCommand → s.control.handed = [] → s.control.inProgress = none →
      (cmdCode w.data).toNat = 0 → exec (.writeAccepted presented) s = .next (forwarded s w rest)) ∧
    (addressClass s (lineNumber w.addr) = .anchorCommand → s.control.handed = [] →
      (s.control.inProgress = none ∧ (cmdCode w.data).toNat ≠ 0 ∨
        ∃ c, s.control.inProgress = some c ∧ (cmdCode w.data).toNat = 10 ∧ (cmdCode c.record).toNat ≠ 10) →
      exec (.writeAccepted presented) s = .next { forwarded s w rest with control := { s.control with handed := [w.data] } })

/-- A command record taken while another command is in progress: code 0 is ignored, and any code but RESTART is refused with BUSY,
the command in progress continuing undisturbed and the image being written (R21, R22). -/
def Obligations.CommandInProgressRefusesOthers : Prop :=
  ∀ (s : State) (presented : Option LineWrite) (w : LineWrite) (rest : List LineWrite) (c : Running), AtHead s presented w rest →
    postPending s = false → w.enables = BitVec.allOnes 64 →
    addressClass s (lineNumber w.addr) = .anchorCommand → s.control.handed = [] → s.control.inProgress = some c →
    s.writeBack.waiters = [] → s.writeBack.queue.length < 64 →
    ((cmdCode w.data).toNat = 0 → exec (.writeAccepted presented) s = .next (forwarded s w rest)) ∧
    ((cmdCode w.data).toNat ≠ 0 ∧ ((cmdCode w.data).toNat ≠ 10 ∨ (cmdCode c.record).toNat = 10) →
      let s1 : State := { forwarded s w rest with control := { s.control with
        refused := { tag := cmdTag w.data, code := cmdCode w.data, outcome := .busy } } }
      exec (.writeAccepted presented) s = .next (withContent s1 (anchorBase s + 1) (responseLine s1) none))

/-- A full-line intake or request write is held back at the head while its queue is full, and no later write is accepted (R10). While
the PARTIAL_WRITE post of an earlier write has not ended, the head waits whatever it is (R1, R8). A write presented meanwhile joins the
channel behind the others. With an empty channel and no write presented nothing happens: that the row may then be sent at all is the
model's choice (log 7), and that a write may be presented with the row its form of it (log 34). -/
def Obligations.FullQueueHoldsTheWrite : Prop :=
  (∀ (s : State) (presented : Option LineWrite) (w : LineWrite) (rest : List LineWrite), AtHead s presented w rest →
    (w.enables = BitVec.allOnes 64 → s.control.mode = .run →
      (∃ o, addressClass s (lineNumber w.addr) = .intakeRecord o ∧ intakeCount s = 64) ∨
        (∃ i, addressClass s (lineNumber w.addr) = .requestLine i ∧ requestCount s = 16) →
      exec (.writeAccepted presented) s = .next (withChannel s (w :: rest))) ∧
    (postPending s = true → exec (.writeAccepted presented) s = .next (withChannel s (w :: rest)))) ∧
  (∀ s : State, s.inReset = false → s.system.channel = [] → exec (.writeAccepted none) s = .next s)

/-- A partial write to an observed line, at the head of the channel, is forwarded, not taken, and posts PARTIAL_WRITE: written into the
ring, with which the attention line is asserted (R176), when its class is enabled and the ring has room and no path notice is
deferred; discarded, NOTICES_LOST being set, when the class
is enabled and one of these fails; and not written when the class is disabled (R8, R175). -/
def Obligations.PartialWritePosts : Prop :=
  ∀ (s : State) (presented : Option LineWrite) (w : LineWrite) (rest : List LineWrite) (o : Observed) (d : Windows), Calm s 2 →
    AtHead s presented w rest → w.enables ≠ BitVec.allOnes 64 → (writeClass s (lineNumber w.addr)).observed = some o →
    let t := forwarded s w rest
    (s.control.enables.intakeFault = false → exec (.writeAccepted presented) s = .next t) ∧
    (s.control.enables.intakeFault = true → s.decoder.windows = some d → ringUsed s < d.noticeLines →
      (∀ x ∈ s.notices.records, x.2.deferred = false) →
      let u := withRef
        { withContent t (d.noticeBase + s.notices.producer.toNat % d.noticeLines)
            (noticeLine (.partialWrite w.addr o (enablesSet w.enables)) s.notices.producer s.control.time) none with
          notices := { s.notices with producer := s.notices.producer + 1 } } .status
      exec (.writeAccepted presented) s = .next u ∧ (d.noticeLines ≤ 4096 → u.attention = true)) ∧
    (s.control.enables.intakeFault = true →
      (s.decoder.windows = none ∨ (s.decoder.windows = some d ∧ d.noticeLines ≤ ringUsed s) ∨
        ∃ x ∈ s.notices.records, x.2.deferred = true) →
      exec (.writeAccepted presented) s = .next (if s.notices.lost then t
        else withRef { t with notices := { s.notices with lost := true } } .status))

/-- A read of a result line is held exactly when its slot is pending, the part's write of the line is still to come, the hold
timeout is not 0 and an entry is free; any other read is forwarded at once (R6, R12). That the write of line 2 counts as issued once the
request's own line 2 has been, also while the ABORTED line 2 of a RESTART is still queued, is the model's choice (log 52). -/
def Obligations.ReadHeldOrForwarded : Prop :=
  ∀ (s : State) (a : Addr) (tag : Nat), s.inReset = false → a.toNat % 64 = 0 →
    (∀ i l p, addressClass s (lineNumber a) = .resultLine i l → s.paths.pendingSlots.get? i = some p →
      (l = 1 ∨ (l = 2 ∧ p.line2Issued = false)) → s.control.holdTimeout ≠ 0 → s.system.holds.length < 8 →
      exec (.readAccepted a tag) s = .next { s with system := { s.system with
        holds := s.system.holds ++ [Hold.mk tag a i l (s.control.time + s.control.holdTimeout.setWidth 64)] } }) ∧
    ((∀ i l p, addressClass s (lineNumber a) = .resultLine i l → s.paths.pendingSlots.get? i = some p →
        (l ≠ 1 ∧ (l = 2 → p.line2Issued = true)) ∨ s.control.holdTimeout = 0 ∨ 8 ≤ s.system.holds.length) →
      exec (.readAccepted a tag) s = .next { s with memory := { s.memory with
        sequence := s.memory.sequence ++ [.read a tag], reads := s.memory.reads ++ [(tag, a)] } })

/-- READ_RESPONSE returns a forwarded read's answer under its tag, unchanged, and the read is no longer in flight (R3). HOLD_DEADLINE
releases a held read whose deadline the time base has reached: it enters the memory sequence and its entry is free; before the
deadline it stays held (R14). -/
def Obligations.ReadsAnsweredAndReleased : Prop :=
  (∀ (s : State) (tag : Nat) (answer : ReadData) (before after : List (Nat × Addr)) (a : Addr), s.inReset = false →
     s.memory.reads = before ++ (tag, a) :: after → (∀ r ∈ before, r.1 ≠ tag) →
     exec (.readResponse tag answer) s = .next { s with
       memory := { s.memory with reads := before ++ after }
       system := { s.system with replies := s.system.replies ++ [(tag, answer)] } }) ∧
  (∀ (s : State) (before after : List Hold) (h : Hold), s.inReset = false → s.system.holds = before ++ h :: after →
     (h.deadline.toNat ≤ s.control.time.toNat →
       exec (.holdDeadline before.length) s = .next { s with
         system := { s.system with holds := before ++ after }
         memory := { s.memory with
           sequence := s.memory.sequence ++ [.read h.addr h.tag], reads := s.memory.reads ++ [(h.tag, h.addr)] } }) ∧
     (s.control.time.toNat < h.deadline.toNat → exec (.holdDeadline before.length) s = .next s))

/-! ### The write-back queue -/

/-- WRITE_BACK_ISSUE removes the oldest item and issues it: a content item with its data at its target, a reference item with the
data and target gathered at that moment (R16). -/
def Obligations.OldestItemIssued : Prop :=
  ∀ (s : State) (rest : List WbItem), s.inReset = false →
    (∀ target data, s.writeBack.queue = .content target data none :: rest →
      exec .writeBackIssue s = .next { s with
        writeBack := { s.writeBack with queue := rest }
        memory := { s.memory with sequence := s.memory.sequence ++ [.ownWrite (BitVec.ofNat 64 (64 * target)) data] } }) ∧
    (∀ r line data, s.writeBack.queue = .ref r :: rest →
      (line, data) = (match r with
        | .node i => (exportBase s + i, nodeLine s i)
        | .port j => (exportBase s + 256 + j, portLine s j)
        | .link k => (exportBase s + 2304 + k, linkLine s k)
        | .path p => (exportBase s + 3328 + p, pathLine s p)
        | .status => (anchorBase s + 2, statusLine s)) →
      exec .writeBackIssue s = .next { s with
        writeBack := { s.writeBack with queue := rest }
        memory := { s.memory with sequence := s.memory.sequence ++ [.ownWrite (BitVec.ofNat 64 (64 * line)) data] } })

/-- The issue of a result line releases every read held on that line, in acceptance order, right behind the write, and no other
(R13). The issue of line 1 ends the slot's pending state for its request, the issue of line 2 does not but is the end of its awaiting
(R12, R139). That the line is known by its slot index and line number is the model's choice (log 42), that a line of an earlier
request of the slot, known by its serial number, changes nothing in the pending set is too (log 6), that the reads enter the sequence
before any software write accepted after the release is too (log 51), and that the issue of a request's own line 2 counts although an
ABORTED line 2 is to follow is too (log 52). -/
def Obligations.ResultIssueReleasesHolds : Prop :=
  ∀ (s : State) (target : Nat) (data : Line) (m : ResultMark) (rest : List WbItem), s.inReset = false →
    s.writeBack.queue = .content target data (some m) :: rest →
    let onLine := fun h : Hold => h.slot == m.slot && h.line == m.line
    let issued := fun slots : Table PendingSlot => ({ s with
      writeBack := { s.writeBack with queue := rest }
      memory := { s.memory with
        sequence := s.memory.sequence ++ [.ownWrite (BitVec.ofNat 64 (64 * target)) data] ++
          (s.system.holds.filter onLine).map (fun h => .read h.addr h.tag)
        reads := s.memory.reads ++ (s.system.holds.filter onLine).map (fun h => (h.tag, h.addr)) }
      system := { s.system with holds := s.system.holds.filter (fun h => !onLine h) }
      paths := { s.paths with pendingSlots := slots } } : State)
    (∀ p, s.paths.pendingSlots.get? m.slot = some p → p.serial = m.serial →
      exec .writeBackIssue s = .next (issued
        (if m.line = 1 then s.paths.pendingSlots.erase m.slot
         else s.paths.pendingSlots.set m.slot { p with line2Issued := true }))) ∧
    ((∀ p, s.paths.pendingSlots.get? m.slot = some p → p.serial ≠ m.serial) →
      exec .writeBackIssue s = .next (issued s.paths.pendingSlots))

/-- WRITE_BACK_ROOM gives the freed place to the operation that has waited longest: its item joins the queue at the tail and it goes
on; while the queue is full nothing changes (R18). RESPONSE_WRITE queues the response write that has waited longest, with the image
as it stands at that moment (R22). The status line reference of the notice unit, when it is first in line, is queued by
WRITE_BACK_ROOM, unless one is queued already (R17, R18, R175; log 12). That an operation whose reference has been queued by another
block meanwhile stays in line until then, and adds nothing, is the model's choice (log 47). STRIKE_QUEUE_ROOM lets the suspended
topology operation send its event and go on, once the strike queue holds fewer than 32 events (R104). -/
def Obligations.WaitersResume : Prop :=
  (∀ (s : State) (t : Thread) (r : Ref) (others : List Waiter), s.inReset = false →
     s.writeBack.waiters = .thread t :: others → (∀ u, .thread u ∉ others) → s.notices.turn = [] →
     s.topology.strikeWait = false → s.threads = Threads.none.put t [.ref r] →
     (64 ≤ s.writeBack.queue.length → exec .writeBackRoom s = .next s) ∧
     (s.writeBack.queue.length < 64 →
       exec .writeBackRoom s = .next (withRef { s with
         threads := Threads.none, writeBack := { s.writeBack with waiters := others } } r))) ∧
  (∀ (s : State) (others : List Waiter), s.inReset = false → s.writeBack.waiters = .noticeStatus :: others →
     (64 ≤ s.writeBack.queue.length → exec .writeBackRoom s = .next s) ∧
     (s.writeBack.queue.length < 64 →
       exec .writeBackRoom s =
         .next (withRef { s with writeBack := { s.writeBack with waiters := others } } .status))) ∧
  (∀ (s : State) (others : List Waiter), s.inReset = false → s.writeBack.waiters = .response :: others →
     (64 ≤ s.writeBack.queue.length → exec .responseWrite s = .next s) ∧
     (s.writeBack.queue.length < 64 →
       exec .responseWrite s = .next { s with writeBack :=
         { queue := s.writeBack.queue ++ [.content (anchorBase s + 1) (responseLine s) none], waiters := others } })) ∧
  (∀ (s : State) (e : Strike), s.inReset = false → s.topology.strikeWait = true → s.writeBack.waiters = [] →
     s.notices.turn = [] → s.threads = Threads.none.put .topology [.event e] →
     (32 ≤ s.paths.strikes.length → exec .strikeQueueRoom s = .next s) ∧
     (s.paths.strikes.length < 32 →
       exec .strikeQueueRoom s = .next { s with
         threads := Threads.none, topology := { s.topology with strikeWait := false }
         paths := { s.paths with strikes := s.paths.strikes ++ [e] } }))

/-! ### The control unit -/

/-- UNKNOWN_COMMAND answers a record of a code above 10 with UNKNOWN_COMMAND, and nothing else changes (R21). LOAD_CLASSES replaces
all four entries of the class table together (R26). SET_TIMING replaces the hold timeout in every mode; holds in use keep their
deadlines (R27). -/
def Obligations.ClassesTimingAndUnknownResults : Prop :=
  (∀ (s : State) (r : Line), Calm s 1 → Commanded s r (cmdCode r).toNat → (cmdCode r).toNat ≠ 0 → 10 < (cmdCode r).toNat →
     exec .unknownCommand s = .next (answered (dealtWith s) r .unknownCommand)) ∧
  (∀ (s : State) (r : Line), Calm s 1 → Commanded s r 3 → s.control.mode = .off → s.paths.entries = [] →
     (∀ e ∈ classArgs r, (e.width = 1 ∨ e.width = 2) ∧ 1 ≤ e.budget ∧ e.budget ≤ 65534) →
     exec .loadClasses s = .next (answered { dealtWith s with profiles := { s.profiles with classes := classArgs r } } r .done)) ∧
  (∀ (s : State) (r : Line), Calm s 1 → Commanded s r 4 →
     exec .setTiming s = .next (answered { s with control := { s.control with handed := [], holdTimeout := timingArg r } }
       r .done))

/-- A command that fails a check has no effect but its outcome: its mode conditions first (WRONG_MODE), then its arguments
(BAD_ARGUMENT), then the contents of the tables (NOT_EMPTY) (R21, R23, R24, R26, R30, R31, R33, R34). The second part writes out the
argument checks of SET_WINDOWS: each window is given as its base byte address and its lines, three for a request slot (R5, R23). -/
def Obligations.FailedCheckHasNoEffect : Prop :=
  (∀ (s : State) (r : Line), Calm s 1 →
    (Commanded s r 1 → ∀ o, o = (if s.control.mode ≠ .off then CmdOutcome.wrongMode
        else if windowArgsOk s (windowArgs r) = false then .badArgument
        else if s.paths.pendingSlots ≠ [] then .notEmpty else .done) → o ≠ .done →
      exec .setWindows s = .next (answered (dealtWith s) r o)) ∧
    (Commanded s r 2 → ∀ o, o = (if 16 ≤ profileDomainArg r ∨ (profileAddrArg r).toNat % 64 ≠ 0 then CmdOutcome.badArgument
        else if s.control.mode = .run ∧ ∃ x ∈ s.topology.nodes, x.2.domain = profileDomainArg r then .notEmpty
        else .done) → o ≠ .done →
      exec .loadProfile s = .next (answered (dealtWith s) r o)) ∧
    (Commanded s r 3 → ∀ o, o = (if s.control.mode ≠ .off then CmdOutcome.wrongMode
        else if ∃ e ∈ classArgs r, (e.width ≠ 1 ∧ e.width ≠ 2) ∨ e.budget < 1 ∨ 65534 < e.budget then .badArgument
        else if s.paths.entries ≠ [] then .notEmpty else .done) → o ≠ .done →
      exec .loadClasses s = .next (answered (dealtWith s) r o)) ∧
    (Commanded s r 6 → s.control.mode ≠ .off ∨ s.decoder.windows = none →
      exec .start s = .next (answered (dealtWith s) r .wrongMode)) ∧
    (Commanded s r 7 → s.control.mode ≠ .run → exec .stop s = .next (answered (dealtWith s) r .wrongMode)) ∧
    (Commanded s r 8 → ∀ o, o = (if s.control.mode ≠ .off then CmdOutcome.wrongMode
        else if s.paths.entries ≠ [] then .notEmpty else .done) → o ≠ .done →
      exec .clearTopology s = .next (answered (dealtWith s) r o)) ∧
    (Commanded s r 9 → s.control.mode ≠ .off → exec .clearPaths s = .next (answered (dealtWith s) r .wrongMode))) ∧
  (∀ (s : State) (r : Line) (a : Nat), s.decoder.anchor = some a →
    let intakeLines := fieldNat r 12 2
    let requestSlots := fieldNat r 22 2
    let noticeLines := fieldNat r 40 2
    let windows := [(fieldNat r 4 8, intakeLines), (fieldNat r 14 8, 3 * requestSlots), (fieldNat r 24 8, 3840),
      (fieldNat r 32 8, noticeLines)]
    (windowArgsOk s (windowArgs r) = true ↔
      (∀ w ∈ windows, w.1 % 64 = 0 ∧ w.1 + 64 * w.2 ≤ 2 ^ 64) ∧ (1 ≤ intakeLines ∧ intakeLines ≤ 4096) ∧
      (1 ≤ requestSlots ∧ requestSlots ≤ 256) ∧ (16 ≤ noticeLines ∧ noticeLines ≤ 4096 ∧ ∃ n, noticeLines = 2 ^ n) ∧
      (windows ++ [(64 * a, 64)]).Pairwise (fun (x y : Nat × Nat) =>
        ∀ b, ¬ (x.1 ≤ b ∧ b < x.1 + 64 * x.2 ∧ y.1 ≤ b ∧ b < y.1 + 64 * y.2))))

/-- SET_WINDOWS sets all four descriptors together, zeroes both notice counts and keeps NOTICES_LOST, queues a reference for every
entry in use, writes the deferred path notices in ascending path ID while the empty ring has room, queues a status line reference,
and answers DONE (R23, R181). The attention line is deasserted, and asserted again when a deferred notice is written (R176). The argument
checks are written out in FailedCheckHasNoEffect. The order of the references is the model's choice (log 44). -/
def Obligations.SetWindowsResult : Prop :=
  ∀ (s : State) (r : Line) (w : Windows), Calm s ((usedRefs s).length + 2 * (deferredPaths s).length + 2) → Commanded s r 1 →
    s.control.mode = .off → windowArgsOk s (windowArgs r) = true → s.paths.pendingSlots = [] →
    w = { intakeBase := fieldNat r 4 8 / 64, intakeLines := fieldNat r 12 2, requestBase := fieldNat r 14 8 / 64
          requestSlots := fieldNat r 22 2, exportBase := fieldNat r 24 8 / 64, noticeBase := fieldNat r 32 8 / 64
          noticeLines := fieldNat r 40 2 } →
    s.notices.records.ascending → (∀ x ∈ s.notices.records, x.2.deferred = true → 1 ≤ x.2.count) →
    let t := answered (withRef (drainedTo w w.noticeLines (withRefs { dealtWith s with
      decoder := { s.decoder with windows := some w }
      notices := { s.notices with producer := 0, consumer := 0 } } (usedRefs s))) .status) r .done
    exec .setWindows s = .next t ∧ (t.attention = true ↔ deferredPaths s ≠ [])

/-- LOAD_PROFILE that passes its checks issues one read of the record's line and stays in progress; the profile is not changed
(R4, R24). -/
def Obligations.LoadProfileStartsItsRead : Prop :=
  ∀ (s : State) (r : Line), s.inReset = false → Commanded s r 2 → profileDomainArg r < 16 →
    (profileAddrArg r).toNat % 64 = 0 →
    (s.control.mode = .run → ∀ x ∈ s.topology.nodes, x.2.domain ≠ profileDomainArg r) →
    exec .loadProfile s = .next { s with
      control := { s.control with
        handed := [], inProgress := some { record := r, phase := .readInFlight (profileDomainArg r) } }
      memory := { s.memory with
        sequence := s.memory.sequence ++ [.ownRead (profileAddrArg r)], ownRead := some (profileAddrArg r) } }

/-- PROFILE_READ_RESPONSE: an error gives MEMORY_FAULT, a record that fails the field checks gives BAD_ARGUMENT, both with the
profile unchanged; a valid record awaits its installation; and the data of a read that RESTART abandoned is discarded, and RESTART
answers DONE (R4, R25, R35, R42). -/
def Obligations.ProfileReadAnswered : Prop :=
  ∀ (s : State) (r : Line) (a : Addr) (d : Nat), Calm s 1 → s.memory.ownRead = some a →
    (s.control.inProgress = some { record := r, phase := .readInFlight d } →
      exec (.profileReadResponse .error) s =
        .next (answered { s with memory := { s.memory with ownRead := none } } r .memoryFault) ∧
      ∀ l, (¬ ((fieldNat l 1 1 = 1 ∨ fieldNat l 1 1 = 2 ∨ fieldNat l 1 1 = 4) ∧ fieldNat l 0 1 ≤ 79 ∧ 1 ≤ fieldNat l 2 1 ∧
            fieldNat l 2 1 ≤ 128 ∧ fieldNat l 4 2 ≠ 0 ∧ fieldNat l 3 1 ≤ 31 ∧ fieldNat l 6 2 ≠ 65535) →
          exec (.profileReadResponse (.line l)) s =
            .next (answered { s with memory := { s.memory with ownRead := none } } r .badArgument)) ∧
        (profileOk l = true →
          exec (.profileReadResponse (.line l)) s = .next { s with
            memory := { s.memory with ownRead := none }
            control := { s.control with
              inProgress := some { record := r, phase := .awaitInstall d (profileOf l) } } })) ∧
    (s.control.inProgress = some { record := r, phase := .awaitRead } → ∀ answer,
      exec (.profileReadResponse answer) s = .next (answered { s with memory := { s.memory with ownRead := none } } r .done))

/-- PROFILE_INSTALLATION waits while the topology unit holds a grant; then the profile replaces the domain's and DONE is answered,
unless an entry of the domain exists: in RUN the outcome is NOT_EMPTY and nothing is installed, and in OFF the topology unit then
requests the database for the reconversion (R25, R41). -/
def Obligations.ProfileInstalled : Prop :=
  ∀ (s : State) (r : Line) (d : Nat) (p : Profile), Calm s 1 →
    s.control.inProgress = some { record := r, phase := .awaitInstall d p } →
    (s.arbiter.holder = some .topology → exec .profileInstallation s = .next s) ∧
    (s.arbiter.holder ≠ some .topology → (∀ x ∈ s.topology.nodes, x.2.domain ≠ d) →
      exec .profileInstallation s = .next (answered { s with
        profiles := { s.profiles with domains := s.profiles.domains.set d p } } r .done)) ∧
    (s.arbiter.holder ≠ some .topology → s.control.mode ≠ .off → (∃ x ∈ s.topology.nodes, x.2.domain = d) →
      exec .profileInstallation s = .next (answered s r .notEmpty)) ∧
    (ArbiterFree s → s.topology.work = none → s.control.mode = .off → (cmdCode r).toNat = 2 →
      (∃ x ∈ s.topology.nodes, x.2.domain = d) →
      exec .profileInstallation s = .next { s with
        profiles := { s.profiles with domains := s.profiles.domains.set d p }
        control := { s.control with inProgress := some { record := r, phase := .reconversion d } }
        topology := { s.topology with work := some .command }
        arbiter := heldBy s .topology })

/-- PROFILE_RECONVERSION brings the nodes of the domain, in ascending index, into line with the new profile: each node's stored raw
penalty is converted again, and then each of its ports, in ascending index: NU, foreign set and CLIPPED again, and the attributes of a
PAIRED port's link derived again. It queues a reference for each entry whose values change, and posts NODE_CHANGED naming PENALTY for
a node and LINK_CHANGED for a link that does; it answers DONE and releases the grant (R25, R51, R77, R78, R96, R102). -/
def Obligations.ReconversionOfANode : Prop :=
  ∀ (s : State) (r : Line) (d : Nat) (x : Effect), TableLaw s → TopologyGranted s .command →
    s.control.inProgress = some { record := r, phase := .reconversion d } → x = domainReconverted s d →
    Calm s (places s x.said + 1) →
    exec .profileReconversion s = .next (topologyIdle (answered (withSaid x.state x.said) r .done))

/-- SET_REPORTING replaces the four enables and clears NOTICES_LOST in every mode, and queues a status line reference if it was set;
with the PATH class disabled every path notice record becomes IDLE, its due mark cleared and its count 0 (R28, R182). That the record
keeps its last notified generation and its reason, which nothing reads then, is the model's reading (log 40). -/
def Obligations.SetReportingResult : Prop :=
  ∀ (s : State) (r : Line), Calm s 2 → Commanded s r 5 →
    ∃ records : Table NoticeRecord,
      (flagBit r 4 2 = true → records = s.notices.records) ∧
      (flagBit r 4 2 = false → s.notices.records.ascending → ∀ p, records.getD p NoticeRecord.idle =
        { noticeRecord s p with outstanding := false, due := false, count := 0 }) ∧
      exec .setReporting s = .next (answered (withRefs { s with
        control := { s.control with
          handed := []
          enables := { topology := flagBit r 4 0, intakeFault := flagBit r 4 1, path := flagBit r 4 2,
                       request := flagBit r 4 3 } }
        notices := { s.notices with lost := false, records := records } }
        (if s.notices.lost then [.status] else [])) r .done)

/-- START sets the refresh time of every node and port entry to now, enters RUN with a status line reference, and answers DONE
(R30). -/
def Obligations.StartResult : Prop :=
  ∀ (s : State) (r : Line) (w : Windows), Calm s 2 → Commanded s r 6 → s.control.mode = .off → s.decoder.windows = some w →
    exec .start s = .next (answered (withRef { s with
      control := { s.control with handed := [], mode := .run }
      topology := { s.topology with
        nodes := s.topology.nodes.map (fun x => (x.1, { x.2 with refresh := s.control.time }))
        ports := s.topology.ports.map (fun x => (x.1, { x.2 with refresh := s.control.time })) } } .status) r .done)

/-- STOP enters DRAIN at once with a status line reference and stays in progress. With nothing awaiting its taking, DISCARDING ends,
and an open batch is aborted: its marker and members leave the queue, loose records that stood among them stay, the state leaves OPEN,
and BATCH_FAULT STOPPED is posted with the batch's tag, the marker's line offset and the number of records removed, and a status line
reference queued (R31, R63, R71, R72). -/
def Obligations.StopResult : Prop :=
  ∀ (s : State) (r : Line), Calm s 4 → Commanded s r 7 → s.control.mode = .run → s.intake.handed = [] →
    let draining : State := { s with control := { s.control with
      handed := [], mode := .drain, inProgress := some { record := r, phase := .draining } } }
    ((∀ t, s.intake.batch ≠ .opened t) →
      exec .stop s = .next (withRef { draining with intake := { s.intake with batch := .closed } } .status)) ∧
    (∀ t before behind marker, s.intake.batch = .opened t → OpenBatchIn s.intake.queue before marker behind →
      exec .stop s = .next (withSaid
        { draining with intake := { s.intake with queue := before ++ looseOf behind, batch := .closed } }
        [.ref .status, .post (.batchFault .stopped 6 t 0 marker.offset (1 + (membersOf behind).length)), .ref .status]))

/-- DRAIN_END: once the intake, request and strike queues and the restoration set are empty and no record, batch, expiry, request,
restoration or strike event is in operation, the mode becomes OFF with a status line reference, and STOP's DONE is answered; while a
condition fails nothing changes (R32). A grant given for intake or expiry and not yet begun counts as in operation: that is the model's
reading (log 25). So does a taking, or STOP's abort, that has items still to queue (R22, R72; log 41). -/
def Obligations.DrainEndResult : Prop :=
  (∀ s : State, s.threads.intake ≠ [] → exec .drainEnd s = .next s) ∧
  ∀ (s : State) (c : Running), Calm s 2 → s.control.mode = .drain → s.control.inProgress = some c →
    (cmdCode c.record).toNat = 7 →
    (intakeCount s = 0 → requestCount s = 0 → s.paths.strikes = [] → s.paths.restoration = [] → s.paths.slot = none →
      (s.arbiter.holder = some .topology → s.topology.work ≠ some .intake ∧ s.topology.work ≠ some .expiry) →
      exec .drainEnd s = .next (answered (withRef { s with control := { s.control with mode := .off } } .status)
        c.record .done)) ∧
    (intakeCount s ≠ 0 ∨ requestCount s ≠ 0 ∨ s.paths.strikes ≠ [] ∨ s.paths.restoration ≠ [] ∨ s.paths.slot ≠ none ∨
        (s.arbiter.holder = some .topology ∧ (s.topology.work = some .intake ∨ s.topology.work = some .expiry)) →
      exec .drainEnd s = .next s)

/-- CLEAR_TOPOLOGY that passes its checks stays in progress while the idle topology unit requests the database for it, and the free
arbiter grants it at once (R33, R109, R110). CLEAR_TOPOLOGY_OPERATION waits for the strike queue; then it frees every node, port and
link entry and clears the link view, queues a reference for every entry that was in use and the status line, answers DONE and
releases the grant (R33, R115). -/
def Obligations.ClearTopologyResults : Prop :=
  (∀ (s : State) (r : Line), s.inReset = false → Commanded s r 8 → s.control.mode = .off → s.paths.entries = [] →
     ArbiterFree s → s.topology.work = none →
     exec .clearTopology s = .next { s with
       control := { s.control with handed := [], inProgress := some { record := r, phase := .clearing } }
       topology := { s.topology with work := some .command }
       arbiter := heldBy s .topology }) ∧
  (∀ (s : State) (r : Line), Calm s ((usedRefs s).length + 2) → TopologyGranted s .command → s.paths.entries = [] →
     s.control.inProgress = some { record := r, phase := .clearing } →
     (s.paths.strikes ≠ [] → exec .clearTopologyOperation s = .next s) ∧
     (s.paths.strikes = [] →
       exec .clearTopologyOperation s = .next (topologyIdle (answered (withRefs { s with
         topology := { s.topology with nodes := [], ports := [], links := [] }
         paths := { s.paths with view := [] } } (usedRefs s ++ [.status])) r .done))))

/-- CLEAR_PATHS frees every path, empties every reservation set and the restoration set, returns every path notice record to IDLE,
queues a reference for every path that was in use and the status line, and answers DONE; the link view, the database and the
generations are kept (R34, R173). That the references come in ascending path ID is the model's choice (log 44), and that an IDLE record
keeps its last notified generation and its reason, which nothing reads, is its reading (log 40). -/
def Obligations.ClearPathsResult : Prop :=
  ∀ (s : State) (r : Line), Calm s (s.paths.entries.length + 2) → Commanded s r 9 → s.control.mode = .off →
    ∃ records : Table NoticeRecord,
      (s.notices.records.ascending → ∀ p, records.getD p NoticeRecord.idle =
        { noticeRecord s p with outstanding := false, due := false, count := 0 }) ∧
      exec .clearPaths s = .next (answered (withRefs { dealtWith s with
        paths := { s.paths with entries := [], reserved := [], restoration := [] }
        notices := { s.notices with records := records } }
        (s.paths.entries.map (fun x => .path x.1) ++ [.status])) r .done)

/-- RESTART, in every mode and whatever is under way: the mode becomes OFF, every operation is abandoned and the grant released, the
pending slots get their ABORTED results, the intake unit, the tables, the request and strike queues, the restoration set and the notice
unit are cleared, a reference is queued for every entry that was in use and the status line, and DONE is answered. The configuration, the
time base and the last-granted requester are kept, and the attention line is deasserted (R176, R35, R36, R73, R112, R116, R173). That the
generations are kept, of which R155 says that they are of no account, and that acknowledgements handed over are kept, are the model's
readings (logs 39 and 32). The order of the references (log 44), and the absent path ID and class of every ABORTED line 1 (log 48), are
its choices. -/
def Obligations.RestartResult : Prop :=
  ∀ (s : State) (r : Line), s.inReset = false → s.control.handed = [r] → (cmdCode r).toNat = 10 →
    (∀ c, s.control.inProgress = some c → (cmdCode c.record).toNat ≠ 10) → s.memory.ownRead = none →
    .response ∉ s.writeBack.waiters →
    s.writeBack.queue.length + 2 * s.paths.pendingSlots.length + (usedRefs s).length + 2 ≤ 64 →
    let t := answered (withRefs { abortedLines s with
        control := { s.control with handed := [], mode := .off }
        threads := Threads.none
        writeBack := { (abortedLines s).writeBack with waiters := [] }
        intake := { queue := [], batch := .closed, handed := [], taking := none }
        topology := { nodes := [], ports := [], links := [], work := none, strikeWait := false }
        arbiter := { s.arbiter with holder := none, waitTopology := false, waitPath := false }
        engine := Engine.idle
        paths := { s.paths with
          handed := [], taking := false, queue := [], slot := none, runCount := 0, entries := [], reserved := [],
          view := [], strikes := [], restoration := [] }
        notices := { s.notices with producer := 0, consumer := 0, lost := false, records := [], turn := [] } }
      (usedRefs s ++ [.status])) r .done
    exec .restart s = .next t ∧ t.attention = false

/-! ### The notice unit -/

/-- ACKNOWLEDGEMENT: a count between the held count and the producer is accepted, with a status line reference if it moves; any other
is ignored (R177). An OUTSTANDING path whose last notified generation is named becomes IDLE without a due mark; with one its
PATH_STATE is written again when the ring has room and no path is deferred, and else it becomes deferred; any other path
acknowledgement is ignored (R180). A count that moves has the deferred notices written, in ascending path ID, until none is left or
the ring is full (R181); that one equal to the held count has none written is the model's reading (log 29). The last clause says all of
this with the windows set; the others need no order of the records. The attention line is asserted while the counts differ, so it is
deasserted by a count that reaches the producer (R176). -/
def Obligations.AcknowledgementResult : Prop :=
  (∀ s : State, s.attention = true ↔ s.notices.producer ≠ s.notices.consumer) ∧
  ∀ (s : State) (l : Line) (rest : List Line) (p : Nat) (x : NoticeRecord) (c : BitVec 32) (named : Bool), Calm s 2 →
    s.notices.handed = l :: rest → p = ackPathId l → x = noticeRecord s p →
    c = (if (ackConsumer l - s.notices.consumer).toNat ≤ (s.notices.producer - s.notices.consumer).toNat then ackConsumer l
         else s.notices.consumer) →
    (named = true ↔ p < 512 ∧ x.outstanding = true ∧ ackGeneration l = x.lastGen) →
    let moved : List Ref := if c = s.notices.consumer then [] else [.status]
    let noneDeferred := ∀ y ∈ s.notices.records, y.2.deferred = false
    (noneDeferred → named = false → exec .acknowledgement s =
      .next (withRefs (acknowledged s rest c s.notices.records) moved)) ∧
    (noneDeferred → named = true → x.due = false → exec .acknowledgement s =
      .next (withRefs (acknowledged s rest c (s.notices.records.setD p NoticeRecord.idle { x with outstanding := false })) moved)) ∧
    (noneDeferred → named = false ∨ x.due = false → ∃ t, exec .acknowledgement s = .next t ∧
      (t.attention = true ↔ c ≠ s.notices.producer)) ∧
    (noneDeferred → named = true → x.due = true → 1 ≤ x.count → c = s.notices.consumer → ∀ w, s.decoder.windows = some w →
      (s.notices.producer - s.notices.consumer).toNat < w.noticeLines →
      let s1 := withContent s (w.noticeBase + s.notices.producer.toNat % w.noticeLines) (pathStateLine s p x) none
      exec .acknowledgement s = .next (withRef
        { s1 with notices := { s.notices with
            handed := rest
            producer := s.notices.producer + 1
            records := s.notices.records.setD p NoticeRecord.idle
              { x with due := false, lastGen := generationOf s p, count := 0 } } } .status)) ∧
    (∀ w, s.decoder.windows = some w → w.noticeLines ≤ 4096 → s.notices.records.ascending →
      (∀ y ∈ s.notices.records, y.2.due = true → 1 ≤ y.2.count) → Calm s (2 * (deferredPaths s).length + 4) →
      let u := withRefs (acknowledged s rest c s.notices.records) moved
      let t := if named = false then u
        else if x.due = true ∧ ringUsed u < w.noticeLines ∧ (s.notices.records.any (fun y => y.2.deferred)) = false then
          pathNotified w u p
        else { u with notices := { u.notices with
          records := u.notices.records.setD p NoticeRecord.idle { x with outstanding := false } } }
      exec .acknowledgement s = .next (if c = s.notices.consumer then t else drainedTo w (w.noticeLines - ringUsed t) t))

/-- PATH_STATE posts, by the table of R179: a disabled class writes nothing; an IDLE path with room in the ring and none deferred has
its notice written; any other path has its due mark set. Each post not refused raises the change count and records its reason. An unset
notice window, which R179 does not name, counts as a ring without room: that is the model's reading (log 28). -/
def Obligations.PathStatePosts : Prop :=
  ∀ (s : State) (t : Thread) (p : Nat) (why : PathReason) (x : NoticeRecord), s.notices.turn = [] → x = noticeRecord s p →
    (s.control.enables.path = false → runOp false t (.postPath p why) s = .done s []) ∧
    (s.control.enables.path = true → x.outstanding = false → x.due = false → ringOpen s = true →
      runOp false t (.postPath p why) s = .done { s with notices := { s.notices with
        turn := [t]
        records := s.notices.records.setD p NoticeRecord.idle
          { x with count := min 65535 (x.count + 1), reason := some why } } } [.writePath p true]) ∧
    (s.control.enables.path = true → (x.outstanding = true ∨ x.due = true ∨ ringOpen s = false) →
      runOp false t (.postPath p why) s = .done { s with notices := { s.notices with
        records := s.notices.records.setD p NoticeRecord.idle
          { x with due := true, count := min 65535 (x.count + 1), reason := some why } } } [])

/-! ### The intake unit -/

/-- INTAKE_RECORD_TAKING places a record by its kind, its tag and the batch state; a record of kind 0, one that fails its form check
and one that fits no batch are dropped, a failing one with RECORD_FAULT BAD_FIELD, and one that fits no batch with BATCH_FAULT
CLOSE_MISMATCH; one of a batch that is being discarded is dropped silently. A BATCH_OPEN that meets an open batch aborts it with
BATCH_FAULT NESTED; the opening and the closing of a batch queue a status line reference (R57 to R62, R70, R71). A taking that leaves an
open batch with 64 records held, whatever it took, aborts it with BATCH_FAULT OVERFLOW: its marker and members leave the queue, loose
records stay, and the state becomes DISCARDING (R63, R64), while a placement with no open batch aborts nothing; that a record it dropped
counts no more then, and so aborts nothing, is the model's reading (log 13). The last taking outside RUN ends DISCARDING, and aborts an
open batch with BATCH_FAULT STOPPED (R72). The second part writes out the form check, with the places of the fields it reads (R59, R187,
R193). -/
def Obligations.IntakeRecordTaken : Prop :=
  (∀ (s : State) (r : HandedRecord) (rest : List HandedRecord) (tag : BitVec 16) (code : Nat) (b : BatchState), Calm s 6 →
    s.intake.handed = r :: rest → s.intake.taking = none → restarting s = false → intakeCount s ≤ 64 →
    tag = recTag r.record → code = recKindCode r.record → b = s.intake.batch →
    let q := s.intake.queue
    let queued := fun role : Role => q ++ [⟨r.record, r.offset, role⟩]
    let last := s.control.mode ≠ .run ∧ rest = []
    let fault := fun (why : BatchReason) (kind : Nat) (t openTag : BitVec 16) (off n : Nat) =>
      Said.post (.batchFault why kind t openTag off n)
    -- the record has been placed, `q'` and `b'` are the queue and the batch state then, and `items` what that queues and posts
    let gives := fun (q' : List QueuedRecord) (b' : BatchState) (items : List Said) =>
      ((∀ t, b' ≠ .opened t) →
        (¬ last → exec .intakeRecordTaking s = .next (withSaid (taken s rest q' b') items)) ∧
        (last → exec .intakeRecordTaking s = .next (withSaid (taken s rest q' .closed) items))) ∧
      (∀ t, b' = .opened t →
        (q'.length + rest.length ≠ 64 → ¬ last → exec .intakeRecordTaking s = .next (withSaid (taken s rest q' b') items)) ∧
        (∀ before marker behind, OpenBatchIn q' before marker behind →
          let left := before ++ looseOf behind
          let gone := 1 + (membersOf behind).length
          (q'.length + rest.length = 64 →
            let full := items ++ [fault .overflow code t 0 r.offset gone, .ref .status]
            (¬ last → exec .intakeRecordTaking s = .next (withSaid (taken s rest left (.discarding t)) full)) ∧
            (last → exec .intakeRecordTaking s = .next (withSaid (taken s rest left .closed) full))) ∧
          (q'.length + rest.length ≠ 64 → last → exec .intakeRecordTaking s = .next (withSaid (taken s rest left .closed)
            (items ++ [fault .stopped 6 t 0 marker.offset gone, .ref .status])))))
    (code = 0 → gives q b []) ∧
    (code ≠ 0 → formOk r.record = false → gives q b [.post (.recordFault .badField r.record r.offset)]) ∧
    (formOk r.record = true → 1 ≤ code → code ≤ 5 →
      (tag = 0 → gives (queued .loose) b []) ∧
      (tag ≠ 0 →
        (b = .opened tag → gives (queued .member) b []) ∧
        (b = .discarding tag → gives q b []) ∧
        (∀ t, t ≠ tag → b = .opened t → gives q b [fault .closeMismatch code tag t r.offset 0]) ∧
        (b = .closed ∨ (∃ t, t ≠ tag ∧ b = .discarding t) → gives q b [fault .closeMismatch code tag 0 r.offset 0]))) ∧
    (formOk r.record = true → code = 6 →
      (b = .discarding tag → gives q b []) ∧
      (b = .closed ∨ (∃ t, t ≠ tag ∧ b = .discarding t) → gives (queued .opening) (.opened tag) [.ref .status]) ∧
      (∀ t before marker behind, b = .opened t → OpenBatchIn q before marker behind →
        gives (before ++ looseOf behind ++ [⟨r.record, r.offset, .opening⟩]) (.opened tag)
          [fault .nested code t tag r.offset (1 + (membersOf behind).length), .ref .status])) ∧
    (formOk r.record = true → code = 7 →
      (b = .opened tag → gives (queued .closing) .closed [.ref .status]) ∧
      (b = .discarding tag → gives q .closed []) ∧
      (∀ t, t ≠ tag → b = .opened t → gives q b [fault .closeMismatch code tag t r.offset 0]) ∧
      (b = .closed ∨ (∃ t, t ≠ tag ∧ b = .discarding t) → gives q b [fault .closeMismatch code tag 0 r.offset 0]))) ∧
  (∀ r : Line,
    let kind := fieldNat r 0 1
    let id := fieldNat r 4 4
    recKindCode r = kind ∧ (recTag r).toNat = fieldNat r 2 2 ∧
    (kind ≠ 0 → (formOk r = true ↔ kind ≤ 7 ∧
      (kind = 1 → id ≠ 0 ∧ fieldNat r 8 1 ≤ 15) ∧
      (kind = 2 → id ≠ 0 ∧ fieldNat r 12 4 ≠ 0 ∧ fieldNat r 12 4 ≠ id ∧ (fieldNat r 10 1 = 1 ∨ fieldNat r 10 1 = 2) ∧
        fieldNat r 11 1 ≤ 6) ∧
      (kind = 3 ∨ kind = 4 → id ≠ 0) ∧ (kind = 5 → fieldNat r 8 1 ≤ 15) ∧ (kind = 6 ∨ kind = 7 → fieldNat r 2 2 ≠ 0))))

/-! ### The topology unit -/

/-- TOPOLOGY_REQUEST: the idle topology unit asks for the first kind of ready work, in the order command operation, release of the
lowest owed link, expiry, applicable intake head; with work in hand or none ready it asks for nothing (R65, R93, R107, R109). The head
is applicable when it is a loose record, or the opening marker of a batch whose closing marker is queued; the open batch's is not (R65). -/
def Obligations.TopologyRequestMade : Prop :=
  (∀ s : State, s.inReset = false → restarting s = false → ArbiterSound s →
    (s.topology.work ≠ none → exec .topologyRequest s = .next s) ∧
    (s.topology.work = none → ¬ NoCommandWork s → exec .topologyRequest s = .next (topologyAsks s .command)) ∧
    (s.topology.work = none → NoCommandWork s →
      (∀ before k l after, s.topology.links = before ++ (k, l) :: after → l.owed → (∀ x ∈ before, ¬ x.2.owed) →
        exec .topologyRequest s = .next (topologyAsks s (.release k))) ∧
      ((∀ x ∈ s.topology.links, ¬ x.2.owed) →
        ((∃ x ∈ s.topology.nodes, nodeDue s s.control.time x.2 = true) ∨
            (∃ x ∈ s.topology.ports, portDue s s.control.time x.2 = true) →
          exec .topologyRequest s = .next (topologyAsks s .expiry)) ∧
        ((∀ x ∈ s.topology.nodes, nodeDue s s.control.time x.2 = false) →
          (∀ x ∈ s.topology.ports, portDue s s.control.time x.2 = false) →
          (headApplicable s = true → exec .topologyRequest s = .next (topologyAsks s .intake)) ∧
          (headApplicable s = false → exec .topologyRequest s = .next s))))) ∧
  (∀ s : State,
    (headApplicable s = true ↔ ∃ x behind, s.intake.queue = x :: behind ∧
      (x.role = .loose ∨ (x.role = .opening ∧ ∃ y ∈ behind, y.role = .closing))) ∧
    (∀ marker behind, OpenBatchIn s.intake.queue [] marker behind → headApplicable s = false))

/-- ENTRY_DUE: once a node's or a port's age limit has passed since its refresh, outside OFF and with the limit not 0, the idle
topology unit with no command operation and no owed link asks for the database for an expiry; before that nothing happens (R92,
R93). -/
def Obligations.EntryDueRequestsExpiry : Prop :=
  ∀ (s : State) (i j : Nat) (n : NodeEntry) (e : PortEntry), s.inReset = false → restarting s = false → ArbiterSound s →
    s.topology.nodes.get? i = some n →
    let idle := s.topology.work = none ∧ NoCommandWork s ∧ ∀ x ∈ s.topology.links, ¬ x.2.owed
    (¬ IsDue s s.control.time n.domain n.refresh → exec (.entryDue (.node i)) s = .next s) ∧
    (IsDue s s.control.time n.domain n.refresh → idle → exec (.entryDue (.node i)) s = .next (topologyAsks s .expiry)) ∧
    (s.topology.ports.get? j = some e → e.node = i → ¬ IsDue s s.control.time n.domain e.refresh →
      exec (.entryDue (.port j)) s = .next s) ∧
    (s.topology.ports.get? j = some e → e.node = i → IsDue s s.control.time n.domain e.refresh → idle →
      exec (.entryDue (.port j)) s = .next (topologyAsks s .expiry))

/-- LOOSE_RECORD_APPLICATION: the head record leaves the queue and is applied, and the grant is released. A NODE_REPORT makes a new
entry at the lowest free index, with NODE_ADDED, or updates the one in use, with NODE_CHANGED naming what changed, or only refreshes
it; one that changes the domain converts the node's ports again, and derives the attributes of their links again (R75 to R77, R102). A
report that fails has no effect but its RECORD_FAULT: PROFILE_MISSING, TABLE_FULL or UNKNOWN_REPORTER (R66, R70, R75, R84). A
PORT_WITHDRAW retires its port's link, frees the port, and makes its claimants, the former partner among them, UNANSWERED (R82, R89,
R90, R103); a NODE_WITHDRAW removes its ports so, each to its end, and then frees its node (R91); one that names no node or port in use
has no effect (R89, R91). A DOMAIN_REFRESH refreshes its domain (R68). Each with the references it queues and the notices it posts, in
their order (R88, R96, R97, R114). That each claimant changes its state at its own turn is the model's choice (log 50); in a state in which
nothing waits, as here, it makes no difference. -/
def Obligations.LooseRecordApplied : Prop :=
  ∀ (s : State) (l : Line) (off d raw : Nat) (rest : List QueuedRecord), TableLaw s → TopologyGranted s .intake →
    s.intake.queue = ⟨l, off, .loose⟩ :: rest → d = recByte8 l → raw = nodeRawPenalty l →
    let nodes := s.topology.nodes
    let v := withQueue s rest
    let unknown := ∀ x ∈ nodes, x.2.netId ≠ recId l
    let now := s.arbiter.grantTime
    let gives := fun x : Effect => Calm s (places s x.said) → x.state.paths.strikes.length ≤ 32 →
      exec .looseRecordApplication s = .next x.ended
    let only := fun items : List Said => gives { state := v, said := items }
    let nodeNow := fun (i : Nat) (e : NodeEntry) => ({ v with topology := { s.topology with nodes := nodes.set i e } } : State)
    (recKindCode l = 1 → s.profiles.domains.get? d = none → only [.post (.recordFault .profileMissing l off)]) ∧
    (∀ p, recKindCode l = 1 → s.profiles.domains.get? d = some p → unknown →
      ((∀ i < 256, nodes.get? i ≠ none) → only [.post (.recordFault .tableFull l off)]) ∧
      (∀ i, LowestFree nodes 256 i →
        let e := NodeEntry.mk (recId l) d raw (convert p raw) (nodeTransit l) now 0
        gives { state := nodeNow i e, said := [.ref (.node i), .post (.nodeAdded i e), .ref .status] })) ∧
    (∀ p i e, recKindCode l = 1 → s.profiles.domains.get? d = some p → findNode s (recId l) = some (i, e) →
      let same := e.domain = d ∧ e.rawPenalty = raw
      let e' := NodeEntry.mk e.netId d raw (if same then e.penalty else convert p raw) (nodeTransit l) now e.portCount
      (same → e.transit = nodeTransit l → gives { state := nodeNow i e', said := [] }) ∧
      (¬ (same ∧ e.transit = nodeTransit l) →
        let change : Effect :=
          { state := nodeNow i e'
            said := [.ref (.node i), .post (.nodeChanged i e' (decide (e.domain ≠ d))
              (decide (e.rawPenalty ≠ raw ∨ e.penalty ≠ e'.penalty)) (decide (e.transit ≠ nodeTransit l)))] }
        (e.domain = d → gives change) ∧ (e.domain ≠ d → gives (change.andThen (fun u => portsRederived u p i))))) ∧
    (recKindCode l = 2 → unknown → only [.post (.recordFault .unknownReporter l off)]) ∧
    (recKindCode l = 3 ∨ recKindCode l = 4 → unknown → only []) ∧
    (∀ i n, recKindCode l = 3 → findNode s (recId l) = some (i, n) →
      (findPort s i (recByte8 l) = none → only []) ∧
      (∀ j e, findPort s i (recByte8 l) = some (j, e) → gives (portRemoved v .withdrawn j))) ∧
    (∀ i n, recKindCode l = 4 → findNode s (recId l) = some (i, n) → gives (nodeRemoved v .withdrawn i)) ∧
    (recKindCode l = 5 →
      let refreshed : State := { v with topology := { s.topology with
        nodes := nodes.map (fun x => (x.1, if x.2.domain = d then { x.2 with refresh := now } else x.2))
        ports := s.topology.ports.map (fun x => (x.1,
          if (nodes.get? x.2.node).map (·.domain) = some d then { x.2 with refresh := now } else x.2)) } }
      gives { state := refreshed, said := [] })

/-- A PORT_REPORT of a node in use, applied: an identical one only refreshes (R85). One with the same claim updates the fields of its
port and, in a link, the link's attributes and then its state, with LINK_CHANGED, and LINK_DOWN with a DOWN event or LINK_UP with an UP
event (R86, R101, R102). One with another claim re-points its port, to whatever it names: the port leaves its pair, its link being
retired and its partner made CONTRADICTED, takes the fields reported and is evaluated against its new target; and then each claimant it
does not claim is CONTRADICTED (R82, R87, R103). A new port is given the lowest free index, counted at its node, and evaluated in the
same way (R84); with the port table full it is refused with RECORD_FAULT TABLE_FULL. An evaluated port is UNANSWERED without a target,
CONTRADICTED with one that claims another port, and with one that claims it back PAIRED on the lowest free link ID, the link UP or DOWN
with its DOWN event, or, with no ID free, WAITING (R81, R99, R100). Each with the references it queues and the notices it posts, in the
order of R88 (R97, R114); that LINK_DOWN of reason NEW shows no end down is the model's reading (log 19), and that each claimant changes
its state at its own turn its choice (log 50). The last clause is the derivation of R99, the union of the SRLG lists written out. -/
def Obligations.PortReportApplied : Prop :=
  (∀ (s : State) (l : Line) (off i : Nat) (n : NodeEntry) (p : Profile) (rest : List QueuedRecord), TableLaw s →
    TopologyGranted s .intake → s.intake.queue = ⟨l, off, .loose⟩ :: rest → recKindCode l = 2 → portFarId l ≠ recId l →
    findNode s (recId l) = some (i, n) → p = domainProfile s n.domain →
    let v := withQueue s rest
    let port (number : Nat) (state : Pairing) (link : Option Nat) : PortEntry :=
      { node := i, number, reported := portReported l, nu := convert p (portRaw l), foreign := mapForeign p (portMask l)
        clipped := mapClipped p (portMask l), refresh := s.arbiter.grantTime, pairing := state, link }
    let gives := fun x : Effect => Calm s (places s x.said) → x.state.paths.strikes.length ≤ 32 →
      exec .looseRecordApplication s = .next x.ended
    let portNow := fun (u : State) (j : Nat) (e : PortEntry) =>
      ({ u with topology := { u.topology with ports := u.topology.ports.set j e } } : State)
    (∀ j e, findPort s i (recByte8 l) = some (j, e) →
      (e.reported = portReported l →
        gives { state := portNow v j { e with refresh := s.arbiter.grantTime }, said := [] }) ∧
      (e.reported ≠ portReported l → e.names (portFarId l) (portFarPort l) →
        (e.link = none → gives { state := portNow v j (port e.number e.pairing none), said := [.ref (.port j)] }) ∧
        (∀ k, e.link = some k →
          gives ((((Effect.none (portNow v j (port e.number e.pairing (some k)))).andThen (fun u => linkRederived u k)).andThen
            (fun u => linkStateRederived u k)).andThen (fun u => { state := u, said := [.ref (.port j)] })))) ∧
      (¬ e.names (portFarId l) (portFarPort l) →
        gives ((((pairLeft v j e).andThen (fun u => .none (portNow u j (port e.number .unanswered none)))).andThen
          (fun u => portEvaluated u j (some e.pairing) e.link)).andThen (fun u => claimantsContradicted u j)))) ∧
    (findPort s i (recByte8 l) = none →
      ((∀ j < 2048, s.topology.ports.get? j ≠ none) →
        gives { state := v, said := [.post (.recordFault .tableFull l off)] }) ∧
      (∀ j, LowestFree s.topology.ports 2048 j →
        let counted : State := { v with topology := { s.topology with
          nodes := s.topology.nodes.modify i (fun x => { x with portCount := x.portCount + 1 }) } }
        let made : Effect :=
          { state := portNow counted j (port (recByte8 l) .unanswered none), said := [.ref (.node i), .ref .status] }
        gives ((made.andThen (fun u => portEvaluated u j none none)).andThen (fun u => claimantsContradicted u j))))) ∧
  (∀ (s : State) (p q : PortEntry), ∃ risks : List Id32,
    risks.Pairwise (fun x y => x.toNat < y.toNat) ∧ (∀ x, x ∈ risks ↔ x ∈ p.reported.srlgs ∨ x ∈ q.reported.srlgs) ∧
    risks = srlgUnion p.reported.srlgs q.reported.srlgs ∧
    deriveAttrs s p q =
      { cost := max 1 (max p.reported.cost q.reported.cost), nu := max p.nu q.nu, foreign := p.foreign ||| q.foreign
        srlgs := risks.take 6, truncated := decide (6 < risks.length)
        interDomain := decide (portDomain s p ≠ portDomain s q) })

/-- BATCH_APPLICATION: the markers and members leave the queue together, loose records among them stay, the members are applied in
order within the one grant, and a status line reference is queued (R67). The first clause says this in full for members that are
DOMAIN_REFRESH records, or NODE_REPORTs of an absent profile, which fail with no effect but RECORD_FAULT PROFILE_MISSING (R70, R75). The
second says it for members of every kind: a batch is applied as its first member would be applied as a loose record, if nothing then
waits, and the rest of the batch after it, under the same grant; with no member the batch leaves only its reference. An open batch at
the head is not applied (R65). -/
def Obligations.BatchApplied : Prop :=
  ∀ (s : State) (marker closing : QueuedRecord) (mid tail : List QueuedRecord), TopologyGranted s .intake →
    marker.role = .opening →
    (s.intake.queue = marker :: (mid ++ closing :: tail) → closing.role = .closing →
      (∀ x ∈ mid, x.role = .loose ∨ (x.role = .member ∧ (recKindCode x.record = 5 ∨
        (recKindCode x.record = 1 ∧ s.profiles.domains.get? (recByte8 x.record) = none)))) →
      let items := ((membersOf mid).filter (fun x => recKindCode x.record == 1)).map (fun x =>
        Said.post (.recordFault .profileMissing x.record x.offset)) ++ [.ref .status]
      Calm s (places s items) →
      exec .batchApplication s = .next (topologyIdle (withSaid
        (((membersOf mid).filter (fun x => recKindCode x.record == 5)).foldl
          (fun u x => refreshDomain u (recByte8 x.record)) (withQueue s (looseOf mid ++ tail))) items))) ∧
    (∀ (first : QueuedRecord) (u : State), Calm s 1 → s.intake.queue = marker :: first :: (mid ++ closing :: tail) →
      first.role = .member → closing.role = .closing →
      exec .looseRecordApplication (withQueue s [⟨first.record, first.offset, .loose⟩]) = .next u → Calm u 0 →
      exec .batchApplication s = exec .batchApplication
        { withQueue u (marker :: (mid ++ closing :: tail)) with
          topology := { u.topology with work := some .intake }, arbiter := s.arbiter }) ∧
    (s.inReset = false → s.intake.queue = marker :: mid → (∀ x ∈ mid, x.role ≠ .closing) → exec .batchApplication s = .next s)

/-- EXPIRY removes with reason AGED the lowest due node, its ports first, or else the lowest due port, with its link retired and its
claimants UNANSWERED; with nothing due at the grant it changes nothing; and the grant is released. Each with the references it queues
and the notices it posts, in their order (R82, R90, R91, R94, R96, R97, R103). That each claimant changes its state at its own turn is the
model's choice (log 50). -/
def Obligations.ExpiryResult : Prop :=
  ∀ s : State, TableLaw s → TopologyGranted s .expiry →
    let due := fun x : Nat × NodeEntry => nodeDue s s.arbiter.grantTime x.2
    let portIsDue := fun x : Nat × PortEntry => portDue s s.arbiter.grantTime x.2
    let gives := fun x : Effect => Calm s (places s x.said) → x.state.paths.strikes.length ≤ 32 → exec .expiry s = .next x.ended
    ((∀ x ∈ s.topology.nodes, due x = false) → (∀ x ∈ s.topology.ports, portIsDue x = false) → gives (.none s)) ∧
    (∀ before i e after, s.topology.nodes = before ++ (i, e) :: after → (∀ x ∈ before, due x = false) → due (i, e) = true →
      gives (nodeRemoved s .aged i)) ∧
    (∀ before j e after, (∀ x ∈ s.topology.nodes, due x = false) → s.topology.ports = before ++ (j, e) :: after →
      (∀ x ∈ before, portIsDue x = false) → portIsDue (j, e) = true → gives (portRemoved s .aged j))

/-- LINK_ID_RELEASE frees the link's entry, with references for its line and the status line, and offers the ID to the WAITING pair
with the lowest port index: the pair is PAIRED on it, with the link UP or DOWN by its ports and a DOWN event when it is DOWN, LINK_UP or
LINK_DOWN of reason NEW, and PORT_STATE of reason LINK_FREED for both ports; with none waiting the ID stays FREE (R97, R100, R107, R108,
R114). That LINK_DOWN of reason NEW shows no end down is the model's reading (log 19). -/
def Obligations.LinkIdReleased : Prop :=
  ∀ (s : State) (k : Nat), TableLaw s → TopologyGranted s (.release k) →
    let gives := fun x : Effect => Calm s (places s x.said) → x.state.paths.strikes.length ≤ 32 → exec .linkIdRelease s = .next x.ended
    let freed : Effect :=
      { state := { s with topology := { s.topology with links := s.topology.links.erase k } }, said := [.ref (.link k), .ref .status] }
    ((∀ x ∈ s.topology.ports, x.2.pairing ≠ .waiting) → gives freed) ∧
    (∀ before j p after m q, s.topology.ports = before ++ (j, p) :: after → (∀ x ∈ before, x.2.pairing ≠ .waiting) →
      p.pairing = .waiting → targetOf s p = some (m, q) → q.pairing = .waiting →
      gives (freed.andThen (fun u => portsPaired u k j p m q (some .waiting) p.link .linkFreed)))

/-! ### The arbiter -/

/-- A request made while nobody holds the database and no other request waits is granted at once; while the other requester holds
it, it waits (R110). At a release a waiting request is granted, and of two the one of the requester that is not the last-granted one;
with none waiting the holder becomes none (R111). -/
def Obligations.ArbiterRules : Prop :=
  ∀ s : State,
    (ArbiterFree s → ∀ r, requestGrant s r = { s with arbiter := heldBy s r }) ∧
    (s.arbiter.holder = some .path →
      requestGrant s .topology = { s with arbiter := { s.arbiter with waitTopology := true } }) ∧
    (s.arbiter.holder = some .topology →
      requestGrant s .path = { s with arbiter := { s.arbiter with waitPath := true } }) ∧
    (s.arbiter.waitTopology = false → s.arbiter.waitPath = false →
      releaseGrant s = { s with arbiter := { s.arbiter with holder := none } }) ∧
    (s.arbiter.waitTopology = true → s.arbiter.waitPath = false → releaseGrant s = { s with arbiter := heldBy s .topology }) ∧
    (s.arbiter.waitTopology = false → s.arbiter.waitPath = true → releaseGrant s = { s with arbiter := heldBy s .path }) ∧
    (s.arbiter.waitTopology = true → s.arbiter.waitPath = true →
      (s.arbiter.last = some .topology →
        releaseGrant s = { s with arbiter := { heldBy s .path with waitTopology := true } }) ∧
      (s.arbiter.last = some .path →
        releaseGrant s = { s with arbiter := { heldBy s .topology with waitPath := true } }))

/-! ### The path table unit -/

/-- REQUEST_TAKING: kind 0 is ignored; a request whose slot is pending is refused, with REQUEST_REFUSED of its slot, tag and kind; any
other joins the queue with the verdict of its field checks, and its slot the pending set, with a status line reference (R140, R141).
That each queued request takes the next serial number, by which a slot's requests are told apart, is the model's own counter (log 6).
The verdict of each kind is that of the field checks (R142). -/
def Obligations.RequestTaken : Prop :=
  (∀ (s : State) (h : HandedRequest) (rest : List HandedRequest), Calm s 2 → s.paths.handed = h :: rest →
    s.paths.taking = false → restarting s = false →
    (reqKindCode h.record = 0 → exec .requestTaking s = .next { s with paths := { s.paths with handed := rest } }) ∧
    (reqKindCode h.record ≠ 0 → s.paths.pendingSlots.get? h.slot ≠ none →
      exec .requestTaking s = .next (withSaid { s with paths := { s.paths with handed := rest } }
        [.post (.requestRefused h.slot (reqTag h.record) (reqKindCode h.record))])) ∧
    (reqKindCode h.record ≠ 0 → s.paths.pendingSlots.get? h.slot = none →
      exec .requestTaking s = .next (withRef { s with paths := { s.paths with
        handed := rest
        queue := s.paths.queue ++
          [{ slot := h.slot, record := h.record, valid := requestValid h.record, serial := s.paths.serial }]
        pendingSlots := s.paths.pendingSlots.set h.slot
          { tag := reqTag h.record, serial := s.paths.serial, line2Issued := false }
        serial := s.paths.serial + 1 } } .status))) ∧
  (∀ (r : Line) (searched : Prop),
    (searched ↔ fieldNat r 2 1 ≤ 2 ∧ fieldNat r 3 1 ≤ 2 ∧ ∀ i < 4, fieldNat r (32 + 2 * i) 2 < 1024 ∨ fieldNat r (32 + 2 * i) 2 = 65535) →
    (requestValid r = true ↔
      (reqKindCode r = 1 ∨ reqKindCode r = 2) ∧ searched ∧ (reqKindCode r = 2 → fieldNat r 17 1 ≤ 2) ∧
          (fieldNat r 1 1 ≤ 3 ∨ fieldNat r 1 1 = 15) ∧
          (∀ i < 4, fieldBits r (40 + 4 * i) 32 = 0 ∨
            (fieldBits r (40 + 4 * i) 32 ≠ fieldBits r 8 32 ∧ fieldBits r (40 + 4 * i) 32 ≠ fieldBits r 12 32)) ∨
        reqKindCode r = 3 ∨ reqKindCode r = 4 ∨ (reqKindCode r = 5 ∧ searched)))

/-- SELECTION: a restoration while the run count is below 4 or the request queue is empty, and else the head request; with neither,
nothing (R143). A restoration, and a VALID PROBE, REROUTE or SETUP with a path entry free, asks for the grant (R144). The others are
executed at once: BAD_REQUEST, TABLE_FULL, UNKNOWN_PATH and WRONG_STATE change nothing else, a RELEASE frees its path, gives up the
reservations of its routes, takes it out of the restoration set and makes its notice record IDLE, and a RESUME returns it to ACTIVE
with PATH_STATE REQUESTED posted (R145, R148, R168), each with line 2 and then line 1 of its slot (R152 to R154). Which path ID and
class line 1 shows where the outcome is not OK, and for a RELEASE, is the model's reading (log 22), as is that the freed path's IDLE
record keeps its last notified generation and its reason, which nothing reads then (log 40). -/
def Obligations.SelectionResult : Prop :=
  ∀ s : State, Calm s 6 → MaySelect s → ArbiterSound s →
    (s.paths.restoration = [] → s.paths.queue = [] → exec .selection s = .next s) ∧
    (∀ p others, s.paths.restoration = p :: others → (s.paths.runCount < 4 ∨ s.paths.queue = []) →
      exec .selection s = .next (pathAsks { s with paths := { s.paths with
        slot := some { item := .restoration p, phase := .waiting, runBefore := s.paths.runCount }
        runCount := min 4 (s.paths.runCount + 1) } })) ∧
    (∀ q rest o p e, s.paths.queue = q :: rest → (s.paths.restoration = [] ∨ 4 ≤ s.paths.runCount) →
      o = (if q.valid = false ∨ reqKind q.record = none then ReqOutcome.badRequest
        else if reqKind q.record = some .setup ∧ (List.range 512).all (fun i => s.paths.entries.has i) = true then .tableFull
        else if (reqKind q.record = some .release ∨ reqKind q.record = some .resume) ∧ namedPath s q.record = none
          then .unknownPath
        else if reqKind q.record = some .resume ∧
            (namedPath s q.record).map (fun x => decide (x.2.state = .onBackup ∧ x.2.primary.map (·.struck) = some 0)) =
              some false
          then .wrongState
        else .ok) →
      (o ≠ .ok → exec .selection s = .next (withResult (withRef (served s rest) .status) q.slot q.serial
        (plainFirst s q.record o) (bareSecond (reqTag q.record) .none))) ∧
      (o = .ok → (reqKind q.record = some .probe ∨ reqKind q.record = some .setup ∨ reqKind q.record = some .reroute) →
        exec .selection s = .next (withRef (pathAsks { s with paths := { s.paths with
          queue := rest, slot := some { item := .request q, phase := .waiting, runBefore := s.paths.runCount }
          runCount := 0 } }) .status)) ∧
      (o = .ok → reqKind q.record = some .release → namedPath s q.record = some (p, e) →
        ∃ reserved : Table SlotSet,
          (∀ k, reserved.getD k 0 =
            ((e.primary.map (·.route)).toList ++ (e.backup.map (·.route)).toList).foldl
              (fun acc r => if k ∈ r.links then acc &&& ~~~r.range else acc) (reservedOn s k)) ∧
          exec .selection s = .next (withResult (withRefs { s with
            paths := { s.paths with
              queue := rest, slot := none, runCount := 0, entries := s.paths.entries.erase p
              reserved := reserved, restoration := s.paths.restoration.filter (· ≠ p) }
            notices := { s.notices with
              records := s.notices.records.setD p NoticeRecord.idle
                { noticeRecord s p with outstanding := false, due := false, count := 0 } } } [.status, .path p])
            q.slot q.serial (plainFirst s q.record .ok) (bareSecond (reqTag q.record) .none))) ∧
      (o = .ok → reqKind q.record = some .resume → namedPath s q.record = some (p, e) →
        let t := storePath (served s rest) p { e with state := .active }
        exec .selection s = .next (withResult (withSaid t [.ref .status, .ref (.path p), .pathState p .requested]) q.slot q.serial
          (resultLine t (.first (reqTag q.record) .ok (some e.cls) (some p) (.primaryOf p)))
          (resultLine t (.second (reqTag q.record) .none (.backupOf p))))))

/-- GRANT_TAKE_UP waits for the strike queue; then a PROBE or SETUP hands its inputs to the engine, and a REROUTE and a restoration
those of the path they are for (R117, R135, R136, R144, R146, R147). A restoration whose path has left the restoration set is
dropped, its run count restored, and a REROUTE that fails its checks is answered, both with the grant released (R144, R149). That the
path's state at the take-up decides, also for one that left the set and joined it again, is the model's choice (log 49), and that the
failed REROUTE's line 1 shows the path it named is its reading (log 22). -/
def Obligations.GrantTakenUp : Prop :=
  ∀ (s : State) (o : Operation), Calm s 2 → PathGranted s o →
    (s.paths.strikes ≠ [] → exec .grantTakeUp s = .next s) ∧
    (s.paths.strikes = [] →
      (∀ p e, o.item = .restoration p → s.paths.entries.get? p = some e → e.state = .restoring →
        exec .grantTakeUp s = .next (computingWith s o
          { srcId := e.srcId, dstId := e.dstId, cls := some e.cls, mask := BitVec.allOnes 80, policy := .firstFit
            order := .costThenNoise, hops := 20, exclLinks := [], exclNodes := [], pair := false, requireBackup := false
            nodeDiverse := e.nodeDiverse, own := e.primary.map (·.route), reference := e.backup.map (·.route) })) ∧
      (∀ p, o.item = .restoration p → (∀ e, s.paths.entries.get? p = some e → e.state ≠ .restoring) →
        exec .grantTakeUp s = .next { s with
          paths := { s.paths with slot := none, runCount := o.runBefore }
          arbiter := { s.arbiter with holder := none } }) ∧
      (∀ q, o.item = .request q → (reqKind q.record = some .probe ∨ reqKind q.record = some .setup) →
        exec .grantTakeUp s = .next (computingWith s o
          { srcId := reqSource q.record, dstId := reqDest q.record, cls := reqClass q.record, mask := reqMask q.record
            policy := (reqPolicy q.record).getD .firstFit, order := (reqOrder q.record).getD .cost
            hops := if 1 ≤ reqMaxHops q.record ∧ reqMaxHops q.record ≤ 20 then reqMaxHops q.record else 20
            exclLinks := reqExclLinks q.record, exclNodes := reqExclNodes q.record, pair := reqPair q.record
            requireBackup := reqRequireBackup q.record, nodeDiverse := reqNodeDiverse q.record, own := none
            reference := none })) ∧
      (∀ q verdict p e, o.item = .request q → reqKind q.record = some .reroute →
        verdict = (if namedPath s q.record = none then ReqOutcome.unknownPath
          else if e.state ≠ .active ∧ e.state ≠ .exposed ∧ e.state ≠ .held then .wrongState
          else if ∃ x ∈ reqExclNodes q.record, x ≠ 0 ∧ (x = e.srcId ∨ x = e.dstId) then .badRequest else .ok) →
        (namedPath s q.record = none ∨ namedPath s q.record = some (p, e)) →
        (verdict ≠ .ok → exec .grantTakeUp s = .next (withResult { s with
          paths := { s.paths with slot := none }, arbiter := { s.arbiter with holder := none } } q.slot q.serial
          (plainFirst s q.record verdict) (bareSecond (reqTag q.record) .none))) ∧
        (verdict = .ok → exec .grantTakeUp s = .next (computingWith s o
          { srcId := e.srcId, dstId := e.dstId, cls := some e.cls, mask := reqMask q.record
            policy := (reqPolicy q.record).getD .firstFit, order := (reqOrder q.record).getD .cost
            hops := if 1 ≤ reqMaxHops q.record ∧ reqMaxHops q.record ≤ 20 then reqMaxHops q.record else 20
            exclLinks := reqExclLinks q.record, exclNodes := reqExclNodes q.record, pair := false, requireBackup := false
            nodeDiverse := e.nodeDiverse, own := (if reqTargetBackup q.record then e.backup else e.primary).map (·.route)
            reference := (if reqTargetBackup q.record then e.primary else e.backup).map (·.route) }))))

/-- COMPUTATION_END: a PROBE, or a SETUP that found no route, changes nothing but its result lines. A SETUP that found one reserves
its routes and allocates the lowest free path: the entry takes the fields of the request and of the computation, enters ACTIVE with
generation 1, and its notice record is IDLE. A REROUTE replaces its target route and derives the path's state afresh by the table of
R151; a restoration replaces the primary; one that found no route leaves its path HELD, or DOWN without a primary. PATH_STATE is posted
for a new path, and for one whose state changes, with reason REQUESTED, RESTORED or RESTORE_FAILED (R147, R151, R168). The grant is
released, the engine keeps no trace, and the operation slot is free (R137, R146, R147, R150, R151, R154, R170, R171). The outcome is
`compute` on the state at this command, where R138 fixes it by the state at the grant: that is the model's choice (log 30). What line 1
shows of a REROUTE (log 22), and the fields that the IDLE record of an allocated path keeps (log 40), are its readings.
The second part says what `compute` answers: UNKNOWN_NODE, SAME_NODE, CLASS_UNSUPPORTED, NO_PATH, NO_BACKUP or OK (R118, R119, R134, R137),
with the route the policy and the ordering choose among the searches of the start slots (R129 to R131; R133 for a diverse search), and
under AUTO with the highest class that succeeds (R132). -/
def Obligations.ComputationEnded : Prop :=
  (∀ (s : State) (o : Operation) (i : Inputs) (c : Computed), Calm s 6 → Computing s o i → c = (compute s i s.engine).2 →
    (∀ q, o.item = .request q → (reqKind q.record = some .probe ∨ (reqKind q.record = some .setup ∧ c.primary = none)) →
      exec .computationEnd s = .next (withResult (itemEnded s) q.slot q.serial
        (resultLine s (.first (reqTag q.record) c.outcome c.cls none (routeSource c.primary)))
        (resultLine s (.second (reqTag q.record) c.backupOutcome (routeSource c.backup))))) ∧
    (∀ q r p, o.item = .request q → reqKind q.record = some .setup → c.primary = some r →
      LowestFree s.paths.entries 512 p →
      ∃ (reserved : Table SlotSet) (generations : Table (BitVec 16)),
        (∀ k, reserved.getD k 0 = (r :: c.backup.toList).foldl
          (fun acc x => if k ∈ x.links then acc ||| x.range else acc) (reservedOn s k)) ∧
        (∀ x, generations.getD x 0 = if x = p then 1 else generationOf s x) ∧
        exec .computationEnd s = .next (withResult (withSaid (itemEnded { s with
          paths := { s.paths with
            entries := s.paths.entries.set p
              { state := .active, srcId := reqSource q.record, dstId := reqDest q.record, srcIndex := c.src, dstIndex := c.dst
                cls := c.cls.getD 0, restore := (reqRestore q.record).getD .hold, revertive := reqRevertive q.record
                nodeDiverse := reqNodeDiverse q.record, primary := some { route := r, struck := 0 }
                backup := c.backup.map (fun b => { route := b, struck := 0 }), originTag := reqTag q.record }
            reserved := reserved, generations := generations, restoration := s.paths.restoration.filter (· ≠ p) }
          notices := { s.notices with
            records := s.notices.records.setD p NoticeRecord.idle
              { noticeRecord s p with outstanding := false, due := false, count := 0 } } })
            [.ref (.path p), .ref .status, .pathState p .requested]) q.slot q.serial
          (resultLine s (.first (reqTag q.record) c.outcome c.cls (some p) (.fixed r)))
          (resultLine s (.second (reqTag q.record) c.backupOutcome (routeSource c.backup))))) ∧
    (∀ q p e r st, o.item = .request q → reqKind q.record = some .reroute → namedPath s q.record = some (p, e) →
      c.primary = some r →
      let target := reqTargetBackup q.record
      st = (if e.state = .exposed ∧ target = true then .active
        else if e.state = .held ∧ target = true then .onBackup
        else if e.state = .held ∧ e.backup = none then .active
        else if e.state = .held then .exposed
        else e.state) →
      let t := storePath (replaceReservation s ((if target then e.backup else e.primary).map (·.route)) r) p
        { e with
          state := st, srcIndex := c.src, dstIndex := c.dst
          primary := if target then e.primary else some { route := r, struck := 0 }
          backup := if target then some { route := r, struck := 0 } else e.backup }
      exec .computationEnd s = .next (withResult (withSaid (itemEnded t) (pathSaid p e.state st .requested)) q.slot q.serial
        (resultLine t (.first (reqTag q.record) .ok (some e.cls) (some p) (.primaryOf p)))
        (resultLine t (.second (reqTag q.record) .none (.backupOf p))))) ∧
    (∀ q, o.item = .request q → reqKind q.record = some .reroute → c.primary = none →
      exec .computationEnd s = .next (withResult (itemEnded s) q.slot q.serial
        (plainFirst s q.record c.outcome) (bareSecond (reqTag q.record) .none))) ∧
    (∀ p e, o.item = .restoration p → s.paths.entries.get? p = some e →
      (∀ r st, c.primary = some r → st = (if e.backup = none then PathState.active else .exposed) →
        exec .computationEnd s = .next (withSaid (itemEnded (storePath
          (replaceReservation s (e.primary.map (·.route)) r) p { e with
            state := st, srcIndex := c.src, dstIndex := c.dst, primary := some { route := r, struck := 0 } }))
          (pathSaid p e.state st .restored))) ∧
      (∀ st, c.primary = none → st = (if e.primary = none then PathState.down else .held) →
        exec .computationEnd s = .next (withSaid (itemEnded (storePath s p { e with state := st }))
          (pathSaid p e.state st .restoreFailed))))) ∧
  ∀ (s : State) (i : Inputs) (e : Engine),
    let out := (compute s i e).2
    let answer := fun (k : Nat) (r : Route) (backup : Option Route) (o : ReqOutcome) (a b : Nat) =>
      ({ outcome := .ok, cls := some k, primary := some r, backup := backup, backupOutcome := o, src := a, dst := b } : Computed)
    (findNode s i.srcId = none ∨ findNode s i.dstId = none → out = handsOn .unknownNode 0 0) ∧
    ∀ a b x y, findNode s i.srcId = some (a, x) → findNode s i.dstId = some (b, y) →
      (a = b → out = handsOn .sameNode a b) ∧
      (∀ k, a ≠ b → i.cls = some k →
        let served := domainHasClass s (nodeDomain s a) k = true ∧ domainHasClass s (nodeDomain s b) k = true
        let q := classQuery s i a b k
        let first := q.diverse s i.reference
        (¬ served → out = handsOn .classUnsupported a b) ∧
        IsClassQuery s i a b k q ∧ IsDiverseQuery s q i.reference first ∧
        (served → NoRoute s first → out = handsOn .noPath a b) ∧
        (∀ r, served → ChosenRoute s first r →
          let second := ({ q with taken := some r } : Query).diverse s (some r)
          IsDiverseQuery s { q with taken := some r } (some r) second ∧
          (i.pair = false → out = answer k r none .none a b) ∧
          (∀ r', i.pair = true → ChosenRoute s second r' → out = answer k r (some r') .ok a b) ∧
          (i.pair = true → NoRoute s second →
            (i.requireBackup = true → out = handsOn .noBackup a b) ∧
            (i.requireBackup = false → out = answer k r none .noBackup a b)))) ∧
      (a ≠ b → i.cls = none →
        let given := fun k => (compute s { i with cls := some k } e).2
        (∀ k ≤ 3, (given k).outcome = .ok → (∀ m ≤ 3, k < m → (given m).outcome ≠ .ok) → out = given k) ∧
        ((∀ k ≤ 3, (given k).outcome ≠ .ok) →
          ((∃ k ≤ 3, (given k).outcome = .noBackup) → out = handsOn .noBackup a b) ∧
          ((∀ k ≤ 3, (given k).outcome ≠ .noBackup) → (∃ k ≤ 3, (given k).outcome = .noPath) → out = handsOn .noPath a b) ∧
          ((∀ k ≤ 3, (given k).outcome = .classUnsupported) → out = handsOn .classUnsupported a b)))

/-- DOWN_EVENT sets its link's flag and UP_EVENT clears it; one that finds the flag so already changes nothing else. A path with a
route through the link is counted and moved by the tables of R164 and R165: its route's struck count rises by one at a DOWN and falls by
one at an UP, and the path moves only when the count leaves 0 or comes back to it. RETIRE_EVENT drops the route, empties the link's
reservation set, clears its flag and answers RETIRE_DONE. A path whose state changes has PATH_STATE posted with reason LINK_DOWN, LINK_UP
or LINK_RETIRED (R168). The paths through the link come in ascending path ID, each with its reference and its post (R161, R162, R163, R166,
R106). -/
def Obligations.StrikeEventsProcessed : Prop :=
  (∀ (e : PathEntry) (h : HeldRoute) (k : Nat), k ∈ h.route.links →
    let primary := fun n => { e with primary := some { h with struck := n } }
    let backup := fun n => { e with backup := some { h with struck := n } }
    (e.primary = some h →
      downChange e k = (if h.struck = 0 then struckMove (primary 1) true else (primary (h.struck + 1), [])) ∧
      upChange e k = (if h.struck = 1 then repairedMove (primary 0) true else primary (h.struck - 1), []) ∧
      retireChange e k = ((primaryDropped { e with primary := none }).1, h.route :: (primaryDropped { e with primary := none }).2)) ∧
    (e.backup = some h → (∀ g, e.primary = some g → k ∉ g.route.links) →
      downChange e k = (if h.struck = 0 then struckMove (backup 1) false else (backup (h.struck + 1), [])) ∧
      upChange e k = (if h.struck = 1 then repairedMove (backup 0) false else backup (h.struck - 1), []) ∧
      retireChange e k = ((backupDropped { e with backup := none }).1, h.route :: (backupDropped { e with backup := none }).2))) ∧
  ∀ (s : State) (k : Nat) (rest : List Strike), TableLaw s →
    let moved := fun (view : List Nat) (move : PathEntry → PathEntry × List Route) (why : PathReason) =>
      pathsMoved (struckView s rest view) k move why
    let room := fun x : Effect => Calm s (places s x.said)
    (StrikeNext s .down k rest →
      (k ∈ s.paths.view → Calm s 0 → exec .downEvent s = .next (struckView s rest s.paths.view)) ∧
      (∀ x, k ∉ s.paths.view → x = moved (insertNat k s.paths.view) (downChange · k) .linkDown → room x →
        exec .downEvent s = .next (withSaid x.state x.said))) ∧
    (StrikeNext s .up k rest →
      (k ∉ s.paths.view → Calm s 0 → exec .upEvent s = .next (struckView s rest s.paths.view)) ∧
      (∀ x, k ∈ s.paths.view → x = moved (removeNat k s.paths.view) (upChange · k) .linkUp → room x →
        exec .upEvent s = .next (withSaid x.state x.said))) ∧
    (StrikeNext s .retire k rest → ∀ x, x = moved s.paths.view (retireChange · k) .linkRetired → room x →
      exec .retireEvent s = .next (retired (withSaid x.state x.said) k))

/-- How a path moves when one of its routes becomes struck (R164), becomes intact (R165) or is dropped (R167), and how it falls back
(R160), with the routes whose reservations it gives up. -/
def Obligations.PathMoves : Prop :=
  ∀ (e : PathEntry) (h : HeldRoute),
    let kept := fun st : PathState => (({ e with state := st }, []) : PathEntry × List Route)
    let held := e.primary.isSome = true
    (e.restore = .hold → fallBack e = kept (if held then .held else .down)) ∧
    (e.restore = .release → held → fallBack e = ({ e with state := .down, primary := none, backup := none }, e.routes)) ∧
    (e.restore = .release → ¬ held → fallBack e = kept .down) ∧
    (e.restore = .reroute → fallBack e = kept .restoring) ∧
    (e.state = .active → struckMove e true = (if e.backup.isSome then kept .onBackup else fallBack e)) ∧
    (e.state = .active → struckMove e false = kept .exposed) ∧
    (e.state = .exposed → struckMove e true = fallBack e) ∧
    (e.state = .onBackup → struckMove e true = (e, [])) ∧
    (e.state = .onBackup → struckMove e false =
      (if e.primary.map (·.struck) = some 0 then kept .exposed else fallBack e)) ∧
    (e.state = .onBackup → repairedMove e true = (if e.revertive then { e with state := .active } else e)) ∧
    (e.state = .exposed → repairedMove e false = { e with state := .active }) ∧
    ((e.state = .held ∨ e.state = .restoring) →
      repairedMove e true = { e with state := if e.backup = none then .active else .exposed } ∧
      repairedMove e false = { e with state := .onBackup }) ∧
    (e.state = .exposed → backupDropped e = kept .active) ∧
    (e.state = .onBackup → backupDropped e =
      (if e.primary.map (·.struck) = some 0 then kept .active else fallBack e)) ∧
    ((e.state = .active ∨ e.state = .held ∨ e.state = .restoring) → backupDropped e = (e, [])) ∧
    (e.backup = some h → h.struck = 0 →
      primaryDropped e = ({ e with primary := some h, backup := none, state := .active }, [])) ∧
    (e.backup = some h → h.struck ≠ 0 → primaryDropped e = fallBack { e with primary := some h, backup := none }) ∧
    (e.backup = none → primaryDropped e = fallBack { e with primary := none })

/-- The reservation sets after a route is reserved, given up, or replaced make-before-break, link by link (R147, R148, R150, R157,
R170); and what storing a path's entry does: the generation rises by one exactly when the state changes, and the path is in the
restoration set exactly when it is RESTORING (R156, R159). -/
def Obligations.ReservationsAndGenerations : Prop :=
  (∀ (s : State) (r : Route) (k : Nat),
    reservedOn (reserveRoute s r) k = (if k ∈ r.links then reservedOn s k ||| r.range else reservedOn s k) ∧
    reservedOn (unreserveRoute s r) k = (if k ∈ r.links then reservedOn s k &&& ~~~r.range else reservedOn s k)) ∧
  (∀ (s : State) (old new : Route) (k : Nat),
    reservedOn (replaceReservation s (some old) new) k =
      (if k ∈ new.links then (if k ∈ old.links then reservedOn s k &&& ~~~old.range else reservedOn s k) ||| new.range
       else if k ∈ old.links then reservedOn s k &&& ~~~old.range else reservedOn s k) ∧
    reservedOn (replaceReservation s none new) k =
      (if k ∈ new.links then reservedOn s k ||| new.range else reservedOn s k)) ∧
  (∀ (s : State) (p q : Nat) (e x : PathEntry), s.paths.entries.get? p = some e →
    (storePath s p x).paths.entries.get? p = some x ∧
    generationOf (storePath s p x) p = (if x.state = e.state then generationOf s p else generationOf s p + 1) ∧
    (p ∈ (storePath s p x).paths.restoration ↔ x.state = .restoring) ∧
    (q ≠ p → (storePath s p x).paths.entries.get? q = s.paths.entries.get? q ∧
      generationOf (storePath s p x) q = generationOf s q ∧
      (q ∈ (storePath s p x).paths.restoration ↔ q ∈ s.paths.restoration)))

/-! ### The path engine and the profile store -/

/-- Every route a computation hands back is feasible. Its links run from the source to the destination, one per hop, through nodes
none of which repeats and of which the inner ones are transit-capable; its noise is that of the walk over them, within the class's
budget, and its cost the sum of theirs; its range lies on the grid and in the mask. Each link is UP, not opaque and not excluded, free of
foreign slots and of reserved ones in the range (a computation's own route excepted), and each of its ends is no excluded node, lies in
a domain that carries the range and the class, and passes the transit test. A backup is diverse from its primary, and a primary from the
reference route: no link and no SRLG in common, and with NODE_DIVERSE no inner node (R53, R119 to R122, R125, R127, R128, R133). The
second part is what a search finds (R128): a COST search that rejects no label finds a route as soon as there is one, and no other is
less by cost, then noise, then hops; a NOISE search that rejects no label for its hops finds one as soon as there is one within the
budget, of least noise; and no search gives a route above the budget or the hop limit (R125, R128). The last is the search's order (R124
to R126): the label extracted has the smallest key, the node index last; and
a relaxed link's label is rejected above the budget or the hop limit, and else replaces a label that is not final when its key is
smaller, or equal and its predecessor node lower. -/
def Obligations.ComputedRoutesAreFeasible : Prop :=
  (∀ (s : State) (i : Inputs) (e : Engine) (c : Computed), TableLaw s → i.hops ≤ 20 → c = (compute s i e).2 →
    (∀ r, (c.primary = some r ∨ c.backup = some r) →
      (c.cls = some r.cls ∧ (∀ k, i.cls = some k → r.cls = k) ∧ domainHasClass s (nodeDomain s c.src) r.cls = true ∧
        domainHasClass s (nodeDomain s c.dst) r.cls = true) ∧
      r.noise ≤ (classEntry s r.cls).budget ∧ 1 ≤ r.hops ∧ r.hops ≤ i.hops ∧ r.links.length = r.hops ∧
      r.width = (classEntry s r.cls).width ∧ r.start + r.width ≤ 80 ∧ r.start % r.width = 0 ∧
      slotsIn r.range i.mask = true ∧
      r.cost = (r.links.map (fun k => ((s.topology.links.get? k).map (·.attrs.cost)).getD 0)).sum ∧
      (∃ nodes : List Nat, nodes.head? = some c.src ∧ nodes.getLast? = some c.dst ∧ nodes.Nodup ∧
        joinsInOrder s r.links nodes ∧ r.noise = walkedNoise s c.src 0 r.links nodes ∧
        ∀ n ∈ nodes, n ≠ c.src → n ≠ c.dst → (s.topology.nodes.get? n).map (·.transit) = some true) ∧
      ∀ k ∈ r.links, ∃ l a b, s.topology.links.get? k = some l ∧ linkNodes s l = some (a, b) ∧ l.state = .up ∧
        l.attrs.nu < 65535 ∧ k ∉ i.exclLinks ∧ r.range &&& l.attrs.foreign = 0 ∧
        r.range &&& (match i.own with
          | some o => if k ∈ o.links then reservedOn s k &&& ~~~o.range else reservedOn s k
          | none => reservedOn s k) = 0 ∧
        ∀ n, n = a ∨ n = b →
          (∀ x ∈ i.exclNodes, x ≠ 0 → (findNode s x).map (·.1) ≠ some n) ∧
          slotsIn r.range (domainProfile s (nodeDomain s n)).slots = true ∧ domainHasClass s (nodeDomain s n) r.cls = true ∧
          ((domainProfile s (nodeDomain s n)).transit = true ∨ nodeDomain s n = nodeDomain s c.src ∨
            nodeDomain s n = nodeDomain s c.dst)) ∧
    (∀ p b, c.primary = some p → c.backup = some b → DiverseFrom s i c.src c.dst b p) ∧
    (∀ p r, c.primary = some p → i.reference = some r → DiverseFrom s i c.src c.dst p r)) ∧
  (∀ (s : State) (q : Query) (start : Nat) (links nodes : List Nat), TableLaw s → (∀ x ∈ s.topology.ports, x.2.node < 256) →
    q.src ≠ q.dst → q.src < 256 → q.budget < 65535 → IsRoute s q start links nodes →
    let cost := costOfLinks s links
    let noise := walkedNoise s q.src 0 links nodes
    (rejectsLabel s q start false = false → ∃ r, routeBy s q false start = some r ∧
      (r.cost < cost ∨ r.cost = cost ∧ (r.noise < noise ∨ r.noise = noise ∧ r.hops ≤ links.length))) ∧
    (rejectsHops s q start true = false → noise ≤ q.budget → ∃ r, routeBy s q true start = some r ∧ r.noise ≤ noise)) ∧
  (∀ (s : State) (q : Query) (byNoise : Bool) (start : Nat) (r : Route), q.src ≠ q.dst → routeBy s q byNoise start = some r →
    r.noise ≤ q.budget ∧ r.hops ≤ q.inputs.hops) ∧
  (∀ (byNoise : Bool) (labels : Table Label),
    (nextExtracted byNoise labels = none ↔ ∀ x ∈ labels, x.2.final = true) ∧
    ∀ u lu, nextExtracted byNoise labels = some (u, lu) → (u, lu) ∈ labels ∧ lu.final = false ∧
      ∀ v lv, (v, lv) ∈ labels → lv.final = false → v ≠ u →
        lexLess (if byNoise then [lu.noise, lu.cost, lu.hops, u] else [lu.cost, lu.noise, lu.hops, u])
          (if byNoise then [lv.noise, lv.cost, lv.hops, v] else [lv.cost, lv.noise, lv.hops, v]) = true) ∧
  ∀ (s : State) (q : Query) (byNoise : Bool) (es : List Edge) (u v : Nat) (lu new : Label) (labels : Table Label) (e : Edge),
    (e.a = u ∧ e.b = v ∨ e.b = u ∧ e.a = v) → e.a ≠ e.b →
    new =
      { cost := lu.cost + e.cost
        noise := walkedNoise s q.src lu.noise [e.link] [u, v]
        hops := lu.hops + 1, pred := some e.link, final := false } →
    (s.topology.links.get? e.link).map (·.attrs.nu) = some e.nu →
    let rejected := q.budget < new.noise ∨ q.inputs.hops < new.hops
    let smaller := fun old : Label => if byNoise then
        new.noise < old.noise ∨ new.noise = old.noise ∧ (new.cost < old.cost ∨ new.cost = old.cost ∧ new.hops < old.hops)
      else new.cost < old.cost ∨ new.cost = old.cost ∧ (new.noise < old.noise ∨ new.noise = old.noise ∧ new.hops < old.hops)
    let equal := fun old : Label => new.cost = old.cost ∧ new.noise = old.noise ∧ new.hops = old.hops
    (rejected → relax s q byNoise es u lu labels e = labels) ∧
    (¬ rejected → labels.get? v = none → relax s q byNoise es u lu labels e = labels.set v new) ∧
    (∀ old, ¬ rejected → labels.get? v = some old →
      (old.final = true → relax s q byNoise es u lu labels e = labels) ∧
      (old.final = false → smaller old ∨ (equal old ∧ ∃ w, predNode es v old = some w ∧ u < w) →
        relax s q byNoise es u lu labels e = labels.set v new) ∧
      (old.final = false → ¬ smaller old → ¬ (equal old ∧ ∃ w, predNode es v old = some w ∧ u < w) →
        relax s q byNoise es u lu labels e = labels))

/-- The arithmetic of profiles: the conversion rounds the exact quotient to the nearest integer with halves going up, saturates at
65535, gives 0 for 0 and never falls as the raw value rises (R49); a vendor mask maps to the slots of its channels below the count
(R44, R46); and the slots of a valid profile run from its base to its last channel or slot 79 (R45). -/
def Obligations.ProfileArithmetic : Prop :=
  (∀ (p : Profile) (raw : Nat), p.shift = 0 → convert p raw = min 65535 (raw * p.multiplier)) ∧
  (∀ (p : Profile) (raw : Nat), 0 < p.shift → ∃ n, convert p raw = min 65535 n ∧
    n * 2 ^ p.shift ≤ raw * p.multiplier + 2 ^ (p.shift - 1) ∧ raw * p.multiplier + 2 ^ (p.shift - 1) < (n + 1) * 2 ^ p.shift) ∧
  (∀ (p : Profile) (raw more : Nat), convert p 0 = 0 ∧ (raw ≤ more → convert p raw ≤ convert p more)) ∧
  (∀ (p : Profile) (m : BitVec 128) (g : Nat), g < 80 →
    ((mapForeign p m).getLsbD g = true ↔ ∃ v, v < 128 ∧ m.getLsbD v = true ∧ v < p.count ∧
      p.base + v * p.stride ≤ g ∧ g < p.base + v * p.stride + p.stride)) ∧
  (∀ (l : Line) (g : Nat), profileOk l = true → g < 80 →
    ((profileOf l).slots.getLsbD g = true ↔
      fieldNat l 0 1 ≤ g ∧ g < fieldNat l 0 1 + fieldNat l 2 1 * fieldNat l 1 1))

/-! ### The lines the part writes -/

/-- Every export line, both result lines, the status line, the response line and the notice line of every kind show their fields at
their places, and zero in every byte and bit that no field covers (R20, R37, R70, R71, R95 to R97, R113, R114, R152, R153, R172, R178, R183,
R185, R186, R189 to R192), with the codes of R193. A notice line carries the sequence number and the time it is given.
That byte 28 of the status line counts the queued requests only (R37, R141; R140 counts a request as held from its hand-over), that
byte 5 of the line of a path without a route is 0, and that a field R114 does not list for a kind is zero in its line, are the model's
readings (logs 18, 21 and 19). -/
def Obligations.LinesShowTheirFields : Prop :=
  ([CmdOutcome.empty, .done, .unknownCommand, .badArgument, .wrongMode, .busy, .notEmpty, .memoryFault].map (·.code) =
      List.range 8 ∧
    [ReqOutcome.none, .ok, .noPath, .noBackup, .unknownNode, .sameNode, .badRequest, .classUnsupported, .tableFull, .unknownPath,
      .wrongState, .aborted].map (·.code) = List.range 12 ∧
    [Mode.off, .run, .drain].map (·.code) = [0, 1, 2] ∧ [RestoreMode.hold, .release, .reroute].map (·.code) = [0, 1, 2] ∧
    pairingCode none = 0 ∧ [Pairing.unanswered, .contradicted, .paired, .waiting].map (fun x => pairingCode (some x)) = [1, 2, 3, 4] ∧
    [TopoReason.reported, .withdrawn, .aged, .linkFreed, .claimChanged].map (·.code) = [1, 2, 3, 4, 5] ∧
    [LinkReason.new, .recovered, .portDown].map (·.code) = [1, 2, 3] ∧
    [RecordReason.badField, .unknownReporter, .profileMissing, .tableFull].map (·.code) = [1, 2, 3, 4] ∧
    [BatchReason.overflow, .nested, .stopped, .closeMismatch].map (·.code) = [1, 2, 3, 4] ∧
    [PathReason.requested, .linkDown, .linkUp, .linkRetired, .restored, .restoreFailed].map (fun x => pathReasonCode (some x)) =
      [1, 2, 3, 4, 5, 6] ∧
    [Observed.command, .acknowledgement, .intake, .request].map (·.code) = [1, 2, 3, 4] ∧
    [LinkState.up, .down, .retiring].map (·.code) = [1, 2, 3] ∧
    [PathState.active, .exposed, .onBackup, .held, .restoring, .down].map (·.code) = [1, 2, 3, 4, 5, 6]) ∧
  (∀ (s : State) (n : Nat), (s.topology.nodes.get? n = none → nodeLine s n = 0) ∧ (s.topology.ports.get? n = none → portLine s n = 0) ∧
    (s.topology.links.get? n = none → linkLine s n = 0) ∧ (s.paths.entries.get? n = none → pathLine s n = 0)) ∧
  (∀ (s : State) (i : Nat) (e : NodeEntry), s.topology.nodes.get? i = some e → e.Fits →
    Shows (nodeLine s i) [(0, 1, 1), (1, 1, e.domain), (2, 1, e.transit.toNat), (4, 4, e.netId.toNat), (8, 2, e.rawPenalty),
      (10, 2, e.penalty), (12, 2, e.portCount)]) ∧
  (∀ (s : State) (j : Nat) (e : PortEntry), s.topology.ports.get? j = some e → e.Fits →
    Shows (portLine s j) ([(0, 1, 1), (1, 1, pairingCode (some e.pairing)), (2, 1, e.number), (3, 1, e.reported.farPort),
      (4, 1, e.node), (5, 1, if e.reported.up then 1 else 2), (6, 2, e.link.getD 65535),
      (8, 4, ((s.topology.nodes.get? e.node).map (·.netId.toNat)).getD 0), (12, 4, e.reported.farId.toNat),
      (16, 2, e.reported.cost), (18, 2, e.reported.raw), (20, 2, e.nu), (22, 1, e.clipped.toNat), (24, 10, e.foreign.toNat)] ++
      (List.range 6).map (fun n => (34 + 4 * n, 4, (e.reported.srlgs.getD n 0).toNat)))) ∧
  (∀ (s : State) (k : Nat) (e : LinkEntry), s.topology.links.get? k = some e → e.Fits →
    Shows (linkLine s k) ([(0, 1, e.state.code),
      (1, 1, e.attrs.interDomain.toNat + 2 * e.attrs.truncated.toNat + 4 * e.answered.toNat), (2, 1, e.endA.number),
      (3, 1, e.endB.number), (4, 2, e.endA.port.getD 65535), (6, 2, e.endB.port.getD 65535), (8, 4, e.endA.netId.toNat),
      (12, 4, e.endB.netId.toNat), (16, 2, e.attrs.cost), (18, 2, e.attrs.nu), (20, 10, e.attrs.foreign.toNat)] ++
      (List.range 6).map (fun n => (30 + 4 * n, 4, (e.attrs.srlgs.getD n 0).toNat)) ++
      [(54, 5, e.created.toNat % 2 ^ 40), (59, 5, e.changed.toNat % 2 ^ 40)])) ∧
  (∀ (s : State) (p : Nat) (e : PathEntry), s.paths.entries.get? p = some e → e.Fits →
    ∃ links : Nat,
      (∀ n < 20, links / 2 ^ (10 * n) % 2 ^ 10 = (match e.state with
        | .onBackup => (e.backup.map (fun h => h.route.links.getD n 0)).getD 0
        | .active | .exposed | .held => (e.primary.map (fun h => h.route.links.getD n 0)).getD 0
        | .restoring | .down => 0)) ∧
      Shows (pathLine s p) ([(0, 1, 1), (1, 1, e.state.code), (2, 1, e.cls), (3, 1, e.restore.code),
        (4, 1, e.revertive.toNat + 2 * e.nodeDiverse.toNat + 4 * e.primary.isSome.toNat + 8 * e.backup.isSome.toNat),
        (5, 1, ((e.primary.or e.backup).map (·.route.width)).getD 0), (6, 1, e.srcIndex), (7, 1, e.dstIndex),
        (8, 2, (generationOf s p).toNat), (10, 4, e.originTag.toNat), (14, 4, e.srcId.toNat), (18, 4, e.dstId.toNat)] ++
        summaryOf 22 e.primary ++ summaryOf 30 e.backup ++ [(38, 25, links)])) ∧
  (∀ (s : State) (tag : BitVec 32) (o : ReqOutcome) (cls path : Option Nat) (src : RouteSource) (shown : Option Route),
    shown = (match src with
      | .absent => none
      | .fixed r => some r
      | .primaryOf p => ((s.paths.entries.get? p).bind (·.primary)).map (·.route)
      | .backupOf p => ((s.paths.entries.get? p).bind (·.backup)).map (·.route)) →
    (∀ r, shown = some r → r.Fits) →
    ((∀ k, cls = some k → k < 256) → (∀ p, path = some p → p < 65536) →
      Shows (resultLine s (.first tag o cls path src))
        ([(0, 4, tag.toNat), (4, 1, o.code), (5, 1, cls.getD 255), (6, 2, path.getD 65535)] ++ routeBlockOf shown)) ∧
    Shows (resultLine s (.second tag o src))
      ([(0, 4, tag.toNat), (4, 1, match src with
        | .backupOf _ => if shown.isSome then 1 else 0
        | _ => o.code)] ++ routeBlockOf shown)) ∧
  (∀ s : State, s.topology.nodes.length < 65536 → s.topology.ports.length < 65536 → s.topology.links.length < 65536 →
    s.paths.entries.length < 65536 → s.paths.queue.length < 256 → ∀ (tag : BitVec 16) (isOpen : Bool),
    (s.intake.batch = .opened tag ∧ isOpen = true ∨ (∀ t, s.intake.batch ≠ .opened t) ∧ isOpen = false ∧ tag = 0) →
    Shows (statusLine s) [(0, 1, s.control.mode.code), (1, 1, s.notices.lost.toNat + 2 * isOpen.toNat), (2, 2, tag.toNat),
      (4, 4, s.notices.producer.toNat), (8, 4, s.notices.consumer.toNat), (12, 8, s.control.time.toNat),
      (20, 2, s.topology.nodes.length), (22, 2, s.topology.ports.length), (24, 2, s.topology.links.length),
      (26, 2, s.paths.entries.length), (28, 1, s.paths.queue.length)]) ∧
  (∀ s : State,
    Shows (responseLine s) [(0, 2, s.control.completed.tag.toNat), (2, 2, s.control.completed.code.toNat),
      (4, 1, s.control.completed.outcome.code), (8, 2, s.control.refused.tag.toNat), (10, 2, s.control.refused.code.toNat),
      (12, 1, s.control.refused.outcome.code)]) ∧
  (∀ (seq : BitVec 32) (time : BitVec 64),
    let shows := fun (n : Notice) (kind cls : Nat) (contents : List (Nat × Nat × Nat)) =>
      Shows (noticeLine n seq time) ([(0, 1, kind), (1, 1, cls), (4, 4, seq.toNat), (8, 8, time.toNat)] ++ contents)
    let ends := fun e : LinkEntry => [(20, 4, e.endA.netId.toNat), (24, 4, e.endB.netId.toNat), (28, 1, e.endA.number), (29, 1, e.endB.number)]
    (∀ (i : Nat) (e : NodeEntry), i < 256 → e.Fits →
      let contents := [(16, 1, i), (17, 1, e.domain), (18, 1, e.transit.toNat), (20, 4, e.netId.toNat), (24, 2, e.penalty)]
      shows (.nodeAdded i e) 1 0 contents ∧
      ∀ domain penalty transit : Bool, shows (.nodeChanged i e domain penalty transit) 2 0
        (contents ++ [(26, 1, domain.toNat + 2 * penalty.toNat + 4 * transit.toNat)])) ∧
    (∀ (i ports : Nat) (id : Id32) (why : TopoReason), i < 256 → ports ≤ 256 →
      shows (.nodeRemoved i id why ports) 3 0 [(16, 1, i), (17, 1, why.code), (18, 2, ports), (20, 4, id.toNat)]) ∧
    (∀ (j number farPort : Nat) (id farId : Id32) (old new : Option Pairing) (oldLink newLink : Option Nat) (why : TopoReason),
      j < 2048 → number < 256 → farPort < 256 → (∀ k, oldLink = some k ∨ newLink = some k → k < 1024) →
      shows (.portState j id number farId farPort old new oldLink newLink why) 4 0
        [(16, 2, j), (18, 1, number), (19, 1, farPort), (20, 4, id.toNat), (24, 4, farId.toNat), (28, 1, pairingCode old),
          (29, 1, pairingCode new), (30, 2, oldLink.getD 65535), (32, 2, newLink.getD 65535), (34, 1, why.code)]) ∧
    (∀ (k : Nat) (e : LinkEntry), k < 1024 → e.Fits →
      (∀ why : LinkReason, shows (.linkUp k why e) 5 0 ([(16, 2, k), (18, 1, why.code)] ++ ends e ++
        [(30, 2, e.attrs.cost), (32, 2, e.attrs.nu), (34, 1, e.attrs.interDomain.toNat)])) ∧
      (∀ (why : LinkReason) (a b : Bool), shows (.linkDown k why e a b) 6 0
        ([(16, 2, k), (18, 1, why.code), (19, 1, a.toNat + 2 * b.toNat)] ++ ends e)) ∧
      (∀ old : LinkAttrs, shows (.linkChanged k old e.attrs) 7 0
        [(16, 2, k), (19, 1, (decide (old.cost ≠ e.attrs.cost)).toNat + 2 * (decide (old.nu ≠ e.attrs.nu)).toNat +
            4 * (decide (old.foreign ≠ e.attrs.foreign)).toNat +
            8 * (decide (old.srlgs ≠ e.attrs.srlgs ∨ old.truncated ≠ e.attrs.truncated)).toNat +
            16 * (decide (old.interDomain ≠ e.attrs.interDomain)).toNat),
          (30, 2, e.attrs.cost), (32, 2, e.attrs.nu), (34, 1, e.attrs.interDomain.toNat + 2 * e.attrs.truncated.toNat)]) ∧
      (∀ (why : TopoReason) (former : LinkState), shows (.linkRetired k why e former) 8 0
        ([(16, 2, k), (18, 1, why.code), (19, 1, former.code)] ++ ends e))) ∧
    (∀ (why : RecordReason) (r : Line) (off : Nat), off < 65536 → shows (.recordFault why r off) 9 1
      [(16, 1, why.code), (17, 1, fieldNat r 0 1), (18, 2, fieldNat r 2 2), (20, 2, off),
        (22, 1, if fieldNat r 0 1 = 2 ∨ fieldNat r 0 1 = 3 then fieldNat r 8 1 else 0),
        (24, 4, if 1 ≤ fieldNat r 0 1 ∧ fieldNat r 0 1 ≤ 4 then fieldNat r 4 4 else 0)]) ∧
    (∀ (why : BatchReason) (kind off removed : Nat) (tag openTag : BitVec 16), kind < 256 → off < 65536 → removed < 256 →
      shows (.batchFault why kind tag openTag off removed) 10 1
        [(16, 1, why.code), (17, 1, kind), (18, 2, tag.toNat), (20, 2, openTag.toNat), (22, 2, off), (24, 1, removed)]) ∧
    (∀ (a : Addr) (o : Observed) (n : Nat), n < 256 →
      shows (.partialWrite a o n) 11 1 [(16, 1, o.code), (17, 1, n), (24, 8, a.toNat)]) ∧
    (∀ (slot kind : Nat) (tag : BitVec 32), slot < 256 → kind < 256 →
      shows (.requestRefused slot tag kind) 13 3 [(16, 1, slot), (17, 1, kind), (18, 1, 1), (20, 4, tag.toNat)])) ∧
  (∀ (s : State) (p : Nat) (r : NoticeRecord), p < 512 → r.count < 65536 →
    Shows (pathStateLine s p r) [(0, 1, 12), (1, 1, 2), (4, 4, s.notices.producer.toNat), (8, 8, s.control.time.toNat), (16, 2, p),
      (18, 2, (generationOf s p).toNat), (20, 1, ((s.paths.entries.get? p).map (·.state.code)).getD 0),
      (21, 1, pathReasonCode r.reason), (22, 2, r.count)])
end

