-- ==== Sys2Proof/Laws/State.lean ====
section
/-!
SUPPORT. What each named update of the state leaves in each field, true by computation: the simp set in which no later proof needs
to unfold a record update. First the threads, then one group of lemmas for each update.
-/

namespace Sys2Proof.Machine

@[simp] theorem Threads.get_put_self (ts : Threads) (t : Thread) (ops : List Op) : (ts.put t ops).get t = ops := by
  cases t <;> rfl

theorem Threads.get_put_ne (ts : Threads) {t u : Thread} (ops : List Op) (h : u ≠ t) : (ts.put t ops).get u = ts.get u := by
  cases t <;> cases u <;> first | rfl | exact absurd rfl h

theorem Threads.get_put (ts : Threads) (t u : Thread) (ops : List Op) :
    (ts.put t ops).get u = if u = t then ops else ts.get u := by
  split
  · rename_i h
    subst h
    simp
  · rename_i h
    exact Threads.get_put_ne ts ops h

@[simp] theorem Thread.mem_all (t : Thread) : t ∈ Thread.all := by cases t <;> decide

section
variable (s : State)

/-! ### putOps -/

@[simp] theorem State.putOps_inReset (t : Thread) (ops : List Op) : (s.putOps t ops).inReset = s.inReset := rfl
@[simp] theorem State.putOps_pending (t : Thread) (ops : List Op) : (s.putOps t ops).pending = s.pending := rfl
@[simp] theorem State.putOps_system (t : Thread) (ops : List Op) : (s.putOps t ops).system = s.system := rfl
@[simp] theorem State.putOps_memory (t : Thread) (ops : List Op) : (s.putOps t ops).memory = s.memory := rfl
@[simp] theorem State.putOps_decoder (t : Thread) (ops : List Op) : (s.putOps t ops).decoder = s.decoder := rfl
@[simp] theorem State.putOps_writeBack (t : Thread) (ops : List Op) : (s.putOps t ops).writeBack = s.writeBack := rfl
@[simp] theorem State.putOps_control (t : Thread) (ops : List Op) : (s.putOps t ops).control = s.control := rfl
@[simp] theorem State.putOps_profiles (t : Thread) (ops : List Op) : (s.putOps t ops).profiles = s.profiles := rfl
@[simp] theorem State.putOps_intake (t : Thread) (ops : List Op) : (s.putOps t ops).intake = s.intake := rfl
@[simp] theorem State.putOps_topology (t : Thread) (ops : List Op) : (s.putOps t ops).topology = s.topology := rfl
@[simp] theorem State.putOps_arbiter (t : Thread) (ops : List Op) : (s.putOps t ops).arbiter = s.arbiter := rfl
@[simp] theorem State.putOps_engine (t : Thread) (ops : List Op) : (s.putOps t ops).engine = s.engine := rfl
@[simp] theorem State.putOps_paths (t : Thread) (ops : List Op) : (s.putOps t ops).paths = s.paths := rfl
@[simp] theorem State.putOps_notices (t : Thread) (ops : List Op) : (s.putOps t ops).notices = s.notices := rfl
@[simp] theorem State.putOps_threads (t : Thread) (ops : List Op) : (s.putOps t ops).threads = s.threads.put t ops := rfl

/-! ### addOps -/

@[simp] theorem State.addOps_inReset (t : Thread) (ops : List Op) : (s.addOps t ops).inReset = s.inReset := rfl
@[simp] theorem State.addOps_pending (t : Thread) (ops : List Op) : (s.addOps t ops).pending = s.pending := rfl
@[simp] theorem State.addOps_system (t : Thread) (ops : List Op) : (s.addOps t ops).system = s.system := rfl
@[simp] theorem State.addOps_memory (t : Thread) (ops : List Op) : (s.addOps t ops).memory = s.memory := rfl
@[simp] theorem State.addOps_decoder (t : Thread) (ops : List Op) : (s.addOps t ops).decoder = s.decoder := rfl
@[simp] theorem State.addOps_writeBack (t : Thread) (ops : List Op) : (s.addOps t ops).writeBack = s.writeBack := rfl
@[simp] theorem State.addOps_control (t : Thread) (ops : List Op) : (s.addOps t ops).control = s.control := rfl
@[simp] theorem State.addOps_profiles (t : Thread) (ops : List Op) : (s.addOps t ops).profiles = s.profiles := rfl
@[simp] theorem State.addOps_intake (t : Thread) (ops : List Op) : (s.addOps t ops).intake = s.intake := rfl
@[simp] theorem State.addOps_topology (t : Thread) (ops : List Op) : (s.addOps t ops).topology = s.topology := rfl
@[simp] theorem State.addOps_arbiter (t : Thread) (ops : List Op) : (s.addOps t ops).arbiter = s.arbiter := rfl
@[simp] theorem State.addOps_engine (t : Thread) (ops : List Op) : (s.addOps t ops).engine = s.engine := rfl
@[simp] theorem State.addOps_paths (t : Thread) (ops : List Op) : (s.addOps t ops).paths = s.paths := rfl
@[simp] theorem State.addOps_notices (t : Thread) (ops : List Op) : (s.addOps t ops).notices = s.notices := rfl
@[simp] theorem State.addOps_threads (t : Thread) (ops : List Op) : (s.addOps t ops).threads = s.threads.put t (s.threads.get t ++ ops) := rfl

/-! ### enqueue -/

@[simp] theorem enqueue_inReset (x : WbItem) : (enqueue s x).inReset = s.inReset := rfl
@[simp] theorem enqueue_pending (x : WbItem) : (enqueue s x).pending = s.pending := rfl
@[simp] theorem enqueue_system (x : WbItem) : (enqueue s x).system = s.system := rfl
@[simp] theorem enqueue_memory (x : WbItem) : (enqueue s x).memory = s.memory := rfl
@[simp] theorem enqueue_decoder (x : WbItem) : (enqueue s x).decoder = s.decoder := rfl
@[simp] theorem enqueue_writeBack (x : WbItem) : (enqueue s x).writeBack = { s.writeBack with queue := s.writeBack.queue ++ [x] } := rfl
@[simp] theorem enqueue_control (x : WbItem) : (enqueue s x).control = s.control := rfl
@[simp] theorem enqueue_profiles (x : WbItem) : (enqueue s x).profiles = s.profiles := rfl
@[simp] theorem enqueue_intake (x : WbItem) : (enqueue s x).intake = s.intake := rfl
@[simp] theorem enqueue_topology (x : WbItem) : (enqueue s x).topology = s.topology := rfl
@[simp] theorem enqueue_arbiter (x : WbItem) : (enqueue s x).arbiter = s.arbiter := rfl
@[simp] theorem enqueue_engine (x : WbItem) : (enqueue s x).engine = s.engine := rfl
@[simp] theorem enqueue_paths (x : WbItem) : (enqueue s x).paths = s.paths := rfl
@[simp] theorem enqueue_notices (x : WbItem) : (enqueue s x).notices = s.notices := rfl
@[simp] theorem enqueue_threads (x : WbItem) : (enqueue s x).threads = s.threads := rfl

/-! ### beginWait -/

@[simp] theorem beginWait_inReset (w : Waiter) : (beginWait s w).inReset = s.inReset := rfl
@[simp] theorem beginWait_pending (w : Waiter) : (beginWait s w).pending = s.pending := rfl
@[simp] theorem beginWait_system (w : Waiter) : (beginWait s w).system = s.system := rfl
@[simp] theorem beginWait_memory (w : Waiter) : (beginWait s w).memory = s.memory := rfl
@[simp] theorem beginWait_decoder (w : Waiter) : (beginWait s w).decoder = s.decoder := rfl
@[simp] theorem beginWait_writeBack (w : Waiter) : (beginWait s w).writeBack = { s.writeBack with waiters := s.writeBack.waiters ++ [w] } := rfl
@[simp] theorem beginWait_control (w : Waiter) : (beginWait s w).control = s.control := rfl
@[simp] theorem beginWait_profiles (w : Waiter) : (beginWait s w).profiles = s.profiles := rfl
@[simp] theorem beginWait_intake (w : Waiter) : (beginWait s w).intake = s.intake := rfl
@[simp] theorem beginWait_topology (w : Waiter) : (beginWait s w).topology = s.topology := rfl
@[simp] theorem beginWait_arbiter (w : Waiter) : (beginWait s w).arbiter = s.arbiter := rfl
@[simp] theorem beginWait_engine (w : Waiter) : (beginWait s w).engine = s.engine := rfl
@[simp] theorem beginWait_paths (w : Waiter) : (beginWait s w).paths = s.paths := rfl
@[simp] theorem beginWait_notices (w : Waiter) : (beginWait s w).notices = s.notices := rfl
@[simp] theorem beginWait_threads (w : Waiter) : (beginWait s w).threads = s.threads := rfl

/-! ### noteStatus -/

@[simp] theorem noteStatus_inReset : (noteStatus s).inReset = s.inReset := rfl
@[simp] theorem noteStatus_pending : (noteStatus s).pending = s.pending := rfl
@[simp] theorem noteStatus_system : (noteStatus s).system = s.system := rfl
@[simp] theorem noteStatus_memory : (noteStatus s).memory = s.memory := rfl
@[simp] theorem noteStatus_decoder : (noteStatus s).decoder = s.decoder := rfl
@[simp] theorem noteStatus_writeBack : (noteStatus s).writeBack = s.writeBack.noted := rfl
@[simp] theorem noteStatus_control : (noteStatus s).control = s.control := rfl
@[simp] theorem noteStatus_profiles : (noteStatus s).profiles = s.profiles := rfl
@[simp] theorem noteStatus_intake : (noteStatus s).intake = s.intake := rfl
@[simp] theorem noteStatus_topology : (noteStatus s).topology = s.topology := rfl
@[simp] theorem noteStatus_arbiter : (noteStatus s).arbiter = s.arbiter := rfl
@[simp] theorem noteStatus_engine : (noteStatus s).engine = s.engine := rfl
@[simp] theorem noteStatus_paths : (noteStatus s).paths = s.paths := rfl
@[simp] theorem noteStatus_notices : (noteStatus s).notices = s.notices := rfl
@[simp] theorem noteStatus_threads : (noteStatus s).threads = s.threads := rfl

/-! ### dropWaiter -/

@[simp] theorem dropWaiter_inReset : (dropWaiter s).inReset = s.inReset := rfl
@[simp] theorem dropWaiter_pending : (dropWaiter s).pending = s.pending := rfl
@[simp] theorem dropWaiter_system : (dropWaiter s).system = s.system := rfl
@[simp] theorem dropWaiter_memory : (dropWaiter s).memory = s.memory := rfl
@[simp] theorem dropWaiter_decoder : (dropWaiter s).decoder = s.decoder := rfl
@[simp] theorem dropWaiter_writeBack : (dropWaiter s).writeBack = { s.writeBack with waiters := s.writeBack.waiters.tail } := rfl
@[simp] theorem dropWaiter_control : (dropWaiter s).control = s.control := rfl
@[simp] theorem dropWaiter_profiles : (dropWaiter s).profiles = s.profiles := rfl
@[simp] theorem dropWaiter_intake : (dropWaiter s).intake = s.intake := rfl
@[simp] theorem dropWaiter_topology : (dropWaiter s).topology = s.topology := rfl
@[simp] theorem dropWaiter_arbiter : (dropWaiter s).arbiter = s.arbiter := rfl
@[simp] theorem dropWaiter_engine : (dropWaiter s).engine = s.engine := rfl
@[simp] theorem dropWaiter_paths : (dropWaiter s).paths = s.paths := rfl
@[simp] theorem dropWaiter_notices : (dropWaiter s).notices = s.notices := rfl
@[simp] theorem dropWaiter_threads : (dropWaiter s).threads = s.threads := rfl

/-! ### enterSequence -/

@[simp] theorem enterSequence_inReset (x : MemTxn) : (enterSequence s x).inReset = s.inReset := rfl
@[simp] theorem enterSequence_pending (x : MemTxn) : (enterSequence s x).pending = s.pending := rfl
@[simp] theorem enterSequence_system (x : MemTxn) : (enterSequence s x).system = s.system := rfl
@[simp] theorem enterSequence_memory (x : MemTxn) : (enterSequence s x).memory = { s.memory with sequence := s.memory.sequence ++ [x] } := rfl
@[simp] theorem enterSequence_decoder (x : MemTxn) : (enterSequence s x).decoder = s.decoder := rfl
@[simp] theorem enterSequence_writeBack (x : MemTxn) : (enterSequence s x).writeBack = s.writeBack := rfl
@[simp] theorem enterSequence_control (x : MemTxn) : (enterSequence s x).control = s.control := rfl
@[simp] theorem enterSequence_profiles (x : MemTxn) : (enterSequence s x).profiles = s.profiles := rfl
@[simp] theorem enterSequence_intake (x : MemTxn) : (enterSequence s x).intake = s.intake := rfl
@[simp] theorem enterSequence_topology (x : MemTxn) : (enterSequence s x).topology = s.topology := rfl
@[simp] theorem enterSequence_arbiter (x : MemTxn) : (enterSequence s x).arbiter = s.arbiter := rfl
@[simp] theorem enterSequence_engine (x : MemTxn) : (enterSequence s x).engine = s.engine := rfl
@[simp] theorem enterSequence_paths (x : MemTxn) : (enterSequence s x).paths = s.paths := rfl
@[simp] theorem enterSequence_notices (x : MemTxn) : (enterSequence s x).notices = s.notices := rfl
@[simp] theorem enterSequence_threads (x : MemTxn) : (enterSequence s x).threads = s.threads := rfl

/-! ### forwardRead -/

@[simp] theorem forwardRead_inReset (a : Addr) (n : Nat) : (forwardRead s a n).inReset = s.inReset := rfl
@[simp] theorem forwardRead_pending (a : Addr) (n : Nat) : (forwardRead s a n).pending = s.pending := rfl
@[simp] theorem forwardRead_system (a : Addr) (n : Nat) : (forwardRead s a n).system = s.system := rfl
@[simp] theorem forwardRead_memory (a : Addr) (n : Nat) : (forwardRead s a n).memory = { s.memory with
      sequence := s.memory.sequence ++ [.read a n], reads := s.memory.reads ++ [(n, a)] } := rfl
@[simp] theorem forwardRead_decoder (a : Addr) (n : Nat) : (forwardRead s a n).decoder = s.decoder := rfl
@[simp] theorem forwardRead_writeBack (a : Addr) (n : Nat) : (forwardRead s a n).writeBack = s.writeBack := rfl
@[simp] theorem forwardRead_control (a : Addr) (n : Nat) : (forwardRead s a n).control = s.control := rfl
@[simp] theorem forwardRead_profiles (a : Addr) (n : Nat) : (forwardRead s a n).profiles = s.profiles := rfl
@[simp] theorem forwardRead_intake (a : Addr) (n : Nat) : (forwardRead s a n).intake = s.intake := rfl
@[simp] theorem forwardRead_topology (a : Addr) (n : Nat) : (forwardRead s a n).topology = s.topology := rfl
@[simp] theorem forwardRead_arbiter (a : Addr) (n : Nat) : (forwardRead s a n).arbiter = s.arbiter := rfl
@[simp] theorem forwardRead_engine (a : Addr) (n : Nat) : (forwardRead s a n).engine = s.engine := rfl
@[simp] theorem forwardRead_paths (a : Addr) (n : Nat) : (forwardRead s a n).paths = s.paths := rfl
@[simp] theorem forwardRead_notices (a : Addr) (n : Nat) : (forwardRead s a n).notices = s.notices := rfl
@[simp] theorem forwardRead_threads (a : Addr) (n : Nat) : (forwardRead s a n).threads = s.threads := rfl

/-! ### present -/

@[simp] theorem present_inReset (w : LineWrite) : (present s w).inReset = s.inReset := rfl
@[simp] theorem present_pending (w : LineWrite) : (present s w).pending = s.pending := rfl
@[simp] theorem present_system (w : LineWrite) : (present s w).system = { s.system with channel := s.system.channel ++ [w] } := rfl
@[simp] theorem present_memory (w : LineWrite) : (present s w).memory = s.memory := rfl
@[simp] theorem present_decoder (w : LineWrite) : (present s w).decoder = s.decoder := rfl
@[simp] theorem present_writeBack (w : LineWrite) : (present s w).writeBack = s.writeBack := rfl
@[simp] theorem present_control (w : LineWrite) : (present s w).control = s.control := rfl
@[simp] theorem present_profiles (w : LineWrite) : (present s w).profiles = s.profiles := rfl
@[simp] theorem present_intake (w : LineWrite) : (present s w).intake = s.intake := rfl
@[simp] theorem present_topology (w : LineWrite) : (present s w).topology = s.topology := rfl
@[simp] theorem present_arbiter (w : LineWrite) : (present s w).arbiter = s.arbiter := rfl
@[simp] theorem present_engine (w : LineWrite) : (present s w).engine = s.engine := rfl
@[simp] theorem present_paths (w : LineWrite) : (present s w).paths = s.paths := rfl
@[simp] theorem present_notices (w : LineWrite) : (present s w).notices = s.notices := rfl
@[simp] theorem present_threads (w : LineWrite) : (present s w).threads = s.threads := rfl

/-! ### setNode -/

@[simp] theorem setNode_inReset (i : Nat) (e : NodeEntry) : (setNode s i e).inReset = s.inReset := rfl
@[simp] theorem setNode_pending (i : Nat) (e : NodeEntry) : (setNode s i e).pending = s.pending := rfl
@[simp] theorem setNode_system (i : Nat) (e : NodeEntry) : (setNode s i e).system = s.system := rfl
@[simp] theorem setNode_memory (i : Nat) (e : NodeEntry) : (setNode s i e).memory = s.memory := rfl
@[simp] theorem setNode_decoder (i : Nat) (e : NodeEntry) : (setNode s i e).decoder = s.decoder := rfl
@[simp] theorem setNode_writeBack (i : Nat) (e : NodeEntry) : (setNode s i e).writeBack = s.writeBack := rfl
@[simp] theorem setNode_control (i : Nat) (e : NodeEntry) : (setNode s i e).control = s.control := rfl
@[simp] theorem setNode_profiles (i : Nat) (e : NodeEntry) : (setNode s i e).profiles = s.profiles := rfl
@[simp] theorem setNode_intake (i : Nat) (e : NodeEntry) : (setNode s i e).intake = s.intake := rfl
@[simp] theorem setNode_topology (i : Nat) (e : NodeEntry) : (setNode s i e).topology = { s.topology with nodes := s.topology.nodes.set i e } := rfl
@[simp] theorem setNode_arbiter (i : Nat) (e : NodeEntry) : (setNode s i e).arbiter = s.arbiter := rfl
@[simp] theorem setNode_engine (i : Nat) (e : NodeEntry) : (setNode s i e).engine = s.engine := rfl
@[simp] theorem setNode_paths (i : Nat) (e : NodeEntry) : (setNode s i e).paths = s.paths := rfl
@[simp] theorem setNode_notices (i : Nat) (e : NodeEntry) : (setNode s i e).notices = s.notices := rfl
@[simp] theorem setNode_threads (i : Nat) (e : NodeEntry) : (setNode s i e).threads = s.threads := rfl

/-! ### setPort -/

@[simp] theorem setPort_inReset (j : Nat) (e : PortEntry) : (setPort s j e).inReset = s.inReset := rfl
@[simp] theorem setPort_pending (j : Nat) (e : PortEntry) : (setPort s j e).pending = s.pending := rfl
@[simp] theorem setPort_system (j : Nat) (e : PortEntry) : (setPort s j e).system = s.system := rfl
@[simp] theorem setPort_memory (j : Nat) (e : PortEntry) : (setPort s j e).memory = s.memory := rfl
@[simp] theorem setPort_decoder (j : Nat) (e : PortEntry) : (setPort s j e).decoder = s.decoder := rfl
@[simp] theorem setPort_writeBack (j : Nat) (e : PortEntry) : (setPort s j e).writeBack = s.writeBack := rfl
@[simp] theorem setPort_control (j : Nat) (e : PortEntry) : (setPort s j e).control = s.control := rfl
@[simp] theorem setPort_profiles (j : Nat) (e : PortEntry) : (setPort s j e).profiles = s.profiles := rfl
@[simp] theorem setPort_intake (j : Nat) (e : PortEntry) : (setPort s j e).intake = s.intake := rfl
@[simp] theorem setPort_topology (j : Nat) (e : PortEntry) : (setPort s j e).topology = { s.topology with ports := s.topology.ports.set j e } := rfl
@[simp] theorem setPort_arbiter (j : Nat) (e : PortEntry) : (setPort s j e).arbiter = s.arbiter := rfl
@[simp] theorem setPort_engine (j : Nat) (e : PortEntry) : (setPort s j e).engine = s.engine := rfl
@[simp] theorem setPort_paths (j : Nat) (e : PortEntry) : (setPort s j e).paths = s.paths := rfl
@[simp] theorem setPort_notices (j : Nat) (e : PortEntry) : (setPort s j e).notices = s.notices := rfl
@[simp] theorem setPort_threads (j : Nat) (e : PortEntry) : (setPort s j e).threads = s.threads := rfl

/-! ### setLink -/

@[simp] theorem setLink_inReset (k : Nat) (e : LinkEntry) : (setLink s k e).inReset = s.inReset := rfl
@[simp] theorem setLink_pending (k : Nat) (e : LinkEntry) : (setLink s k e).pending = s.pending := rfl
@[simp] theorem setLink_system (k : Nat) (e : LinkEntry) : (setLink s k e).system = s.system := rfl
@[simp] theorem setLink_memory (k : Nat) (e : LinkEntry) : (setLink s k e).memory = s.memory := rfl
@[simp] theorem setLink_decoder (k : Nat) (e : LinkEntry) : (setLink s k e).decoder = s.decoder := rfl
@[simp] theorem setLink_writeBack (k : Nat) (e : LinkEntry) : (setLink s k e).writeBack = s.writeBack := rfl
@[simp] theorem setLink_control (k : Nat) (e : LinkEntry) : (setLink s k e).control = s.control := rfl
@[simp] theorem setLink_profiles (k : Nat) (e : LinkEntry) : (setLink s k e).profiles = s.profiles := rfl
@[simp] theorem setLink_intake (k : Nat) (e : LinkEntry) : (setLink s k e).intake = s.intake := rfl
@[simp] theorem setLink_topology (k : Nat) (e : LinkEntry) : (setLink s k e).topology = { s.topology with links := s.topology.links.set k e } := rfl
@[simp] theorem setLink_arbiter (k : Nat) (e : LinkEntry) : (setLink s k e).arbiter = s.arbiter := rfl
@[simp] theorem setLink_engine (k : Nat) (e : LinkEntry) : (setLink s k e).engine = s.engine := rfl
@[simp] theorem setLink_paths (k : Nat) (e : LinkEntry) : (setLink s k e).paths = s.paths := rfl
@[simp] theorem setLink_notices (k : Nat) (e : LinkEntry) : (setLink s k e).notices = s.notices := rfl
@[simp] theorem setLink_threads (k : Nat) (e : LinkEntry) : (setLink s k e).threads = s.threads := rfl

/-! ### freeLink -/

@[simp] theorem freeLink_inReset (k : Nat) : (freeLink s k).inReset = s.inReset := rfl
@[simp] theorem freeLink_pending (k : Nat) : (freeLink s k).pending = s.pending := rfl
@[simp] theorem freeLink_system (k : Nat) : (freeLink s k).system = s.system := rfl
@[simp] theorem freeLink_memory (k : Nat) : (freeLink s k).memory = s.memory := rfl
@[simp] theorem freeLink_decoder (k : Nat) : (freeLink s k).decoder = s.decoder := rfl
@[simp] theorem freeLink_writeBack (k : Nat) : (freeLink s k).writeBack = s.writeBack := rfl
@[simp] theorem freeLink_control (k : Nat) : (freeLink s k).control = s.control := rfl
@[simp] theorem freeLink_profiles (k : Nat) : (freeLink s k).profiles = s.profiles := rfl
@[simp] theorem freeLink_intake (k : Nat) : (freeLink s k).intake = s.intake := rfl
@[simp] theorem freeLink_topology (k : Nat) : (freeLink s k).topology = { s.topology with links := s.topology.links.erase k } := rfl
@[simp] theorem freeLink_arbiter (k : Nat) : (freeLink s k).arbiter = s.arbiter := rfl
@[simp] theorem freeLink_engine (k : Nat) : (freeLink s k).engine = s.engine := rfl
@[simp] theorem freeLink_paths (k : Nat) : (freeLink s k).paths = s.paths := rfl
@[simp] theorem freeLink_notices (k : Nat) : (freeLink s k).notices = s.notices := rfl
@[simp] theorem freeLink_threads (k : Nat) : (freeLink s k).threads = s.threads := rfl

/-! ### setPairing -/

@[simp] theorem setPairing_inReset (j : Nat) (p : Pairing) (l : Option Nat) : (setPairing s j p l).inReset = s.inReset := rfl
@[simp] theorem setPairing_pending (j : Nat) (p : Pairing) (l : Option Nat) : (setPairing s j p l).pending = s.pending := rfl
@[simp] theorem setPairing_system (j : Nat) (p : Pairing) (l : Option Nat) : (setPairing s j p l).system = s.system := rfl
@[simp] theorem setPairing_memory (j : Nat) (p : Pairing) (l : Option Nat) : (setPairing s j p l).memory = s.memory := rfl
@[simp] theorem setPairing_decoder (j : Nat) (p : Pairing) (l : Option Nat) : (setPairing s j p l).decoder = s.decoder := rfl
@[simp] theorem setPairing_writeBack (j : Nat) (p : Pairing) (l : Option Nat) : (setPairing s j p l).writeBack = s.writeBack := rfl
@[simp] theorem setPairing_control (j : Nat) (p : Pairing) (l : Option Nat) : (setPairing s j p l).control = s.control := rfl
@[simp] theorem setPairing_profiles (j : Nat) (p : Pairing) (l : Option Nat) : (setPairing s j p l).profiles = s.profiles := rfl
@[simp] theorem setPairing_intake (j : Nat) (p : Pairing) (l : Option Nat) : (setPairing s j p l).intake = s.intake := rfl
@[simp] theorem setPairing_topology (j : Nat) (p : Pairing) (l : Option Nat) : (setPairing s j p l).topology = { s.topology with
      ports := s.topology.ports.modify j (fun e => { e with pairing := p, link := l }) } := rfl
@[simp] theorem setPairing_arbiter (j : Nat) (p : Pairing) (l : Option Nat) : (setPairing s j p l).arbiter = s.arbiter := rfl
@[simp] theorem setPairing_engine (j : Nat) (p : Pairing) (l : Option Nat) : (setPairing s j p l).engine = s.engine := rfl
@[simp] theorem setPairing_paths (j : Nat) (p : Pairing) (l : Option Nat) : (setPairing s j p l).paths = s.paths := rfl
@[simp] theorem setPairing_notices (j : Nat) (p : Pairing) (l : Option Nat) : (setPairing s j p l).notices = s.notices := rfl
@[simp] theorem setPairing_threads (j : Nat) (p : Pairing) (l : Option Nat) : (setPairing s j p l).threads = s.threads := rfl

/-! ### setPortCount -/

@[simp] theorem setPortCount_inReset (i : Nat) (f : Nat → Nat) : (setPortCount s i f).inReset = s.inReset := rfl
@[simp] theorem setPortCount_pending (i : Nat) (f : Nat → Nat) : (setPortCount s i f).pending = s.pending := rfl
@[simp] theorem setPortCount_system (i : Nat) (f : Nat → Nat) : (setPortCount s i f).system = s.system := rfl
@[simp] theorem setPortCount_memory (i : Nat) (f : Nat → Nat) : (setPortCount s i f).memory = s.memory := rfl
@[simp] theorem setPortCount_decoder (i : Nat) (f : Nat → Nat) : (setPortCount s i f).decoder = s.decoder := rfl
@[simp] theorem setPortCount_writeBack (i : Nat) (f : Nat → Nat) : (setPortCount s i f).writeBack = s.writeBack := rfl
@[simp] theorem setPortCount_control (i : Nat) (f : Nat → Nat) : (setPortCount s i f).control = s.control := rfl
@[simp] theorem setPortCount_profiles (i : Nat) (f : Nat → Nat) : (setPortCount s i f).profiles = s.profiles := rfl
@[simp] theorem setPortCount_intake (i : Nat) (f : Nat → Nat) : (setPortCount s i f).intake = s.intake := rfl
@[simp] theorem setPortCount_topology (i : Nat) (f : Nat → Nat) : (setPortCount s i f).topology = { s.topology with
      nodes := s.topology.nodes.modify i (fun e => { e with portCount := f e.portCount }) } := rfl
@[simp] theorem setPortCount_arbiter (i : Nat) (f : Nat → Nat) : (setPortCount s i f).arbiter = s.arbiter := rfl
@[simp] theorem setPortCount_engine (i : Nat) (f : Nat → Nat) : (setPortCount s i f).engine = s.engine := rfl
@[simp] theorem setPortCount_paths (i : Nat) (f : Nat → Nat) : (setPortCount s i f).paths = s.paths := rfl
@[simp] theorem setPortCount_notices (i : Nat) (f : Nat → Nat) : (setPortCount s i f).notices = s.notices := rfl
@[simp] theorem setPortCount_threads (i : Nat) (f : Nat → Nat) : (setPortCount s i f).threads = s.threads := rfl

/-! ### setReserved -/

@[simp] theorem setReserved_inReset (k : Nat) (v : SlotSet) : (setReserved s k v).inReset = s.inReset := rfl
@[simp] theorem setReserved_pending (k : Nat) (v : SlotSet) : (setReserved s k v).pending = s.pending := rfl
@[simp] theorem setReserved_system (k : Nat) (v : SlotSet) : (setReserved s k v).system = s.system := rfl
@[simp] theorem setReserved_memory (k : Nat) (v : SlotSet) : (setReserved s k v).memory = s.memory := rfl
@[simp] theorem setReserved_decoder (k : Nat) (v : SlotSet) : (setReserved s k v).decoder = s.decoder := rfl
@[simp] theorem setReserved_writeBack (k : Nat) (v : SlotSet) : (setReserved s k v).writeBack = s.writeBack := rfl
@[simp] theorem setReserved_control (k : Nat) (v : SlotSet) : (setReserved s k v).control = s.control := rfl
@[simp] theorem setReserved_profiles (k : Nat) (v : SlotSet) : (setReserved s k v).profiles = s.profiles := rfl
@[simp] theorem setReserved_intake (k : Nat) (v : SlotSet) : (setReserved s k v).intake = s.intake := rfl
@[simp] theorem setReserved_topology (k : Nat) (v : SlotSet) : (setReserved s k v).topology = s.topology := rfl
@[simp] theorem setReserved_arbiter (k : Nat) (v : SlotSet) : (setReserved s k v).arbiter = s.arbiter := rfl
@[simp] theorem setReserved_engine (k : Nat) (v : SlotSet) : (setReserved s k v).engine = s.engine := rfl
@[simp] theorem setReserved_paths (k : Nat) (v : SlotSet) : (setReserved s k v).paths = { s.paths with reserved := s.paths.reserved.setD k 0 v } := rfl
@[simp] theorem setReserved_notices (k : Nat) (v : SlotSet) : (setReserved s k v).notices = s.notices := rfl
@[simp] theorem setReserved_threads (k : Nat) (v : SlotSet) : (setReserved s k v).threads = s.threads := rfl

/-! ### setFlag -/

@[simp] theorem setFlag_inReset (k : Nat) (b : Bool) : (setFlag s k b).inReset = s.inReset := rfl
@[simp] theorem setFlag_pending (k : Nat) (b : Bool) : (setFlag s k b).pending = s.pending := rfl
@[simp] theorem setFlag_system (k : Nat) (b : Bool) : (setFlag s k b).system = s.system := rfl
@[simp] theorem setFlag_memory (k : Nat) (b : Bool) : (setFlag s k b).memory = s.memory := rfl
@[simp] theorem setFlag_decoder (k : Nat) (b : Bool) : (setFlag s k b).decoder = s.decoder := rfl
@[simp] theorem setFlag_writeBack (k : Nat) (b : Bool) : (setFlag s k b).writeBack = s.writeBack := rfl
@[simp] theorem setFlag_control (k : Nat) (b : Bool) : (setFlag s k b).control = s.control := rfl
@[simp] theorem setFlag_profiles (k : Nat) (b : Bool) : (setFlag s k b).profiles = s.profiles := rfl
@[simp] theorem setFlag_intake (k : Nat) (b : Bool) : (setFlag s k b).intake = s.intake := rfl
@[simp] theorem setFlag_topology (k : Nat) (b : Bool) : (setFlag s k b).topology = s.topology := rfl
@[simp] theorem setFlag_arbiter (k : Nat) (b : Bool) : (setFlag s k b).arbiter = s.arbiter := rfl
@[simp] theorem setFlag_engine (k : Nat) (b : Bool) : (setFlag s k b).engine = s.engine := rfl
@[simp] theorem setFlag_paths (k : Nat) (b : Bool) : (setFlag s k b).paths = { s.paths with
      view := if b then insertNat k s.paths.view else removeNat k s.paths.view } := rfl
@[simp] theorem setFlag_notices (k : Nat) (b : Bool) : (setFlag s k b).notices = s.notices := rfl
@[simp] theorem setFlag_threads (k : Nat) (b : Bool) : (setFlag s k b).threads = s.threads := rfl

/-! ### setRecord -/

@[simp] theorem setRecord_inReset (p : Nat) (r : NoticeRecord) : (setRecord s p r).inReset = s.inReset := rfl
@[simp] theorem setRecord_pending (p : Nat) (r : NoticeRecord) : (setRecord s p r).pending = s.pending := rfl
@[simp] theorem setRecord_system (p : Nat) (r : NoticeRecord) : (setRecord s p r).system = s.system := rfl
@[simp] theorem setRecord_memory (p : Nat) (r : NoticeRecord) : (setRecord s p r).memory = s.memory := rfl
@[simp] theorem setRecord_decoder (p : Nat) (r : NoticeRecord) : (setRecord s p r).decoder = s.decoder := rfl
@[simp] theorem setRecord_writeBack (p : Nat) (r : NoticeRecord) : (setRecord s p r).writeBack = s.writeBack := rfl
@[simp] theorem setRecord_control (p : Nat) (r : NoticeRecord) : (setRecord s p r).control = s.control := rfl
@[simp] theorem setRecord_profiles (p : Nat) (r : NoticeRecord) : (setRecord s p r).profiles = s.profiles := rfl
@[simp] theorem setRecord_intake (p : Nat) (r : NoticeRecord) : (setRecord s p r).intake = s.intake := rfl
@[simp] theorem setRecord_topology (p : Nat) (r : NoticeRecord) : (setRecord s p r).topology = s.topology := rfl
@[simp] theorem setRecord_arbiter (p : Nat) (r : NoticeRecord) : (setRecord s p r).arbiter = s.arbiter := rfl
@[simp] theorem setRecord_engine (p : Nat) (r : NoticeRecord) : (setRecord s p r).engine = s.engine := rfl
@[simp] theorem setRecord_paths (p : Nat) (r : NoticeRecord) : (setRecord s p r).paths = s.paths := rfl
@[simp] theorem setRecord_notices (p : Nat) (r : NoticeRecord) : (setRecord s p r).notices = { s.notices with records := s.notices.records.setD p NoticeRecord.idle r } := rfl
@[simp] theorem setRecord_threads (p : Nat) (r : NoticeRecord) : (setRecord s p r).threads = s.threads := rfl

/-! ### endTurn -/

@[simp] theorem endTurn_inReset : (endTurn s).inReset = s.inReset := rfl
@[simp] theorem endTurn_pending : (endTurn s).pending = s.pending := rfl
@[simp] theorem endTurn_system : (endTurn s).system = s.system := rfl
@[simp] theorem endTurn_memory : (endTurn s).memory = s.memory := rfl
@[simp] theorem endTurn_decoder : (endTurn s).decoder = s.decoder := rfl
@[simp] theorem endTurn_writeBack : (endTurn s).writeBack = s.writeBack := rfl
@[simp] theorem endTurn_control : (endTurn s).control = s.control := rfl
@[simp] theorem endTurn_profiles : (endTurn s).profiles = s.profiles := rfl
@[simp] theorem endTurn_intake : (endTurn s).intake = s.intake := rfl
@[simp] theorem endTurn_topology : (endTurn s).topology = s.topology := rfl
@[simp] theorem endTurn_arbiter : (endTurn s).arbiter = s.arbiter := rfl
@[simp] theorem endTurn_engine : (endTurn s).engine = s.engine := rfl
@[simp] theorem endTurn_paths : (endTurn s).paths = s.paths := rfl
@[simp] theorem endTurn_notices : (endTurn s).notices = { s.notices with turn := s.notices.turn.tail } := rfl
@[simp] theorem endTurn_threads : (endTurn s).threads = s.threads := rfl

/-! ### setLost -/

@[simp] theorem setLost_inReset : (setLost s).inReset = s.inReset := rfl
@[simp] theorem setLost_pending : (setLost s).pending = s.pending := rfl
@[simp] theorem setLost_system : (setLost s).system = s.system := rfl
@[simp] theorem setLost_memory : (setLost s).memory = s.memory := rfl
@[simp] theorem setLost_decoder : (setLost s).decoder = s.decoder := rfl
@[simp] theorem setLost_writeBack : (setLost s).writeBack = s.writeBack := rfl
@[simp] theorem setLost_control : (setLost s).control = s.control := rfl
@[simp] theorem setLost_profiles : (setLost s).profiles = s.profiles := rfl
@[simp] theorem setLost_intake : (setLost s).intake = s.intake := rfl
@[simp] theorem setLost_topology : (setLost s).topology = s.topology := rfl
@[simp] theorem setLost_arbiter : (setLost s).arbiter = s.arbiter := rfl
@[simp] theorem setLost_engine : (setLost s).engine = s.engine := rfl
@[simp] theorem setLost_paths : (setLost s).paths = s.paths := rfl
@[simp] theorem setLost_notices : (setLost s).notices = { s.notices with lost := true } := rfl
@[simp] theorem setLost_threads : (setLost s).threads = s.threads := rfl

/-! ### setBatch -/

@[simp] theorem setBatch_inReset (b : BatchState) : (setBatch s b).inReset = s.inReset := rfl
@[simp] theorem setBatch_pending (b : BatchState) : (setBatch s b).pending = s.pending := rfl
@[simp] theorem setBatch_system (b : BatchState) : (setBatch s b).system = s.system := rfl
@[simp] theorem setBatch_memory (b : BatchState) : (setBatch s b).memory = s.memory := rfl
@[simp] theorem setBatch_decoder (b : BatchState) : (setBatch s b).decoder = s.decoder := rfl
@[simp] theorem setBatch_writeBack (b : BatchState) : (setBatch s b).writeBack = s.writeBack := rfl
@[simp] theorem setBatch_control (b : BatchState) : (setBatch s b).control = s.control := rfl
@[simp] theorem setBatch_profiles (b : BatchState) : (setBatch s b).profiles = s.profiles := rfl
@[simp] theorem setBatch_intake (b : BatchState) : (setBatch s b).intake = { s.intake with batch := b } := rfl
@[simp] theorem setBatch_topology (b : BatchState) : (setBatch s b).topology = s.topology := rfl
@[simp] theorem setBatch_arbiter (b : BatchState) : (setBatch s b).arbiter = s.arbiter := rfl
@[simp] theorem setBatch_engine (b : BatchState) : (setBatch s b).engine = s.engine := rfl
@[simp] theorem setBatch_paths (b : BatchState) : (setBatch s b).paths = s.paths := rfl
@[simp] theorem setBatch_notices (b : BatchState) : (setBatch s b).notices = s.notices := rfl
@[simp] theorem setBatch_threads (b : BatchState) : (setBatch s b).threads = s.threads := rfl

/-! ### abortBatch -/

@[simp] theorem abortBatch_inReset (b : BatchState) : (abortBatch s b).inReset = s.inReset := rfl
@[simp] theorem abortBatch_pending (b : BatchState) : (abortBatch s b).pending = s.pending := rfl
@[simp] theorem abortBatch_system (b : BatchState) : (abortBatch s b).system = s.system := rfl
@[simp] theorem abortBatch_memory (b : BatchState) : (abortBatch s b).memory = s.memory := rfl
@[simp] theorem abortBatch_decoder (b : BatchState) : (abortBatch s b).decoder = s.decoder := rfl
@[simp] theorem abortBatch_writeBack (b : BatchState) : (abortBatch s b).writeBack = s.writeBack := rfl
@[simp] theorem abortBatch_control (b : BatchState) : (abortBatch s b).control = s.control := rfl
@[simp] theorem abortBatch_profiles (b : BatchState) : (abortBatch s b).profiles = s.profiles := rfl
@[simp] theorem abortBatch_intake (b : BatchState) : (abortBatch s b).intake = { s.intake with
      queue := (removeOpen s.intake.queue.reverse).1.reverse, batch := b } := rfl
@[simp] theorem abortBatch_topology (b : BatchState) : (abortBatch s b).topology = s.topology := rfl
@[simp] theorem abortBatch_arbiter (b : BatchState) : (abortBatch s b).arbiter = s.arbiter := rfl
@[simp] theorem abortBatch_engine (b : BatchState) : (abortBatch s b).engine = s.engine := rfl
@[simp] theorem abortBatch_paths (b : BatchState) : (abortBatch s b).paths = s.paths := rfl
@[simp] theorem abortBatch_notices (b : BatchState) : (abortBatch s b).notices = s.notices := rfl
@[simp] theorem abortBatch_threads (b : BatchState) : (abortBatch s b).threads = s.threads := rfl

/-! ### queueRecord -/

@[simp] theorem queueRecord_inReset (r : HandedRecord) (o : Role) : (queueRecord s r o).inReset = s.inReset := rfl
@[simp] theorem queueRecord_pending (r : HandedRecord) (o : Role) : (queueRecord s r o).pending = s.pending := rfl
@[simp] theorem queueRecord_system (r : HandedRecord) (o : Role) : (queueRecord s r o).system = s.system := rfl
@[simp] theorem queueRecord_memory (r : HandedRecord) (o : Role) : (queueRecord s r o).memory = s.memory := rfl
@[simp] theorem queueRecord_decoder (r : HandedRecord) (o : Role) : (queueRecord s r o).decoder = s.decoder := rfl
@[simp] theorem queueRecord_writeBack (r : HandedRecord) (o : Role) : (queueRecord s r o).writeBack = s.writeBack := rfl
@[simp] theorem queueRecord_control (r : HandedRecord) (o : Role) : (queueRecord s r o).control = s.control := rfl
@[simp] theorem queueRecord_profiles (r : HandedRecord) (o : Role) : (queueRecord s r o).profiles = s.profiles := rfl
@[simp] theorem queueRecord_intake (r : HandedRecord) (o : Role) : (queueRecord s r o).intake = { s.intake with
      queue := s.intake.queue ++ [{ record := r.record, offset := r.offset, role := o }], taking := none } := rfl
@[simp] theorem queueRecord_topology (r : HandedRecord) (o : Role) : (queueRecord s r o).topology = s.topology := rfl
@[simp] theorem queueRecord_arbiter (r : HandedRecord) (o : Role) : (queueRecord s r o).arbiter = s.arbiter := rfl
@[simp] theorem queueRecord_engine (r : HandedRecord) (o : Role) : (queueRecord s r o).engine = s.engine := rfl
@[simp] theorem queueRecord_paths (r : HandedRecord) (o : Role) : (queueRecord s r o).paths = s.paths := rfl
@[simp] theorem queueRecord_notices (r : HandedRecord) (o : Role) : (queueRecord s r o).notices = s.notices := rfl
@[simp] theorem queueRecord_threads (r : HandedRecord) (o : Role) : (queueRecord s r o).threads = s.threads := rfl

/-! ### setQueue -/

@[simp] theorem setQueue_inReset (q : List QueuedRecord) : (setQueue s q).inReset = s.inReset := rfl
@[simp] theorem setQueue_pending (q : List QueuedRecord) : (setQueue s q).pending = s.pending := rfl
@[simp] theorem setQueue_system (q : List QueuedRecord) : (setQueue s q).system = s.system := rfl
@[simp] theorem setQueue_memory (q : List QueuedRecord) : (setQueue s q).memory = s.memory := rfl
@[simp] theorem setQueue_decoder (q : List QueuedRecord) : (setQueue s q).decoder = s.decoder := rfl
@[simp] theorem setQueue_writeBack (q : List QueuedRecord) : (setQueue s q).writeBack = s.writeBack := rfl
@[simp] theorem setQueue_control (q : List QueuedRecord) : (setQueue s q).control = s.control := rfl
@[simp] theorem setQueue_profiles (q : List QueuedRecord) : (setQueue s q).profiles = s.profiles := rfl
@[simp] theorem setQueue_intake (q : List QueuedRecord) : (setQueue s q).intake = { s.intake with queue := q } := rfl
@[simp] theorem setQueue_topology (q : List QueuedRecord) : (setQueue s q).topology = s.topology := rfl
@[simp] theorem setQueue_arbiter (q : List QueuedRecord) : (setQueue s q).arbiter = s.arbiter := rfl
@[simp] theorem setQueue_engine (q : List QueuedRecord) : (setQueue s q).engine = s.engine := rfl
@[simp] theorem setQueue_paths (q : List QueuedRecord) : (setQueue s q).paths = s.paths := rfl
@[simp] theorem setQueue_notices (q : List QueuedRecord) : (setQueue s q).notices = s.notices := rfl
@[simp] theorem setQueue_threads (q : List QueuedRecord) : (setQueue s q).threads = s.threads := rfl

/-! ### begin -/

@[simp] theorem begin_inReset (r : Line) (p : Phase) : (begin s r p).inReset = s.inReset := rfl
@[simp] theorem begin_pending (r : Line) (p : Phase) : (begin s r p).pending = s.pending := rfl
@[simp] theorem begin_system (r : Line) (p : Phase) : (begin s r p).system = s.system := rfl
@[simp] theorem begin_memory (r : Line) (p : Phase) : (begin s r p).memory = s.memory := rfl
@[simp] theorem begin_decoder (r : Line) (p : Phase) : (begin s r p).decoder = s.decoder := rfl
@[simp] theorem begin_writeBack (r : Line) (p : Phase) : (begin s r p).writeBack = s.writeBack := rfl
@[simp] theorem begin_control (r : Line) (p : Phase) : (begin s r p).control = { s.control with inProgress := some { record := r, phase := p } } := rfl
@[simp] theorem begin_profiles (r : Line) (p : Phase) : (begin s r p).profiles = s.profiles := rfl
@[simp] theorem begin_intake (r : Line) (p : Phase) : (begin s r p).intake = s.intake := rfl
@[simp] theorem begin_topology (r : Line) (p : Phase) : (begin s r p).topology = s.topology := rfl
@[simp] theorem begin_arbiter (r : Line) (p : Phase) : (begin s r p).arbiter = s.arbiter := rfl
@[simp] theorem begin_engine (r : Line) (p : Phase) : (begin s r p).engine = s.engine := rfl
@[simp] theorem begin_paths (r : Line) (p : Phase) : (begin s r p).paths = s.paths := rfl
@[simp] theorem begin_notices (r : Line) (p : Phase) : (begin s r p).notices = s.notices := rfl
@[simp] theorem begin_threads (r : Line) (p : Phase) : (begin s r p).threads = s.threads := rfl

/-! ### setMode -/

@[simp] theorem setMode_inReset (m : Mode) : (setMode s m).inReset = s.inReset := rfl
@[simp] theorem setMode_pending (m : Mode) : (setMode s m).pending = s.pending := rfl
@[simp] theorem setMode_system (m : Mode) : (setMode s m).system = s.system := rfl
@[simp] theorem setMode_memory (m : Mode) : (setMode s m).memory = s.memory := rfl
@[simp] theorem setMode_decoder (m : Mode) : (setMode s m).decoder = s.decoder := rfl
@[simp] theorem setMode_writeBack (m : Mode) : (setMode s m).writeBack = s.writeBack := rfl
@[simp] theorem setMode_control (m : Mode) : (setMode s m).control = { s.control with mode := m } := rfl
@[simp] theorem setMode_profiles (m : Mode) : (setMode s m).profiles = s.profiles := rfl
@[simp] theorem setMode_intake (m : Mode) : (setMode s m).intake = s.intake := rfl
@[simp] theorem setMode_topology (m : Mode) : (setMode s m).topology = s.topology := rfl
@[simp] theorem setMode_arbiter (m : Mode) : (setMode s m).arbiter = s.arbiter := rfl
@[simp] theorem setMode_engine (m : Mode) : (setMode s m).engine = s.engine := rfl
@[simp] theorem setMode_paths (m : Mode) : (setMode s m).paths = s.paths := rfl
@[simp] theorem setMode_notices (m : Mode) : (setMode s m).notices = s.notices := rfl
@[simp] theorem setMode_threads (m : Mode) : (setMode s m).threads = s.threads := rfl

/-! ### selectItem -/

@[simp] theorem selectItem_inReset (i : Item) (p : ItemPhase) (n : Nat) : (selectItem s i p n).inReset = s.inReset := rfl
@[simp] theorem selectItem_pending (i : Item) (p : ItemPhase) (n : Nat) : (selectItem s i p n).pending = s.pending := rfl
@[simp] theorem selectItem_system (i : Item) (p : ItemPhase) (n : Nat) : (selectItem s i p n).system = s.system := rfl
@[simp] theorem selectItem_memory (i : Item) (p : ItemPhase) (n : Nat) : (selectItem s i p n).memory = s.memory := rfl
@[simp] theorem selectItem_decoder (i : Item) (p : ItemPhase) (n : Nat) : (selectItem s i p n).decoder = s.decoder := rfl
@[simp] theorem selectItem_writeBack (i : Item) (p : ItemPhase) (n : Nat) : (selectItem s i p n).writeBack = s.writeBack := rfl
@[simp] theorem selectItem_control (i : Item) (p : ItemPhase) (n : Nat) : (selectItem s i p n).control = s.control := rfl
@[simp] theorem selectItem_profiles (i : Item) (p : ItemPhase) (n : Nat) : (selectItem s i p n).profiles = s.profiles := rfl
@[simp] theorem selectItem_intake (i : Item) (p : ItemPhase) (n : Nat) : (selectItem s i p n).intake = s.intake := rfl
@[simp] theorem selectItem_topology (i : Item) (p : ItemPhase) (n : Nat) : (selectItem s i p n).topology = s.topology := rfl
@[simp] theorem selectItem_arbiter (i : Item) (p : ItemPhase) (n : Nat) : (selectItem s i p n).arbiter = s.arbiter := rfl
@[simp] theorem selectItem_engine (i : Item) (p : ItemPhase) (n : Nat) : (selectItem s i p n).engine = s.engine := rfl
@[simp] theorem selectItem_paths (i : Item) (p : ItemPhase) (n : Nat) : (selectItem s i p n).paths = { s.paths with
      slot := some { item := i, phase := p, runBefore := s.paths.runCount }, runCount := n } := rfl
@[simp] theorem selectItem_notices (i : Item) (p : ItemPhase) (n : Nat) : (selectItem s i p n).notices = s.notices := rfl
@[simp] theorem selectItem_threads (i : Item) (p : ItemPhase) (n : Nat) : (selectItem s i p n).threads = s.threads := rfl

/-! ### setItemPhase -/

@[simp] theorem setItemPhase_inReset (o : Operation) (p : ItemPhase) : (setItemPhase s o p).inReset = s.inReset := rfl
@[simp] theorem setItemPhase_pending (o : Operation) (p : ItemPhase) : (setItemPhase s o p).pending = s.pending := rfl
@[simp] theorem setItemPhase_system (o : Operation) (p : ItemPhase) : (setItemPhase s o p).system = s.system := rfl
@[simp] theorem setItemPhase_memory (o : Operation) (p : ItemPhase) : (setItemPhase s o p).memory = s.memory := rfl
@[simp] theorem setItemPhase_decoder (o : Operation) (p : ItemPhase) : (setItemPhase s o p).decoder = s.decoder := rfl
@[simp] theorem setItemPhase_writeBack (o : Operation) (p : ItemPhase) : (setItemPhase s o p).writeBack = s.writeBack := rfl
@[simp] theorem setItemPhase_control (o : Operation) (p : ItemPhase) : (setItemPhase s o p).control = s.control := rfl
@[simp] theorem setItemPhase_profiles (o : Operation) (p : ItemPhase) : (setItemPhase s o p).profiles = s.profiles := rfl
@[simp] theorem setItemPhase_intake (o : Operation) (p : ItemPhase) : (setItemPhase s o p).intake = s.intake := rfl
@[simp] theorem setItemPhase_topology (o : Operation) (p : ItemPhase) : (setItemPhase s o p).topology = s.topology := rfl
@[simp] theorem setItemPhase_arbiter (o : Operation) (p : ItemPhase) : (setItemPhase s o p).arbiter = s.arbiter := rfl
@[simp] theorem setItemPhase_engine (o : Operation) (p : ItemPhase) : (setItemPhase s o p).engine = s.engine := rfl
@[simp] theorem setItemPhase_paths (o : Operation) (p : ItemPhase) : (setItemPhase s o p).paths = { s.paths with slot := some { o with phase := p } } := rfl
@[simp] theorem setItemPhase_notices (o : Operation) (p : ItemPhase) : (setItemPhase s o p).notices = s.notices := rfl
@[simp] theorem setItemPhase_threads (o : Operation) (p : ItemPhase) : (setItemPhase s o p).threads = s.threads := rfl

/-! ### grantTo -/

@[simp] theorem grantTo_inReset (r : Requester) : (grantTo s r).inReset = s.inReset := rfl
@[simp] theorem grantTo_pending (r : Requester) : (grantTo s r).pending = s.pending := rfl
@[simp] theorem grantTo_system (r : Requester) : (grantTo s r).system = s.system := rfl
@[simp] theorem grantTo_memory (r : Requester) : (grantTo s r).memory = s.memory := rfl
@[simp] theorem grantTo_decoder (r : Requester) : (grantTo s r).decoder = s.decoder := rfl
@[simp] theorem grantTo_writeBack (r : Requester) : (grantTo s r).writeBack = s.writeBack := rfl
@[simp] theorem grantTo_control (r : Requester) : (grantTo s r).control = s.control := rfl
@[simp] theorem grantTo_profiles (r : Requester) : (grantTo s r).profiles = s.profiles := rfl
@[simp] theorem grantTo_intake (r : Requester) : (grantTo s r).intake = s.intake := rfl
@[simp] theorem grantTo_topology (r : Requester) : (grantTo s r).topology = s.topology := rfl
@[simp] theorem grantTo_engine (r : Requester) : (grantTo s r).engine = s.engine := rfl
@[simp] theorem grantTo_paths (r : Requester) : (grantTo s r).paths = s.paths := rfl
@[simp] theorem grantTo_notices (r : Requester) : (grantTo s r).notices = s.notices := rfl
@[simp] theorem grantTo_threads (r : Requester) : (grantTo s r).threads = s.threads := rfl

end

end Sys2Proof.Machine
end

