-- ==== Sys2Proof/Laws/Table.lean ====
section
/-!
SUPPORT. The laws of the sparse tables: reading after writing and after freeing, the canonical form under every operation, and the
sets of numbers kept in rising order.
-/

namespace Sys2Proof.Machine

variable {α : Type}

@[simp] theorem Table.keys_nil : Table.keys ([] : Table α) = [] := rfl

@[simp] theorem Table.keys_cons (x : Nat × α) (t : Table α) : Table.keys (x :: t) = x.1 :: Table.keys t := rfl

@[simp] theorem Table.get?_nil (i : Nat) : Table.get? ([] : Table α) i = none := rfl

/-! ### Reading after writing -/

theorem Table.get?_set_self (t : Table α) (i : Nat) (a : α) : (t.set i a).get? i = some a := by
  induction t with
  | nil => simp [Table.set, Table.get?]
  | cons x r ih =>
    obtain ⟨k, b⟩ := x
    simp only [Table.set]
    split
    · simp [Table.get?]
    · split
      · simp [Table.get?]
      · rename_i h1 h2
        have : k ≠ i := fun h => h2 h.symm
        simp [Table.get?, this, ih]

theorem Table.get?_set_ne (t : Table α) {i j : Nat} (a : α) (h : j ≠ i) : (t.set i a).get? j = t.get? j := by
  induction t with
  | nil => simp [Table.set, Table.get?, h.symm]
  | cons x r ih =>
    obtain ⟨k, b⟩ := x
    simp only [Table.set]
    split
    · simp [Table.get?, h.symm]
    · split
      · rename_i h2
        subst h2
        simp [Table.get?, h.symm]
      · simp [Table.get?, ih]

theorem Table.get?_erase_self (t : Table α) (i : Nat) : (t.erase i).get? i = none := by
  induction t with
  | nil => rfl
  | cons x r ih =>
    obtain ⟨k, b⟩ := x
    simp only [Table.erase]
    split
    · exact ih
    · rename_i h
      simp [Table.get?, h, ih]

theorem Table.get?_erase_ne (t : Table α) {i j : Nat} (h : j ≠ i) : (t.erase i).get? j = t.get? j := by
  induction t with
  | nil => rfl
  | cons x r ih =>
    obtain ⟨k, b⟩ := x
    simp only [Table.erase]
    split
    · rename_i h2
      subst h2
      simp [Table.get?, h.symm, ih]
    · simp [Table.get?, ih]

theorem Table.get?_mem (t : Table α) {i : Nat} {a : α} (h : t.get? i = some a) : (i, a) ∈ t := by
  induction t with
  | nil => simp at h
  | cons x r ih =>
    obtain ⟨k, b⟩ := x
    simp only [Table.get?] at h
    split at h
    · rename_i h2
      cases h
      simp [h2]
    · exact List.mem_cons_of_mem _ (ih h)

theorem Table.getD_setD_self [DecidableEq α] (t : Table α) (i : Nat) (d a : α) : (t.setD i d a).getD i d = a := by
  unfold Table.setD Table.getD
  split
  · rename_i h
    simp [Table.get?_erase_self, h]
  · simp [Table.get?_set_self]

theorem Table.getD_setD_ne [DecidableEq α] (t : Table α) {i j : Nat} (d a : α) (h : j ≠ i) :
    (t.setD i d a).getD j d = t.getD j d := by
  unfold Table.setD Table.getD
  split
  · rw [Table.get?_erase_ne t h]
  · rw [Table.get?_set_ne t a h]

/-! ### The canonical form -/

theorem Table.mem_keys_set (t : Table α) (i : Nat) (a : α) (j : Nat) : j ∈ (t.set i a).keys ↔ j = i ∨ j ∈ t.keys := by
  induction t with
  | nil => simp [Table.set]
  | cons x r ih =>
    obtain ⟨k, b⟩ := x
    simp only [Table.set]
    split
    · simp
    · split
      · rename_i h
        subst h
        simp
      · simp only [Table.keys_cons, List.mem_cons, ih]
        tauto

theorem Table.ascending_set {t : Table α} (h : t.ascending) (i : Nat) (a : α) : (t.set i a).ascending := by
  induction t with
  | nil => simp [Table.set, Table.ascending]
  | cons x r ih =>
    obtain ⟨k, b⟩ := x
    have hr : Table.ascending r := (List.pairwise_cons.mp h).2
    have hk : ∀ j ∈ Table.keys r, k < j := (List.pairwise_cons.mp h).1
    simp only [Table.set]
    split
    · rename_i hlt
      refine List.pairwise_cons.mpr ⟨fun j hj => ?_, h⟩
      rcases List.mem_cons.mp hj with rfl | hj
      · exact hlt
      · exact hlt.trans (hk j hj)
    · split
      · rename_i he
        subst he
        exact List.pairwise_cons.mpr ⟨hk, hr⟩
      · rename_i h1 h2
        refine List.pairwise_cons.mpr ⟨fun j hj => ?_, ih hr⟩
        rcases (Table.mem_keys_set r i a j).mp hj with rfl | hj
        · simp only
          omega
        · exact hk j hj

theorem Table.keys_erase_sublist (t : Table α) (i : Nat) : (t.erase i).keys.Sublist t.keys := by
  induction t with
  | nil => exact List.Sublist.slnil
  | cons x r ih =>
    obtain ⟨k, b⟩ := x
    simp only [Table.erase]
    split
    · exact ih.cons _
    · exact ih.cons_cons _

theorem Table.ascending_erase {t : Table α} (h : t.ascending) (i : Nat) : (t.erase i).ascending :=
  h.sublist (t.keys_erase_sublist i)

theorem Table.ascending_modify {t : Table α} (h : t.ascending) (i : Nat) (f : α → α) : (t.modify i f).ascending := by
  unfold Table.modify
  split
  · exact Table.ascending_set h _ _
  · exact h

theorem Table.ascending_setD [DecidableEq α] {t : Table α} (h : t.ascending) (i : Nat) (d a : α) :
    (t.setD i d a).ascending := by
  unfold Table.setD
  split
  · exact Table.ascending_erase h i
  · exact Table.ascending_set h i a

theorem Table.ascending_nil : Table.ascending ([] : Table α) := List.Pairwise.nil

theorem Table.ascending_filter {t : Table α} (h : t.ascending) (f : Nat × α → Bool) : Table.ascending (t.filter f) :=
  h.sublist (List.filter_sublist.map _)

theorem Table.ascending_map {t : Table α} (h : t.ascending) (f : Nat × α → Nat × α) (hf : ∀ x, (f x).1 = x.1) :
    Table.ascending (t.map f) := by
  have hk : Table.keys (t.map f) = t.keys := by
    simp [Table.keys, Function.comp_def, hf]
  unfold Table.ascending
  rw [hk]
  exact h

/-- The canonical form is rising indices below the bound. -/
theorem Table.wf_iff (t : Table α) (b : Nat) : t.wf b = true ↔ t.ascending ∧ ∀ j ∈ t.keys, j < b := by
  simp [Table.wf, Table.ascending]

theorem Table.wf_set {t : Table α} {b : Nat} (h : t.wf b = true) {i : Nat} (hi : i < b) (a : α) : (t.set i a).wf b = true := by
  rw [Table.wf_iff] at h ⊢
  refine ⟨Table.ascending_set h.1 i a, fun j hj => ?_⟩
  rcases (Table.mem_keys_set t i a j).mp hj with rfl | hj
  · exact hi
  · exact h.2 j hj

theorem Table.wf_erase {t : Table α} {b : Nat} (h : t.wf b = true) (i : Nat) : (t.erase i).wf b = true := by
  rw [Table.wf_iff] at h ⊢
  exact ⟨Table.ascending_erase h.1 i, fun j hj => h.2 j ((t.keys_erase_sublist i).subset hj)⟩

theorem Table.get?_lt {t : Table α} {b : Nat} (h : t.wf b = true) {i : Nat} {a : α} (hi : t.get? i = some a) : i < b :=
  ((Table.wf_iff t b).mp h).2 i (List.mem_map.mpr ⟨(i, a), t.get?_mem hi, rfl⟩)

theorem Table.wf_modify {t : Table α} {b : Nat} (h : t.wf b = true) (i : Nat) (f : α → α) : (t.modify i f).wf b = true := by
  unfold Table.modify
  split
  · rename_i hi
    exact Table.wf_set h (Table.get?_lt h hi) _
  · exact h

theorem Table.lowestFree_lt {t : Table α} {b i : Nat} (h : t.lowestFree b = some i) : i < b := by
  have := List.mem_of_find?_eq_some h
  simpa using this

theorem Table.lowestFree_free {t : Table α} {b i : Nat} (h : t.lowestFree b = some i) : t.get? i = none := by
  have := List.find?_some h
  simpa [Table.has] using this

/-! ### Sets of numbers -/

theorem mem_insertNat (i j : Nat) (l : List Nat) : j ∈ insertNat i l ↔ j = i ∨ j ∈ l := by
  induction l with
  | nil => simp [insertNat]
  | cons k r ih =>
    simp only [insertNat]
    split
    · simp
    · split
      · rename_i h
        subst h
        simp
      · simp only [List.mem_cons, ih]
        tauto

theorem mem_removeNat (i j : Nat) (l : List Nat) : j ∈ removeNat i l ↔ j ∈ l ∧ j ≠ i := by
  simp [removeNat]

end Sys2Proof.Machine
end

