-- ==== Sys2Proof/Laws/Frame.lean ====
section
/-!
SUPPORT. What no step of an operation touches: the threads, the host's queue and the reset pin; and how far a step reaches into
the line of waiters, the turn at the notice unit and the strike queue's mark.
-/

namespace Sys2Proof.Machine

/-- What no step of an operation changes: the system port, the memory port, the window descriptors, the profile store, the engine,
and of the control unit all but the command in progress and the response image. -/
structure Kept (s t : State) : Prop where
  system : t.system = s.system
  memory : t.memory = s.memory
  decoder : t.decoder = s.decoder
  profiles : t.profiles = s.profiles
  engine : t.engine = s.engine
  mode : t.control.mode = s.control.mode
  time : t.control.time = s.control.time
  enables : t.control.enables = s.control.enables
  holdTimeout : t.control.holdTimeout = s.control.holdTimeout
  handed : t.control.handed = s.control.handed

theorem Kept.refl (s : State) : Kept s s := ⟨rfl, rfl, rfl, rfl, rfl, rfl, rfl, rfl, rfl, rfl⟩

theorem Kept.trans {s t u : State} (h : Kept s t) (k : Kept t u) : Kept s u :=
  ⟨k.system.trans h.system, k.memory.trans h.memory, k.decoder.trans h.decoder, k.profiles.trans h.profiles,
   k.engine.trans h.engine, k.mode.trans h.mode, k.time.trans h.time, k.enables.trans h.enables,
   k.holdTimeout.trans h.holdTimeout, k.handed.trans h.handed⟩

/-- Everything that decides which thread goes on, the host's part of the state and what no step changes are as before. -/
structure SameFrame (s t : State) : Prop where
  threads : t.threads = s.threads
  writeBack : t.writeBack = s.writeBack
  turn : t.notices.turn = s.notices.turn
  strikeWait : t.topology.strikeWait = s.topology.strikeWait
  pending : t.pending = s.pending
  inReset : t.inReset = s.inReset
  kept : Kept s t

theorem SameFrame.refl (s : State) : SameFrame s s := ⟨rfl, rfl, rfl, rfl, rfl, rfl, .refl s⟩

theorem SameFrame.trans {s t u : State} (h : SameFrame s t) (k : SameFrame t u) : SameFrame s u :=
  ⟨k.threads.trans h.threads, k.writeBack.trans h.writeBack, k.turn.trans h.turn, k.strikeWait.trans h.strikeWait,
   k.pending.trans h.pending, k.inReset.trans h.inReset, h.kept.trans k.kept⟩

theorem SameFrame.foldl {β : Type} (f : State → β → State) (hf : ∀ s b, SameFrame s (f s b)) (l : List β) (s : State) :
    SameFrame s (l.foldl f s) := by
  induction l generalizing s with
  | nil => exact .refl s
  | cons x xs ih => exact (hf s x).trans (ih _)

section
variable (s : State)

theorem sameFrame_setNode (i : Nat) (e : NodeEntry) : SameFrame s (setNode s i e) := ⟨rfl, rfl, rfl, rfl, rfl, rfl, rfl, rfl, rfl, rfl, rfl, rfl, rfl, rfl, rfl, rfl⟩
theorem sameFrame_setPort (j : Nat) (e : PortEntry) : SameFrame s (setPort s j e) := ⟨rfl, rfl, rfl, rfl, rfl, rfl, rfl, rfl, rfl, rfl, rfl, rfl, rfl, rfl, rfl, rfl⟩
theorem sameFrame_setLink (k : Nat) (e : LinkEntry) : SameFrame s (setLink s k e) := ⟨rfl, rfl, rfl, rfl, rfl, rfl, rfl, rfl, rfl, rfl, rfl, rfl, rfl, rfl, rfl, rfl⟩
theorem sameFrame_setPairing (j : Nat) (p : Pairing) (l : Option Nat) : SameFrame s (setPairing s j p l) :=
  ⟨rfl, rfl, rfl, rfl, rfl, rfl, rfl, rfl, rfl, rfl, rfl, rfl, rfl, rfl, rfl, rfl⟩
theorem sameFrame_setPortCount (i : Nat) (f : Nat → Nat) : SameFrame s (setPortCount s i f) := ⟨rfl, rfl, rfl, rfl, rfl, rfl, rfl, rfl, rfl, rfl, rfl, rfl, rfl, rfl, rfl, rfl⟩
theorem sameFrame_setReserved (k : Nat) (v : SlotSet) : SameFrame s (setReserved s k v) := ⟨rfl, rfl, rfl, rfl, rfl, rfl, rfl, rfl, rfl, rfl, rfl, rfl, rfl, rfl, rfl, rfl⟩
theorem sameFrame_setFlag (k : Nat) (b : Bool) : SameFrame s (setFlag s k b) := ⟨rfl, rfl, rfl, rfl, rfl, rfl, rfl, rfl, rfl, rfl, rfl, rfl, rfl, rfl, rfl, rfl⟩
theorem sameFrame_setRecord (p : Nat) (r : NoticeRecord) : SameFrame s (setRecord s p r) := ⟨rfl, rfl, rfl, rfl, rfl, rfl, rfl, rfl, rfl, rfl, rfl, rfl, rfl, rfl, rfl, rfl⟩
theorem sameFrame_setBatch (b : BatchState) : SameFrame s (setBatch s b) := ⟨rfl, rfl, rfl, rfl, rfl, rfl, rfl, rfl, rfl, rfl, rfl, rfl, rfl, rfl, rfl, rfl⟩
theorem sameFrame_abortBatch (b : BatchState) : SameFrame s (abortBatch s b) := ⟨rfl, rfl, rfl, rfl, rfl, rfl, rfl, rfl, rfl, rfl, rfl, rfl, rfl, rfl, rfl, rfl⟩
theorem sameFrame_queueRecord (r : HandedRecord) (o : Role) : SameFrame s (queueRecord s r o) := ⟨rfl, rfl, rfl, rfl, rfl, rfl, rfl, rfl, rfl, rfl, rfl, rfl, rfl, rfl, rfl, rfl⟩
theorem sameFrame_storePath (p : Nat) (e : PathEntry) : SameFrame s (storePath s p e) := ⟨rfl, rfl, rfl, rfl, rfl, rfl, rfl, rfl, rfl, rfl, rfl, rfl, rfl, rfl, rfl, rfl⟩
theorem sameFrame_freePath (p : Nat) : SameFrame s (freePath s p) := ⟨rfl, rfl, rfl, rfl, rfl, rfl, rfl, rfl, rfl, rfl, rfl, rfl, rfl, rfl, rfl, rfl⟩
theorem sameFrame_grantTo (r : Requester) : SameFrame s (grantTo s r) := ⟨rfl, rfl, rfl, rfl, rfl, rfl, rfl, rfl, rfl, rfl, rfl, rfl, rfl, rfl, rfl, rfl⟩
theorem sameFrame_refreshDomain (d : Nat) : SameFrame s (refreshDomain s d) := ⟨rfl, rfl, rfl, rfl, rfl, rfl, rfl, rfl, rfl, rfl, rfl, rfl, rfl, rfl, rfl, rfl⟩
theorem sameFrame_restartTables : SameFrame s (restartTables s) := ⟨rfl, rfl, rfl, rfl, rfl, rfl, rfl, rfl, rfl, rfl, rfl, rfl, rfl, rfl, rfl, rfl⟩
theorem sameFrame_restartCounts : SameFrame s (restartCounts s) := ⟨rfl, rfl, rfl, rfl, rfl, rfl, rfl, rfl, rfl, rfl, rfl, rfl, rfl, rfl, rfl, rfl⟩

theorem sameFrame_reserveRoute (r : Route) : SameFrame s (reserveRoute s r) :=
  SameFrame.foldl _ (fun s k => sameFrame_setReserved s k _) _ _

theorem sameFrame_unreserveRoute (r : Route) : SameFrame s (unreserveRoute s r) :=
  SameFrame.foldl _ (fun s k => sameFrame_setReserved s k _) _ _

theorem sameFrame_unreserveAll (rs : List Route) : SameFrame s (unreserveAll s rs) :=
  SameFrame.foldl _ sameFrame_unreserveRoute _ _

theorem sameFrame_replaceReservation (old : Option Route) (new : Route) : SameFrame s (replaceReservation s old new) := by
  unfold replaceReservation
  exact (SameFrame.foldl _ (fun s k => sameFrame_setReserved s k _) _ _).trans
    (SameFrame.foldl _ (fun s k => sameFrame_setReserved s k _) _ _)

theorem sameFrame_leaveLink (j : Option Nat) : SameFrame s (leaveLink s j) := by
  cases j <;> exact ⟨rfl, rfl, rfl, rfl, rfl, rfl, rfl, rfl, rfl, rfl, rfl, rfl, rfl, rfl, rfl, rfl⟩

theorem sameFrame_pairPorts (k j : Nat) (p : PortEntry) (i : Nat) (q : PortEntry) : SameFrame s (pairPorts s k j p i q) :=
  ⟨rfl, rfl, rfl, rfl, rfl, rfl, rfl, rfl, rfl, rfl, rfl, rfl, rfl, rfl, rfl, rfl⟩

theorem sameFrame_releaseGrant : SameFrame s (releaseGrant s) := by
  unfold releaseGrant
  repeat' split
  all_goals exact ⟨rfl, rfl, rfl, rfl, rfl, rfl, rfl, rfl, rfl, rfl, rfl, rfl, rfl, rfl, rfl, rfl⟩

theorem sameFrame_requestGrant (r : Requester) : SameFrame s (requestGrant s r) := by
  unfold requestGrant
  split
  · exact ⟨rfl, rfl, rfl, rfl, rfl, rfl, rfl, rfl, rfl, rfl, rfl, rfl, rfl, rfl, rfl, rfl⟩
  · cases r <;> exact ⟨rfl, rfl, rfl, rfl, rfl, rfl, rfl, rfl, rfl, rfl, rfl, rfl, rfl, rfl, rfl, rfl⟩

theorem sameFrame_endTopology : SameFrame s (endTopology s) := by
  unfold endTopology
  exact SameFrame.trans (t := { s with topology := { s.topology with work := none } }) ⟨rfl, rfl, rfl, rfl, rfl, rfl, rfl, rfl, rfl, rfl, rfl, rfl, rfl, rfl, rfl, rfl⟩
    (sameFrame_releaseGrant _)

theorem sameFrame_setAnswered (k : Nat) : SameFrame s (setAnswered s k) := by
  unfold setAnswered
  split
  · split
    · exact sameFrame_setLink _ _ _
    · exact .refl s
  · exact .refl s

end

/-- How a finished step of thread `t` may reach into what decides which thread goes on: nothing of it changes but that the response
write may begin to wait (R22), and that the thread may take or give up the turn at the notice unit (R175). -/
structure DoneFrame (t : Thread) (s s' : State) : Prop where
  threads : s'.threads = s.threads
  waiters : ∀ u, Waiter.thread u ∈ s'.writeBack.waiters ↔ Waiter.thread u ∈ s.writeBack.waiters
  turn : s'.notices.turn = s.notices.turn ∨ s'.notices.turn = s.notices.turn.tail ∨
    (s.notices.turn = [] ∧ s'.notices.turn = [t])
  strikeWait : s'.topology.strikeWait = s.topology.strikeWait
  pending : s'.pending = s.pending
  inReset : s'.inReset = s.inReset
  kept : Kept s s'

/-- How a step of thread `t` that must wait changes the state: the thread begins to wait for room (R18), for its turn (R175), or
for room in the strike queue (R104). -/
inductive WaitFrame (t : Thread) (op : Op) (s s' : State) : Prop where
  | room (h : s' = beginWait s (.thread t))
  | turn (h : Thread) (r : List Thread) (hs : s.notices.turn = h :: r) (hne : h ≠ t)
      (h' : s' = { s with notices := { s.notices with turn := h :: r ++ [t] } })
  | strikes (e : Strike) (ho : op = .event e)
      (h : s' = { s with topology := { s.topology with strikeWait := true } })

theorem SameFrame.done {t : Thread} {s s' : State} (h : SameFrame s s') : DoneFrame t s s' :=
  ⟨h.threads, fun u => by rw [h.writeBack], .inl h.turn, h.strikeWait, h.pending, h.inReset, h.kept⟩

theorem DoneFrame.after {t : Thread} {s s1 s' : State} (h : SameFrame s s1) (k : DoneFrame t s1 s') : DoneFrame t s s' := by
  refine ⟨k.threads.trans h.threads, fun u => by rw [k.waiters u, h.writeBack], ?_, k.strikeWait.trans h.strikeWait,
    k.pending.trans h.pending, k.inReset.trans h.inReset, h.kept.trans k.kept⟩
  rw [← h.turn]
  exact k.turn

theorem doneFrame_enqueue (t : Thread) (s : State) (x : WbItem) : DoneFrame t s (enqueue s x) :=
  ⟨rfl, fun _ => Iff.rfl, .inl rfl, rfl, rfl, rfl, rfl, rfl, rfl, rfl, rfl, rfl, rfl, rfl, rfl, rfl⟩

/-- The notice unit's reference leaves every operation's place among those waiting for room (R175). -/
@[simp] theorem WriteBack.noted_thread (b : WriteBack) (u : Thread) : Waiter.thread u ∈ b.noted.waiters ↔ Waiter.thread u ∈ b.waiters := by
  unfold WriteBack.noted
  split
  · rfl
  · split
    · rfl
    · simp

theorem doneFrame_imageWrite (t : Thread) (s : State) : DoneFrame t s (imageWrite s) := by
  unfold imageWrite
  split
  · exact (SameFrame.refl s).done
  · split
    · exact doneFrame_enqueue t s _
    · exact ⟨rfl, fun u => by simp, .inl rfl, rfl, rfl, rfl, rfl, rfl, rfl, rfl, rfl, rfl, rfl, rfl, rfl, rfl⟩

theorem doneFrame_completeCommand (t : Thread) (s : State) (o : CmdOutcome) : DoneFrame t s (completeCommand s o) := by
  unfold completeCommand
  split
  · exact (SameFrame.refl s).done
  · unfold finishRecord
    refine DoneFrame.after ?_ (doneFrame_imageWrite t _)
    exact ⟨rfl, rfl, rfl, rfl, rfl, rfl, rfl, rfl, rfl, rfl, rfl, rfl, rfl, rfl, rfl, rfl⟩

theorem doneFrame_restartDone (t : Thread) (s : State) : DoneFrame t s (restartDone s) := by
  unfold restartDone
  split
  · split
    · exact ⟨rfl, fun _ => Iff.rfl, .inl rfl, rfl, rfl, rfl, rfl, rfl, rfl, rfl, rfl, rfl, rfl, rfl, rfl, rfl⟩
    · exact doneFrame_completeCommand t s _
  · exact (SameFrame.refl s).done

/-- The answer of a step obeys the frame. -/
def OpResult.framed (t : Thread) (op : Op) (s : State) : OpResult → Prop
  | .done s' _ => DoneFrame t s s'
  | .wait s' => WaitFrame t op s s'

end Sys2Proof.Machine
end

