-- ==== Sys2Proof/Laws/Settle.lean ====
section
/-!
SUPPORT. Settling: no step of an operation touches the threads but through `micro`, every step lowers a measure, so the fuel of
`settleAll` is never used up; the state it leaves is quiescent, and a property that every step keeps is kept by settling.
-/

namespace Sys2Proof.Machine

/-! ### The frame of one step -/

theorem framed_queueContent (g : Bool) (t : Thread) (op : Op) (n : Nat) (d : Line) (m : Option ResultMark) (s : State) :
    (queueContent g t n d m s).framed t op s := by
  unfold queueContent
  split
  · exact doneFrame_enqueue t s _
  · exact .room rfl

theorem framed_queueRef (g : Bool) (t : Thread) (op : Op) (r : Ref) (s : State) : (queueRef g t r s).framed t op s := by
  unfold queueRef
  split
  · exact (SameFrame.refl s).done
  · split
    · exact doneFrame_enqueue t s _
    · exact .room rfl

/-- A post's judgement: with the turn in hand it changes at most the notice unit, and then keeps or gives up the turn. -/
theorem framed_withTurn (t : Thread) (op : Op) (s : State) (f : State → OpResult)
    (hf : ∀ u, ∃ v push, f u = .done v push ∧ v.threads = u.threads ∧
      (∀ x, Waiter.thread x ∈ v.writeBack.waiters ↔ Waiter.thread x ∈ u.writeBack.waiters) ∧
      (v.notices.turn = u.notices.turn ∨ v.notices.turn = u.notices.turn.tail) ∧
      v.topology.strikeWait = u.topology.strikeWait ∧ v.pending = u.pending ∧ v.inReset = u.inReset ∧ Kept u v) :
    (withTurn t s f).framed t op s := by
  unfold withTurn
  split
  · rename_i hs
    obtain ⟨v, push, hv, h1, h2, h3, h4, h5, h6, h7⟩ := hf { s with notices := { s.notices with turn := [t] } }
    rw [hv]
    refine ⟨h1, h2, ?_, h4, h5, h6, h7.system, h7.memory, h7.decoder, h7.profiles, h7.engine, h7.mode,
      h7.time, h7.enables, h7.holdTimeout, h7.handed⟩
    rcases h3 with h3 | h3
    · exact .inr (.inr ⟨hs, h3⟩)
    · exact .inr (.inl (by rw [h3, hs]; rfl))
  · rename_i h r hs
    split
    · obtain ⟨v, push, hv, h1, h2, h3, h4, h5, h6, h7⟩ := hf s
      rw [hv]
      exact ⟨h1, h2, h3.imp_right .inl, h4, h5, h6, h7⟩
    · rename_i hne
      exact .turn h r hs hne rfl

theorem framed_postNotice (t : Thread) (op : Op) (n : Notice) (s : State) : (postNotice t n s).framed t op s := by
  unfold postNotice
  refine framed_withTurn t op s _ fun u => ?_
  split
  · exact ⟨_, _, rfl, rfl, fun _ => Iff.rfl, .inr rfl, rfl, rfl, rfl, rfl, rfl, rfl, rfl, rfl, rfl, rfl, rfl, rfl, rfl⟩
  · split
    · exact ⟨_, _, rfl, rfl, fun _ => Iff.rfl, .inl rfl, rfl, rfl, rfl, rfl, rfl, rfl, rfl, rfl, rfl, rfl, rfl, rfl, rfl⟩
    · refine ⟨_, _, rfl, ?_⟩
      split
      · exact ⟨rfl, fun _ => Iff.rfl, .inr rfl, rfl, rfl, rfl, rfl, rfl, rfl, rfl, rfl, rfl, rfl, rfl, rfl, rfl⟩
      · exact ⟨rfl, fun x => u.writeBack.noted_thread x, .inr rfl, rfl, rfl, rfl, rfl, rfl, rfl, rfl, rfl, rfl, rfl, rfl, rfl, rfl⟩

theorem framed_postPathState (t : Thread) (op : Op) (p : Nat) (why : PathReason) (s : State) :
    (postPathState t p why s).framed t op s := by
  unfold postPathState
  refine framed_withTurn t op s _ fun u => ?_
  dsimp only
  split
  · exact ⟨_, _, rfl, rfl, fun _ => Iff.rfl, .inr rfl, rfl, rfl, rfl, rfl, rfl, rfl, rfl, rfl, rfl, rfl, rfl, rfl, rfl⟩
  · split
    · exact ⟨_, _, rfl, rfl, fun _ => Iff.rfl, .inl rfl, rfl, rfl, rfl, rfl, rfl, rfl, rfl, rfl, rfl, rfl, rfl, rfl, rfl⟩
    · exact ⟨_, _, rfl, rfl, fun _ => Iff.rfl, .inr rfl, rfl, rfl, rfl, rfl, rfl, rfl, rfl, rfl, rfl, rfl, rfl, rfl, rfl⟩

theorem framed_drainDeferred (t : Thread) (op : Op) (p : Nat) (s : State) : (drainDeferred t p s).framed t op s := by
  unfold drainDeferred
  refine framed_withTurn t op s _ fun u => ?_
  split
  · exact ⟨_, _, rfl, rfl, fun _ => Iff.rfl, .inr rfl, rfl, rfl, rfl, rfl, rfl, rfl, rfl, rfl, rfl, rfl, rfl, rfl, rfl⟩
  · split
    · exact ⟨_, _, rfl, rfl, fun _ => Iff.rfl, .inl rfl, rfl, rfl, rfl, rfl, rfl, rfl, rfl, rfl, rfl, rfl, rfl, rfl, rfl⟩
    · exact ⟨_, _, rfl, rfl, fun _ => Iff.rfl, .inr rfl, rfl, rfl, rfl, rfl, rfl, rfl, rfl, rfl, rfl, rfl, rfl, rfl, rfl⟩

theorem framed_acknowledgePath (t : Thread) (op : Op) (p : Nat) (gen : BitVec 16) (s : State) :
    (acknowledgePath t p gen s).framed t op s := by
  unfold acknowledgePath
  refine framed_withTurn t op s _ fun u => ?_
  dsimp only
  repeat' split
  all_goals exact ⟨_, _, rfl, rfl, fun _ => Iff.rfl, .inl rfl, rfl, rfl, rfl, rfl, rfl, rfl, rfl, rfl, rfl, rfl, rfl, rfl, rfl⟩

theorem framed_writeNotice (g : Bool) (t : Thread) (op : Op) (n : Notice) (s : State) : (writeNotice g t n s).framed t op s := by
  unfold writeNotice
  split
  · exact ⟨rfl, fun _ => Iff.rfl, .inr (.inl rfl), rfl, rfl, rfl, rfl, rfl, rfl, rfl, rfl, rfl, rfl, rfl, rfl, rfl⟩
  · split
    · exact ⟨rfl, fun x => (writeRing s _ _).writeBack.noted_thread x, .inr (.inl rfl), rfl, rfl, rfl, rfl, rfl, rfl, rfl, rfl, rfl,
        rfl, rfl, rfl, rfl⟩
    · exact .room rfl

theorem framed_writePathState (g : Bool) (t : Thread) (op : Op) (p : Nat) (last : Bool) (s : State) :
    (writePathState g t p last s).framed t op s := by
  unfold writePathState
  dsimp only
  repeat' split
  all_goals first
    | exact .room rfl
    | exact ⟨rfl, fun x => (writeRing s _ _).writeBack.noted_thread x, .inr (.inl rfl), rfl, rfl, rfl, rfl, rfl, rfl, rfl, rfl, rfl,
        rfl, rfl, rfl, rfl⟩
    | exact ⟨rfl, fun x => (writeRing s _ _).writeBack.noted_thread x, .inl rfl, rfl, rfl, rfl, rfl, rfl, rfl, rfl, rfl, rfl, rfl, rfl,
        rfl, rfl⟩
    | exact ⟨rfl, fun _ => Iff.rfl, .inr (.inl rfl), rfl, rfl, rfl, rfl, rfl, rfl, rfl, rfl, rfl, rfl, rfl, rfl, rfl⟩
    | exact ⟨rfl, fun _ => Iff.rfl, .inl rfl, rfl, rfl, rfl, rfl, rfl, rfl, rfl, rfl, rfl, rfl, rfl, rfl, rfl⟩

theorem framed_finishTaking (t : Thread) (op : Op) (r : HandedRecord) (s : State) : (finishTaking r s).framed t op s := by
  unfold finishTaking
  dsimp only
  repeat' split
  all_goals exact ⟨rfl, fun _ => Iff.rfl, .inl rfl, rfl, rfl, rfl, rfl, rfl, rfl, rfl, rfl, rfl, rfl, rfl, rfl, rfl⟩

theorem framed_openNested (t : Thread) (op : Op) (s : State) : (openNested s).framed t op s := by
  unfold openNested
  split <;> exact ⟨rfl, fun _ => Iff.rfl, .inl rfl, rfl, rfl, rfl, rfl, rfl, rfl, rfl, rfl, rfl, rfl, rfl, rfl, rfl⟩

theorem framed_stopBatch (t : Thread) (op : Op) (s : State) : (stopBatch s).framed t op s := by
  unfold stopBatch
  repeat' split
  all_goals exact ⟨rfl, fun _ => Iff.rfl, .inl rfl, rfl, rfl, rfl, rfl, rfl, rfl, rfl, rfl, rfl, rfl, rfl, rfl, rfl⟩

theorem framed_applyRecord (t : Thread) (op : Op) (l : Line) (off : Nat) (s : State) : (applyRecord l off s).framed t op s := by
  unfold applyRecord
  split
  · unfold applyNodeReport updateNode recordFault
    repeat' split
    all_goals exact SameFrame.done ⟨rfl, rfl, rfl, rfl, rfl, rfl, rfl, rfl, rfl, rfl, rfl, rfl, rfl, rfl, rfl, rfl⟩
  · unfold applyPortReport updatePort recordFault
    repeat' split
    all_goals exact SameFrame.done ⟨rfl, rfl, rfl, rfl, rfl, rfl, rfl, rfl, rfl, rfl, rfl, rfl, rfl, rfl, rfl, rfl⟩
  · unfold applyPortWithdraw
    repeat' split
    all_goals exact SameFrame.done ⟨rfl, rfl, rfl, rfl, rfl, rfl, rfl, rfl, rfl, rfl, rfl, rfl, rfl, rfl, rfl, rfl⟩
  · unfold applyNodeWithdraw
    repeat' split
    all_goals exact SameFrame.done ⟨rfl, rfl, rfl, rfl, rfl, rfl, rfl, rfl, rfl, rfl, rfl, rfl, rfl, rfl, rfl, rfl⟩
  all_goals exact SameFrame.done ⟨rfl, rfl, rfl, rfl, rfl, rfl, rfl, rfl, rfl, rfl, rfl, rfl, rfl, rfl, rfl, rfl⟩

theorem framed_retireLink (t : Thread) (op : Op) (k : Nat) (why : TopoReason) (s : State) :
    (retireLink k why s).framed t op s := by
  unfold retireLink
  split
  · exact (SameFrame.refl s).done
  · exact (((sameFrame_leaveLink s _).trans (sameFrame_leaveLink _ _)).trans (sameFrame_setLink _ _ _)).done

theorem framed_evaluatePort (t : Thread) (op : Op) (j : Nat) (old : Option Pairing) (l : Option Nat) (s : State) :
    (evaluatePort j old l s).framed t op s := by
  unfold evaluatePort
  dsimp only
  repeat' split
  all_goals exact SameFrame.done ⟨rfl, rfl, rfl, rfl, rfl, rfl, rfl, rfl, rfl, rfl, rfl, rfl, rfl, rfl, rfl, rfl⟩

theorem framed_offerLink (t : Thread) (op : Op) (k : Nat) (s : State) : (offerLink k s).framed t op s := by
  unfold offerLink
  dsimp only
  repeat' split
  all_goals exact SameFrame.done ⟨rfl, rfl, rfl, rfl, rfl, rfl, rfl, rfl, rfl, rfl, rfl, rfl, rfl, rfl, rfl, rfl⟩

theorem framed_sendEvent (t : Thread) (e : Strike) (s : State) : (sendEvent e s).framed t (.event e) s := by
  unfold sendEvent
  split
  · exact SameFrame.done ⟨rfl, rfl, rfl, rfl, rfl, rfl, rfl, rfl, rfl, rfl, rfl, rfl, rfl, rfl, rfl, rfl⟩
  · exact .strikes e rfl rfl

theorem framed_changePath (t : Thread) (op : Op) (s : State) (p : Nat) (x : PathEntry × List Route) (why : PathReason)
    (next : Op) : (changePath s p x why next).framed t op s :=
  ((sameFrame_unreserveAll s _).trans (sameFrame_storePath _ _ _)).done

/-- Every step of an operation obeys the frame. -/
theorem runOp_framed (g : Bool) (t : Thread) (op : Op) (s : State) : (runOp g t op s).framed t op s := by
  cases op with
  | ref r => exact framed_queueRef g t _ r s
  | post n => exact framed_postNotice t _ n s
  | notice n => exact framed_writeNotice g t _ n s
  | postPath p why => exact framed_postPathState t _ p why s
  | writePath p last => exact framed_writePathState g t _ p last s
  | drain p => exact framed_drainDeferred t _ p s
  | ackPath p gen => exact framed_acknowledgePath t _ p gen s
  | unlock => exact ⟨rfl, fun _ => Iff.rfl, .inr (.inl rfl), rfl, rfl, rfl, rfl, rfl, rfl, rfl, rfl, rfl, rfl, rfl, rfl, rfl⟩
  | takeFinish r => exact framed_finishTaking t _ r s
  | openBatch => exact framed_openNested t _ s
  | stopCheck => exact framed_stopBatch t _ s
  | requestFinish => exact SameFrame.done ⟨rfl, rfl, rfl, rfl, rfl, rfl, rfl, rfl, rfl, rfl, rfl, rfl, rfl, rfl, rfl, rfl⟩
  | applyRecord l off => exact framed_applyRecord t _ l off s
  | reconvertNodes d i =>
    simp only [runOp, reconvertNodes]
    split <;> exact SameFrame.done ⟨rfl, rfl, rfl, rfl, rfl, rfl, rfl, rfl, rfl, rfl, rfl, rfl, rfl, rfl, rfl, rfl⟩
  | reconvertPorts n j =>
    simp only [runOp, reconvertPorts]
    split <;> exact SameFrame.done ⟨rfl, rfl, rfl, rfl, rfl, rfl, rfl, rfl, rfl, rfl, rfl, rfl, rfl, rfl, rfl, rfl⟩
  | linkAttributes k =>
    simp only [runOp, updateLinkAttributes]
    repeat' split
    all_goals exact SameFrame.done ⟨rfl, rfl, rfl, rfl, rfl, rfl, rfl, rfl, rfl, rfl, rfl, rfl, rfl, rfl, rfl, rfl⟩
  | linkState k =>
    simp only [runOp, updateLinkState]
    repeat' split
    all_goals exact SameFrame.done ⟨rfl, rfl, rfl, rfl, rfl, rfl, rfl, rfl, rfl, rfl, rfl, rfl, rfl, rfl, rfl, rfl⟩
  | retireLink k why => exact framed_retireLink t _ k why s
  | portMove j st oldLink why =>
    simp only [runOp, movePort]
    split <;> exact SameFrame.done ⟨rfl, rfl, rfl, rfl, rfl, rfl, rfl, rfl, rfl, rfl, rfl, rfl, rfl, rfl, rfl, rfl⟩
  | repoint j f =>
    simp only [runOp, repointPort]
    split <;> exact SameFrame.done ⟨rfl, rfl, rfl, rfl, rfl, rfl, rfl, rfl, rfl, rfl, rfl, rfl, rfl, rfl, rfl, rfl⟩
  | evaluate j old l => exact framed_evaluatePort t _ j old l s
  | claimants j i =>
    simp only [runOp, recheckClaimants]
    repeat' split
    all_goals exact SameFrame.done ⟨rfl, rfl, rfl, rfl, rfl, rfl, rfl, rfl, rfl, rfl, rfl, rfl, rfl, rfl, rfl, rfl⟩
  | removePort j why =>
    simp only [runOp, removePort]
    repeat' split
    all_goals exact (SameFrame.refl s).done
  | freePort j why l former =>
    simp only [runOp, freePort]
    split <;> exact SameFrame.done ⟨rfl, rfl, rfl, rfl, rfl, rfl, rfl, rfl, rfl, rfl, rfl, rfl, rfl, rfl, rfl, rfl⟩
  | orphans id number i why former =>
    simp only [runOp, orphanClaimants]
    repeat' split
    all_goals exact SameFrame.done ⟨rfl, rfl, rfl, rfl, rfl, rfl, rfl, rfl, rfl, rfl, rfl, rfl, rfl, rfl, rfl, rfl⟩
  | removePorts n j why count =>
    simp only [runOp, removePorts]
    split <;> exact (SameFrame.refl s).done
  | freeNode n why count =>
    simp only [runOp, freeNode]
    split <;> exact SameFrame.done ⟨rfl, rfl, rfl, rfl, rfl, rfl, rfl, rfl, rfl, rfl, rfl, rfl, rfl, rfl, rfl, rfl⟩
  | offer k => exact framed_offerLink t _ k s
  | event e => exact framed_sendEvent t e s
  | topologyEnd => exact (sameFrame_endTopology s).done
  | downPaths k p =>
    simp only [runOp, downPaths]
    split
    · exact (SameFrame.refl s).done
    · exact framed_changePath t _ s _ _ _ _
  | upPaths k p =>
    simp only [runOp, upPaths]
    split
    · exact (SameFrame.refl s).done
    · exact framed_changePath t _ s _ _ _ _
  | retirePaths k p =>
    simp only [runOp, retirePaths]
    split
    · exact (SameFrame.refl s).done
    · exact framed_changePath t _ s _ _ _ _
  | retireDone k =>
    exact (((sameFrame_setReserved s k 0).trans (sameFrame_setFlag _ k false)).trans (sameFrame_setAnswered _ k)).done
  | pathGrantEnd => exact (sameFrame_releaseGrant s).done
  | result m l => exact framed_queueContent g t _ _ _ _ s
  | operationEnd => exact SameFrame.done ⟨rfl, rfl, rfl, rfl, rfl, rfl, rfl, rfl, rfl, rfl, rfl, rfl, rfl, rfl, rfl, rfl⟩
  | complete o => exact doneFrame_completeCommand t s o
  | restartTables => exact (sameFrame_restartTables s).done
  | restartCounts => exact (sameFrame_restartCounts s).done
  | restartDone => exact doneFrame_restartDone t s

/-! ### The cost of one step -/

@[simp] theorem costOf_nil : costOf [] = 0 := rfl

@[simp] theorem costOf_cons (op : Op) (ops : List Op) : costOf (op :: ops) = op.cost + costOf ops := by simp [costOf]

@[simp] theorem costOf_append (a b : List Op) : costOf (a ++ b) = costOf a + costOf b := by simp [costOf]

theorem Op.cost_pos (op : Op) : 0 < op.cost := by cases op <;> simp [Op.cost]

/-- The steps a finished step adds cost less than `n`; a step that waits adds none. -/
def OpResult.within (n : Nat) : OpResult → Prop
  | .done _ push => costOf push < n
  | .wait _ => True

theorem within_withTurn (t : Thread) (s : State) (f : State → OpResult) (n : Nat) (hf : ∀ u, (f u).within n) :
    (withTurn t s f).within n := by
  unfold withTurn
  split
  · exact hf _
  · split
    · exact hf _
    · trivial

theorem cost_portItems (s : State) (j : Nat) (old : Option Pairing) (l : Option Nat) (why : TopoReason) :
    costOf (portItems s j old l why) ≤ 4 := by
  unfold portItems
  repeat' split
  all_goals simp [Op.cost]

theorem cost_newLinkItems (k : Nat) (l : LinkEntry) : costOf (newLinkItems k l) ≤ 6 := by
  unfold newLinkItems
  split <;> simp [Op.cost]

theorem cost_pathItems (s : State) (p : Nat) (e : PathEntry) (why : PathReason) : costOf (pathItems s p e why) ≤ 4 := by
  unfold pathItems
  split <;> simp [Op.cost]

theorem cost_leavePair (s : State) (j : Nat) (e : PortEntry) : costOf (leavePair s j e) ≤ 11 := by
  unfold leavePair
  repeat' split
  all_goals simp [Op.cost]

theorem cost_linkUpdates (e : PortEntry) : costOf (linkUpdates e) ≤ 11 := by
  unfold linkUpdates
  split <;> simp [Op.cost]

theorem Table.nextFrom_range {α : Type} {t : Table α} {p b : Nat} {f : Nat → α → Bool} {x : Nat × α}
    (h : t.nextFrom p b f = some x) : p ≤ x.1 ∧ x.1 < b := by
  have := List.find?_some h
  simp only [Bool.and_eq_true, decide_eq_true_eq] at this
  exact this.1

/-- Every step adds less than its own cost. -/
theorem runOp_within (g : Bool) (t : Thread) (op : Op) (s : State) : (runOp g t op s).within op.cost := by
  cases op with
  | ref r =>
    simp only [runOp, queueRef]
    repeat' split
    all_goals simp [OpResult.within, Op.cost]
  | post n =>
    simp only [runOp, postNotice]
    refine within_withTurn t s _ _ fun u => ?_
    repeat' split
    all_goals simp [OpResult.within, Op.cost]
  | notice n =>
    simp only [runOp, writeNotice]
    repeat' split
    all_goals simp [OpResult.within, Op.cost]
  | postPath p why =>
    simp only [runOp, postPathState]
    refine within_withTurn t s _ _ fun u => ?_
    repeat' split
    all_goals simp [OpResult.within, Op.cost]
  | writePath p last =>
    simp only [runOp, writePathState]
    repeat' split
    all_goals simp [OpResult.within, Op.cost]
  | drain p =>
    simp only [runOp, drainDeferred]
    refine within_withTurn t s _ _ fun u => ?_
    split
    · simp [OpResult.within, Op.cost]
    · rename_i q r hq
      have := Table.nextFrom_range hq
      simp only [Config.pathEntries] at this
      split
      · simp only [OpResult.within, Op.cost, costOf_cons, costOf_nil, Config.pathEntries]
        omega
      · simp [OpResult.within, Op.cost]
  | ackPath p gen =>
    simp only [runOp, acknowledgePath]
    refine within_withTurn t s _ _ fun u => ?_
    repeat' split
    all_goals simp [OpResult.within, Op.cost]
  | takeFinish r =>
    simp only [runOp, finishTaking]
    repeat' split
    all_goals simp [OpResult.within, Op.cost]
  | openBatch =>
    simp only [runOp, openNested]
    split <;> simp [OpResult.within, Op.cost]
  | stopCheck =>
    simp only [runOp, stopBatch]
    repeat' split
    all_goals simp [OpResult.within, Op.cost]
  | applyRecord l off =>
    simp only [runOp, applyRecord]
    split
    · unfold applyNodeReport updateNode recordFault
      repeat' split
      all_goals simp [OpResult.within, Op.cost]
    · unfold applyPortReport updatePort recordFault
      repeat' split
      · simp [OpResult.within, Op.cost]
      · simp [OpResult.within, Op.cost]
      · rename_i e _ _ _
        have := cost_linkUpdates e
        simp only [OpResult.within, Op.cost, costOf_cons, costOf_append, costOf_nil, Config.portEntries]
        omega
      · rename_i j e _ _ _
        have := cost_leavePair s j e
        simp only [OpResult.within, Op.cost, costOf_cons, costOf_append, costOf_nil, Config.portEntries]
        omega
      all_goals simp [OpResult.within, Op.cost]
    · unfold applyPortWithdraw
      repeat' split
      all_goals simp [OpResult.within, Op.cost]
    · unfold applyNodeWithdraw
      repeat' split
      all_goals simp [OpResult.within, Op.cost]
    all_goals simp [OpResult.within, Op.cost]
  | reconvertNodes d i =>
    simp only [runOp, reconvertNodes]
    split
    · simp [OpResult.within, Op.cost]
    · rename_i n e hn
      have := Table.nextFrom_range hn
      simp only [Config.nodeEntries] at this
      simp only [OpResult.within, Op.cost, costOf_append, Config.nodeEntries]
      split <;> simp [Op.cost] <;> omega
  | reconvertPorts n j =>
    simp only [runOp, reconvertPorts]
    split
    · simp [OpResult.within, Op.cost]
    · rename_i i e hn
      have := Table.nextFrom_range hn
      simp only [Config.portEntries] at this
      simp only [OpResult.within, Op.cost, costOf_append, Config.portEntries]
      repeat' split
      all_goals (simp [Op.cost]; omega)
  | linkAttributes k =>
    simp only [runOp, updateLinkAttributes]
    repeat' split
    all_goals simp [OpResult.within, Op.cost]
  | linkState k =>
    simp only [runOp, updateLinkState]
    repeat' split
    all_goals simp [OpResult.within, Op.cost]
  | retireLink k why =>
    simp only [runOp, retireLink]
    split <;> simp [OpResult.within, Op.cost]
  | portMove j st oldLink why =>
    simp only [runOp, movePort]
    split
    · simp [OpResult.within, Op.cost]
    · have := cost_portItems (setPairing s j st none) j
      simp only [OpResult.within, Op.cost]
      exact Nat.lt_of_le_of_lt (this _ _ _) (by decide)
  | repoint j f =>
    simp only [runOp, repointPort]
    split <;> simp [OpResult.within, Op.cost]
  | evaluate j old l =>
    simp only [runOp, evaluatePort]
    repeat' split
    all_goals
      simp only [OpResult.within, Op.cost, costOf_append, costOf_nil]
      first
        | decide
        | exact Nat.lt_of_le_of_lt (cost_portItems _ _ _ _ _) (by decide)
        | exact Nat.lt_of_le_of_lt (Nat.add_le_add (cost_portItems _ _ _ _ _) (cost_portItems _ _ _ _ _)) (by decide)
        | exact Nat.lt_of_le_of_lt (Nat.add_le_add (Nat.add_le_add (cost_newLinkItems _ _) (cost_portItems _ _ _ _ _))
            (cost_portItems _ _ _ _ _)) (by decide)
  | claimants j i =>
    simp only [runOp, recheckClaimants]
    split
    · simp [OpResult.within, Op.cost]
    · split
      · simp [OpResult.within, Op.cost]
      · rename_i c e hc
        have hr := Table.nextFrom_range hc
        simp only [Config.portEntries] at hr
        split
        · simp [OpResult.within, Op.cost]
          omega
        · have := cost_portItems (setPairing s c .contradicted none) c (some e.pairing) e.link .reported
          simp only [OpResult.within, Op.cost, costOf_append, costOf_cons, costOf_nil, Config.portEntries]
          omega
  | removePort j why =>
    simp only [runOp, removePort]
    repeat' split
    all_goals simp [OpResult.within, Op.cost]
  | freePort j why l former =>
    simp only [runOp, freePort]
    split <;> simp [OpResult.within, Op.cost]
  | orphans id number i why former =>
    simp only [runOp, orphanClaimants]
    split
    · simp [OpResult.within, Op.cost]
    · rename_i c e hc
      have hr := Table.nextFrom_range hc
      simp only [Config.portEntries] at hr
      split
      · simp [OpResult.within, Op.cost]
        omega
      · have := cost_portItems (setPairing s c .unanswered none) c (some e.pairing) (formerLink former c e) why
        simp only [OpResult.within, Op.cost, costOf_append, costOf_cons, costOf_nil, Config.portEntries]
        omega
  | removePorts n j why count =>
    simp only [runOp, removePorts]
    split
    · simp only [OpResult.within, Op.cost, costOf_cons, costOf_nil, Config.portEntries]
      omega
    · rename_i i e hi
      have hr := Table.nextFrom_range hi
      simp only [Config.portEntries] at hr
      simp only [OpResult.within, Op.cost, costOf_cons, costOf_nil, Config.portEntries]
      omega
  | freeNode n why count =>
    simp only [runOp, freeNode]
    split <;> simp [OpResult.within, Op.cost]
  | offer k =>
    simp only [runOp, offerLink]
    repeat' split
    all_goals
      simp only [OpResult.within, Op.cost, costOf_append, costOf_nil]
      first
        | decide
        | exact Nat.lt_of_le_of_lt (Nat.add_le_add (Nat.add_le_add (cost_newLinkItems _ _) (cost_portItems _ _ _ _ _))
            (cost_portItems _ _ _ _ _)) (by decide)
  | event e =>
    simp only [runOp, sendEvent]
    split <;> simp [OpResult.within, Op.cost]
  | downPaths k p =>
    simp only [runOp, downPaths, changePath]
    split
    · simp [OpResult.within, Op.cost]
    · rename_i i e hi
      have hr := Table.nextFrom_range hi
      have := cost_pathItems s i (downChange e k).1 .linkDown
      simp only [Config.pathEntries] at hr
      simp only [OpResult.within, Op.cost, costOf_append, costOf_cons, costOf_nil, Config.pathEntries]
      omega
  | upPaths k p =>
    simp only [runOp, upPaths, changePath]
    split
    · simp [OpResult.within, Op.cost]
    · rename_i i e hi
      have hr := Table.nextFrom_range hi
      have := cost_pathItems s i (upChange e k).1 .linkUp
      simp only [Config.pathEntries] at hr
      simp only [OpResult.within, Op.cost, costOf_append, costOf_cons, costOf_nil, Config.pathEntries]
      omega
  | retirePaths k p =>
    simp only [runOp, retirePaths, changePath]
    split
    · simp [OpResult.within, Op.cost]
    · rename_i i e hi
      have hr := Table.nextFrom_range hi
      have := cost_pathItems s i (retireChange e k).1 .linkRetired
      simp only [Config.pathEntries] at hr
      simp only [OpResult.within, Op.cost, costOf_append, costOf_cons, costOf_nil, Config.pathEntries]
      omega
  | result m l =>
    simp only [runOp, queueContent]
    split <;> simp [OpResult.within, Op.cost]
  | unlock | requestFinish | topologyEnd | retireDone _ | pathGrantEnd | operationEnd | complete _ | restartTables
  | restartCounts | restartDone =>
    simp [runOp, OpResult.within, Op.cost, finishRequest, finishRetire, endPathGrant, endOperation]

/-! ### The measure -/

/-- How many threads do not wait for room. -/
def roomless (s : State) : Nat := (Thread.all.filter (fun t => !s.writeBack.waiters.contains (.thread t))).length

/-- How many threads do not wait at the notice unit. -/
def turnless (s : State) : Nat := (Thread.all.filter (fun t => !s.notices.turn.contains t)).length

/-- Whether no operation waits for room in the strike queue, as a number. -/
def strikeless (s : State) : Nat := if s.topology.strikeWait then 0 else 1

/-- The measure that every step lowers: the cost of the steps to come, doubled, and the waits still possible. -/
def settleMeasure (s : State) : Nat := 2 * totalCost s + (roomless s + turnless s + strikeless s)

theorem strikeless_eq {s t : State} (h : t.topology.strikeWait = s.topology.strikeWait) : strikeless t = strikeless s := by
  simp [strikeless, h]

theorem sum_map_put (f : List Op → Nat) (ts : Threads) (t : Thread) (ops : List Op) :
    (Thread.all.map (fun u => f ((ts.put t ops).get u))).sum + f (ts.get t) =
      (Thread.all.map (fun u => f (ts.get u))).sum + f ops := by
  cases t <;> simp [Thread.all, Threads.put, Threads.get] <;> omega

theorem totalCost_putOps (s : State) (t : Thread) (ops : List Op) :
    totalCost (s.putOps t ops) + costOf (s.threads.get t) = totalCost s + costOf ops :=
  sum_map_put costOf s.threads t ops

theorem filter_lt {β : Type} (f g : β → Bool) (l : List β) (hgf : ∀ x ∈ l, g x = true → f x = true) (y : β) (hy : y ∈ l)
    (hf : f y = true) (hg : g y = false) : (l.filter g).length < (l.filter f).length := by
  induction l with
  | nil => cases hy
  | cons x xs ih =>
    have hle : ∀ ys : List β, (∀ z ∈ ys, g z = true → f z = true) → (ys.filter g).length ≤ (ys.filter f).length := by
      intro ys
      induction ys with
      | nil => simp
      | cons z zs ihz =>
        intro hz
        have h1 := ihz fun w hw => hz w (List.mem_cons_of_mem _ hw)
        have h2 := hz z (List.mem_cons_self ..)
        simp only [List.filter_cons]
        cases hgz : g z
        · cases hfz : f z <;> simp <;> omega
        · simp [h2 hgz]
          omega
    have hxs := hle xs fun w hw => hgf w (List.mem_cons_of_mem _ hw)
    simp only [List.filter_cons]
    rcases List.mem_cons.mp hy with rfl | hy
    · simp [hf, hg]
      omega
    · have h1 := ih (fun w hw => hgf w (List.mem_cons_of_mem _ hw)) hy
      have h2 := hgf x (List.mem_cons_self ..)
      cases hgx : g x
      · cases hfx : f x <;> simp <;> omega
      · simp [h2 hgx]
        omega

/-- Giving up the turn lets at most one thread stop waiting at the notice unit. -/
theorem turnless_tail (l : List Thread) :
    (Thread.all.filter (fun t => !l.tail.contains t)).length ≤ (Thread.all.filter (fun t => !l.contains t)).length + 1 := by
  cases l with
  | nil => simp
  | cons h r =>
    have hcount : ∀ ys : List Thread, ys.Nodup →
        (ys.filter (fun t => !r.contains t)).length ≤ (ys.filter (fun t => !(h :: r).contains t)).length + 1 := by
      intro ys hys
      induction ys with
      | nil => simp
      | cons y ys ih =>
        obtain ⟨hy, hys⟩ := List.nodup_cons.mp hys
        by_cases hyh : y = h
        · subst hyh
          have heq : ys.filter (fun t => !(y :: r).contains t) = ys.filter (fun t => !r.contains t) :=
            List.filter_congr fun x hx => by
              have : x ≠ y := fun h => hy (h ▸ hx)
              simp [this]
          have h1 : ((y :: ys).filter (fun t => !r.contains t)).length ≤ (ys.filter (fun t => !r.contains t)).length + 1 := by
            rw [List.filter_cons]
            split
            · exact Nat.le_refl _
            · exact Nat.le_succ _
          have h2 : (ys.filter (fun t => !(y :: r).contains t)).length ≤
              ((y :: ys).filter (fun t => !(y :: r).contains t)).length :=
            ((List.sublist_cons_self y ys).filter _).length_le
          rw [heq] at h2
          omega
        · have h1 : (h :: r).contains y = r.contains y := by simp [hyh]
          have h2 := ih hys
          rw [List.filter_cons, List.filter_cons, h1]
          split
          · simpa only [List.length_cons, Nat.add_le_add_iff_right] using h2
          · exact h2
    exact hcount Thread.all (by decide)

theorem DoneFrame.roomless_eq {t : Thread} {s s' : State} (h : DoneFrame t s s') : roomless s' = roomless s := by
  unfold roomless
  congr 1
  refine List.filter_congr fun u _ => ?_
  have := h.waiters u
  rw [Bool.not_inj_iff, Bool.eq_iff_iff]
  simpa using this

theorem DoneFrame.turnless_le {t : Thread} {s s' : State} (h : DoneFrame t s s') : turnless s' ≤ turnless s + 1 := by
  unfold turnless
  rcases h.turn with h | h | ⟨h1, h2⟩
  · rw [h]
    omega
  · rw [h]
    exact turnless_tail _
  · rw [h1, h2]
    exact (List.length_filter_le _ _).trans (by simp [Thread.all])

/-- A step of a thread that can go on lowers the measure. -/
theorem settleMeasure_micro {s : State} {t : Thread} (h : canRun s t = true) :
    settleMeasure (micro false t s) < settleMeasure s := by
  simp only [canRun, Bool.and_eq_true, Bool.not_eq_true'] at h
  obtain ⟨⟨⟨hne, hroom⟩, hstrike⟩, hturn⟩ := h
  unfold micro
  split
  · rename_i hops
    simp [hops] at hne
  · rename_i op rest hops
    have hf := runOp_framed false t op s
    have hc := runOp_within false t op s
    split
    · rename_i s' push hrun
      rw [hrun] at hf hc
      simp only [OpResult.framed, OpResult.within] at hf hc
      have h1 := totalCost_putOps s' t (push ++ rest)
      have h2 : totalCost s' = totalCost s := by simp [totalCost, hf.threads]
      rw [hf.threads, hops, h2] at h1
      simp only [costOf_cons, costOf_append] at h1
      have h3 := hf.roomless_eq
      have h4 := hf.turnless_le
      have h5 := strikeless_eq hf.strikeWait
      have h6 : roomless (s'.putOps t (push ++ rest)) = roomless s' := rfl
      have h7 : turnless (s'.putOps t (push ++ rest)) = turnless s' := rfl
      have h8 : strikeless (s'.putOps t (push ++ rest)) = strikeless s' := rfl
      simp only [settleMeasure]
      omega
    · rename_i s' hrun
      rw [hrun] at hf
      simp only [OpResult.framed] at hf
      cases hf with
      | room h =>
        subst h
        have : roomless (beginWait s (.thread t)) < roomless s := by
          unfold roomless
          refine filter_lt _ _ _ ?_ t (Thread.mem_all t) ?_ ?_
          · intro x _ hx
            simp at hx ⊢
            exact hx.1
          · simpa using hroom
          · simp
        have h2 : totalCost (beginWait s (.thread t)) = totalCost s := rfl
        have h3 : turnless (beginWait s (.thread t)) = turnless s := rfl
        have h4 : strikeless (beginWait s (.thread t)) = strikeless s := rfl
        simp only [settleMeasure]
        omega
      | turn hd r hs hne' h' =>
        have hnot : s.notices.turn.contains t = false := by
          simp only [waitsForTurn, hs, Bool.and_eq_false_iff] at hturn
          rw [hs]
          simp only [List.contains_cons, Bool.or_eq_false_iff]
          refine ⟨by simpa using fun h => hne' h.symm, ?_⟩
          rcases hturn with hturn | hturn
          · simp at hturn
            exact absurd hturn hne'
          · exact hturn
        have : turnless s' < turnless s := by
          subst h'
          unfold turnless
          refine filter_lt _ _ _ ?_ t (Thread.mem_all t) ?_ ?_
          · intro x _ hx
            rw [hs]
            simp at hx ⊢
            exact ⟨hx.1, hx.2.1⟩
          · simpa using hnot
          · simp
        have h2 : totalCost s' = totalCost s := by subst h'; rfl
        have h3 : roomless s' = roomless s := by subst h'; rfl
        have h4 : strikeless s' = strikeless s := by subst h'; rfl
        simp only [settleMeasure]
        omega
      | strikes e ho h' =>
        have hw : s.topology.strikeWait = false := by
          simp only [waitsForStrikes, hops, ho, Bool.and_true] at hstrike
          exact hstrike
        have h2 : totalCost s' = totalCost s := by subst h'; rfl
        have h3 : roomless s' = roomless s := by subst h'; rfl
        have h4 : turnless s' = turnless s := by subst h'; rfl
        have h5 : strikeless s' = 0 := by subst h'; rfl
        have h6 : strikeless s = 1 := by simp [strikeless, hw]
        simp only [settleMeasure]
        omega

/-! ### Settling -/

theorem canRun_of_nextThread {s : State} {t : Thread} (h : nextThread s = some t) : canRun s t = true := List.find?_some h

/-- With fuel for its measure, settling ends in a quiescent state. -/
theorem settle_quiescent (n : Nat) (s : State) (h : settleMeasure s ≤ n) : nextThread (settle n s) = none := by
  induction n generalizing s with
  | zero =>
    simp only [settle]
    cases hs : nextThread s with
    | none => rfl
    | some t =>
      have := settleMeasure_micro (canRun_of_nextThread hs)
      omega
  | succ n ih =>
    simp only [settle]
    split
    · assumption
    · rename_i t hs
      have := settleMeasure_micro (canRun_of_nextThread hs)
      exact ih _ (by omega)

/-- Fuel beyond the measure makes no difference. -/
theorem settle_fuel (n m : Nat) (s : State) (hn : settleMeasure s ≤ n) (hm : settleMeasure s ≤ m) : settle n s = settle m s := by
  induction n generalizing s m with
  | zero =>
    cases m with
    | zero => rfl
    | succ m =>
      simp only [settle]
      cases hs : nextThread s with
      | none => rfl
      | some t =>
        have := settleMeasure_micro (canRun_of_nextThread hs)
        omega
  | succ n ih =>
    cases m with
    | zero =>
      simp only [settle]
      cases hs : nextThread s with
      | none => rfl
      | some t =>
        have := settleMeasure_micro (canRun_of_nextThread hs)
        omega
    | succ m =>
      simp only [settle]
      cases hs : nextThread s with
      | none => rfl
      | some t =>
        have := settleMeasure_micro (canRun_of_nextThread hs)
        exact ih _ _ (by omega) (by omega)

theorem settleMeasure_le (s : State) : settleMeasure s ≤ 2 * totalCost s + 17 := by
  have h1 : roomless s ≤ 8 := List.length_filter_le _ _
  have h2 : turnless s ≤ 8 := List.length_filter_le _ _
  have h3 : strikeless s ≤ 1 := by
    unfold strikeless
    split <;> omega
  simp only [settleMeasure]
  omega

/-- The state that settling leaves is quiescent: the fuel is never used up. -/
theorem settleAll_quiescent (s : State) : quiescent (settleAll s) = true := by
  simp [quiescent, settleAll, settle_quiescent _ s (settleMeasure_le s)]

/-- Settling takes one step of the thread that goes on next, and settles the rest. -/
theorem settleAll_step {s : State} {t : Thread} (h : nextThread s = some t) : settleAll s = settleAll (micro false t s) := by
  have h1 := settleMeasure_micro (canRun_of_nextThread h)
  have h2 : settleAll s = settle (settleMeasure s + 1) s :=
    settle_fuel _ _ _ (settleMeasure_le s) (by omega)
  rw [h2]
  simp only [settle, h]
  exact settle_fuel _ _ _ (by omega) (settleMeasure_le _)

/-- A quiescent state is settled. -/
theorem settleAll_of_quiescent {s : State} (h : nextThread s = none) : settleAll s = s := by
  have h2 : settleAll s = settle (settleMeasure s + 1) s :=
    settle_fuel _ _ _ (settleMeasure_le s) (by omega)
  rw [h2]
  simp [settle, h]

/-- A property kept by every step of a thread that can go on is kept by settling. -/
theorem settleAll_induction (P : State → Prop)
    (hstep : ∀ s t, P s → canRun s t = true → P (micro false t s)) (s : State) (h : P s) : P (settleAll s) := by
  have : ∀ n s, P s → P (settle n s) := by
    intro n
    induction n with
    | zero => exact fun s h => h
    | succ n ih =>
      intro s h
      simp only [settle]
      split
      · exact h
      · rename_i t hs
        exact ih _ (hstep s t h (canRun_of_nextThread hs))
  exact this _ s h

/-- A property of a state that does not look at the threads, and that every step keeps, is kept by `micro`. -/
theorem micro_keeps (P : State → Prop) (hput : ∀ s t ops, P s → P (s.putOps t ops)) {g : Bool} {t : Thread} {s : State}
    (h : P s)
    (hdone : ∀ op rest s' push, s.threads.get t = op :: rest → runOp g t op s = .done s' push → P s')
    (hwait : ∀ op rest s', s.threads.get t = op :: rest → runOp g t op s = .wait s' → P s') : P (micro g t s) := by
  unfold micro
  split
  · exact h
  · rename_i op rest hops
    split
    · rename_i s' push hrun
      exact hput _ _ _ (hdone op rest s' push hops hrun)
    · rename_i s' hrun
      exact hwait op rest s' hops hrun

/-- A step touches neither the host's queue nor the reset pin. -/
theorem micro_pending (g : Bool) (t : Thread) (s : State) :
    (micro g t s).pending = s.pending ∧ (micro g t s).inReset = s.inReset := by
  refine micro_keeps (fun u => u.pending = s.pending ∧ u.inReset = s.inReset) (fun _ _ _ h => h) ⟨rfl, rfl⟩ ?_ ?_
  · intro op rest s' push _ hrun
    have := runOp_framed g t op s
    rw [hrun] at this
    exact ⟨this.pending, this.inReset⟩
  · intro op rest s' _ hrun
    have := runOp_framed g t op s
    rw [hrun] at this
    cases this with
    | room h => subst h; exact ⟨rfl, rfl⟩
    | turn _ _ _ _ h => subst h; exact ⟨rfl, rfl⟩
    | strikes _ _ h => subst h; exact ⟨rfl, rfl⟩

theorem settleAll_pending (s : State) : (settleAll s).pending = s.pending ∧ (settleAll s).inReset = s.inReset :=
  settleAll_induction (fun u => u.pending = s.pending ∧ u.inReset = s.inReset)
    (fun u t h _ => ⟨(micro_pending false t u).1.trans h.1, (micro_pending false t u).2.trans h.2⟩) s ⟨rfl, rfl⟩

/-- A step of a thread keeps what no step changes. -/
theorem micro_kept (g : Bool) (t : Thread) (s : State) : Kept s (micro g t s) := by
  refine micro_keeps (fun u => Kept s u) (fun _ _ _ h => ⟨h.1, h.2, h.3, h.4, h.5, h.6, h.7, h.8, h.9, h.10⟩) (.refl s) ?_ ?_
  · intro op rest s' push _ hrun
    have := runOp_framed g t op s
    rw [hrun] at this
    exact this.kept
  · intro op rest s' _ hrun
    have := runOp_framed g t op s
    rw [hrun] at this
    cases this with
    | room h => subst h; exact ⟨rfl, rfl, rfl, rfl, rfl, rfl, rfl, rfl, rfl, rfl⟩
    | turn _ _ _ _ h => subst h; exact ⟨rfl, rfl, rfl, rfl, rfl, rfl, rfl, rfl, rfl, rfl⟩
    | strikes _ _ h => subst h; exact ⟨rfl, rfl, rfl, rfl, rfl, rfl, rfl, rfl, rfl, rfl⟩

/-- Settling keeps what no step changes. -/
theorem settleAll_kept (s : State) : Kept s (settleAll s) :=
  settleAll_induction (fun u => Kept s u) (fun u t h _ => h.trans (micro_kept false t u)) s (.refl s)

theorem launch_kept (s : State) (t : Thread) (ops : List Op) : Kept s (launch s t ops) :=
  Kept.trans (t := s.addOps t ops) ⟨rfl, rfl, rfl, rfl, rfl, rfl, rfl, rfl, rfl, rfl⟩ (settleAll_kept (s.addOps t ops))

end Sys2Proof.Machine
end

