-- ==== Sys2Proof/Laws/Calm.lean ====
section
/-!
SUPPORT. How an operation runs when no other is under way: one step after another, each a rewriting of the state, until its steps
are done. The common steps (a reference, a content item, a post that is not written, a command's outcome) each have their rewriting.
-/

namespace Sys2Proof.Machine

/-- No thread but `t` has a say: no other has steps to come, none waits for room or for the strike queue, and the turn at the
notice unit is free or held by `t`. -/
structure Alone (t : Thread) (s : State) : Prop where
  threads : ∀ u, u ≠ t → s.threads.get u = []
  waiters : ∀ u, Waiter.thread u ∉ s.writeBack.waiters
  turn : s.notices.turn = [] ∨ s.notices.turn = [t]
  strikeWait : s.topology.strikeWait = false

@[simp] theorem Threads.get_none (t : Thread) : Threads.none.get t = [] := by cases t <;> rfl

@[simp] theorem Threads.put_get (ts : Threads) (t : Thread) : ts.put t (ts.get t) = ts := by cases t <;> rfl

@[simp] theorem Threads.put_put (ts : Threads) (t : Thread) (a b : List Op) : (ts.put t a).put t b = ts.put t b := by
  cases t <;> rfl

@[simp] theorem State.putOps_putOps (s : State) (t : Thread) (a b : List Op) : (s.putOps t a).putOps t b = s.putOps t b := by
  simp [State.putOps]

theorem Calm.alone {s : State} {n : Nat} (h : Calm s n) (t : Thread) : Alone t s :=
  ⟨fun u _ => by rw [h.threads, Threads.get_none], fun u => by simp [h.waiters], .inl h.turn, h.strikeWait⟩

theorem Calm.fewer {s : State} {n m : Nat} (h : Calm s n) (hm : m ≤ n) : Calm s m :=
  ⟨h.released, h.threads, h.waiters, h.turn, h.strikeWait, (Nat.add_le_add_left hm _).trans h.room⟩

theorem Alone.putOps {t : Thread} {s : State} (h : Alone t s) (ops : List Op) : Alone t (s.putOps t ops) :=
  ⟨fun u hu => by rw [State.putOps_threads, Threads.get_put_ne _ _ hu, h.threads u hu], h.waiters, h.turn, h.strikeWait⟩

/-- The only thread with steps to come goes on. -/
theorem Alone.nextThread {t : Thread} {s : State} (h : Alone t s) (op : Op) (rest : List Op) :
    nextThread (s.putOps t (op :: rest)) = some t := by
  have hrun : ∀ u, canRun (s.putOps t (op :: rest)) u = decide (u = t) := by
    intro u
    by_cases hu : u = t
    · subst hu
      have h1 : (s.putOps u (op :: rest)).writeBack.waiters.contains (.thread u) = false := by
        simpa using h.waiters u
      have h2 : waitsForStrikes (s.putOps u (op :: rest)) u = false := by
        simp [waitsForStrikes, h.strikeWait]
      have h3 : waitsForTurn (s.putOps u (op :: rest)) u = false := by
        unfold waitsForTurn
        rcases h.turn with ht | ht <;> simp [ht]
      unfold canRun
      rw [h1, h2, h3]
      simp
    · unfold canRun
      rw [State.putOps_threads, Threads.get_put_ne _ _ hu, h.threads u hu]
      simp [hu]
  unfold Machine.nextThread
  rw [show canRun (s.putOps t (op :: rest)) = fun u => decide (u = t) from funext hrun]
  cases t <;> rfl

/-- A finished step leaves the thread alone. -/
theorem Alone.done {t : Thread} {s s' : State} (h : Alone t s) (hd : DoneFrame t s s') : Alone t s' := by
  refine ⟨fun u hu => by rw [hd.threads, h.threads u hu], fun u => ?_, ?_, hd.strikeWait.trans h.strikeWait⟩
  · rw [hd.waiters]
    exact h.waiters u
  · rcases hd.turn with k | k | ⟨-, k⟩
    · rw [k]
      exact h.turn
    · rw [k]
      rcases h.turn with h | h <;> simp [h]
    · exact .inr k

/-- An operation without steps to come leaves the state as it is. -/
theorem settled_nil {t : Thread} {s : State} (h : Alone t s) : settleAll (s.putOps t []) = s.putOps t [] := by
  refine settleAll_of_quiescent ?_
  unfold Machine.nextThread
  rw [List.find?_eq_none]
  intro u _
  by_cases hu : u = t
  · simp [canRun, hu]
  · simp [canRun, Threads.get_put_ne _ _ hu, h.threads u hu]

theorem settled_calm {n : Nat} {s : State} (h : Calm s n) (t : Thread) : settleAll (s.putOps t []) = s := by
  rw [settled_nil (h.alone t)]
  simp only [State.putOps]
  rw [← Threads.get_none t, ← h.threads, Threads.put_get]

/-- An operation takes its first step, which is finished, and goes on with what it adds and the rest. -/
theorem settled_done {t : Thread} {s s' : State} {op : Op} {push rest : List Op} (h : Alone t s)
    (hrun : runOp false t op (s.putOps t (op :: rest)) = .done s' push) :
    settleAll (s.putOps t (op :: rest)) = settleAll (s'.putOps t (push ++ rest)) ∧ Alone t s' := by
  have hd : DoneFrame t (s.putOps t (op :: rest)) s' := by
    have := runOp_framed false t op (s.putOps t (op :: rest))
    rw [hrun] at this
    exact this
  refine ⟨?_, (h.putOps _).done hd⟩
  rw [settleAll_step (h.nextThread op rest)]
  congr 1
  simp only [micro, State.putOps_threads, Threads.get_put_self, hrun]

/-- The operation launched in a state in which no thread has steps to come. -/
theorem launch_calm {s : State} {n : Nat} (h : Calm s n) (t : Thread) (ops : List Op) :
    launch s t ops = settleAll (s.putOps t ops) := by
  simp [launch, State.addOps, h.threads]

/-! ### The common steps -/

theorem Calm.withRef {s : State} {n : Nat} (h : Calm s (n + 1)) (r : Ref) : Calm (withRef s r) n := by
  unfold Machine.withRef
  have hr := h.room
  split
  · exact h.fewer (Nat.le_succ n)
  · refine ⟨h.released, h.threads, h.waiters, h.turn, h.strikeWait, ?_⟩
    simp only [List.length_append, List.length_singleton]
    omega

theorem Calm.withContent {s : State} {n : Nat} (h : Calm s (n + 1)) (a : Nat) (d : Line) (m : Option ResultMark) :
    Calm (withContent s a d m) n := by
  have hr := h.room
  refine ⟨h.released, h.threads, h.waiters, h.turn, h.strikeWait, ?_⟩
  simp only [Machine.withContent, List.length_append, List.length_singleton]
  omega

theorem refIdle_eq (s : State) (r : Ref) :
    refIdle s r = decide ((r ≠ .status ∧ s.decoder.windows = none) ∨ .ref r ∈ s.writeBack.queue) := by
  cases h : s.decoder.windows <;> simp [refIdle, refQueued, List.contains_eq_mem, h]

theorem Calm.hasPlace {s : State} {n : Nat} (h : Calm s (n + 1)) : hasPlace false s = true := by
  have := h.room
  simp only [Config.writeBackItems] at this
  simp [Machine.hasPlace, placeFree, h.waiters]
  omega

theorem Calm.placeFree {s : State} {n : Nat} (h : Calm s (n + 1)) : placeFree s = true := by
  have := h.hasPlace
  simpa [Machine.hasPlace] using this

/-- A reference item: queued unless it is queued already or has no window to go to. -/
theorem settled_ref {s : State} {n : Nat} (h : Calm s (n + 1)) (t : Thread) (r : Ref) (rest : List Op) :
    settleAll (s.putOps t (.ref r :: rest)) = settleAll ((withRef s r).putOps t rest) := by
  have hp := h.hasPlace
  by_cases hi : (r ≠ .status ∧ s.decoder.windows = none) ∨ WbItem.ref r ∈ s.writeBack.queue
  · have hrun : runOp false t (.ref r) (s.putOps t (.ref r :: rest)) = .done (s.putOps t (.ref r :: rest)) [] := by
      have : refIdle (s.putOps t (.ref r :: rest)) r = true := by rw [refIdle_eq]; exact decide_eq_true hi
      simp [runOp, queueRef, this]
    have h1 := (settled_done (h.alone t) hrun).1
    rw [h1]
    simp [Machine.withRef, hi]
  · have hrun : runOp false t (.ref r) (s.putOps t (.ref r :: rest)) =
        .done ((enqueue s (.ref r)).putOps t (.ref r :: rest)) [] := by
      have h1 : refIdle (s.putOps t (.ref r :: rest)) r = false := by rw [refIdle_eq]; exact decide_eq_false hi
      have h2 : Machine.hasPlace false (s.putOps t (.ref r :: rest)) = true := hp
      simp only [runOp, queueRef, h1, h2, Bool.false_eq_true, if_false, if_true]
      rfl
    have h1 := (settled_done (h.alone t) hrun).1
    rw [h1, State.putOps_putOps]
    simp only [Machine.withRef, if_neg hi]
    rfl

theorem Calm.withRefs {s : State} {n : Nat} (rs : List Ref) (h : Calm s (n + rs.length)) : Calm (withRefs s rs) n := by
  induction rs generalizing s with
  | nil => exact h
  | cons r rs ih => exact ih ((h.fewer (by simp only [List.length_cons]; omega)).withRef (n := n + rs.length) r)

/-- Several reference items, in order. -/
theorem settled_refs {s : State} {n : Nat} (t : Thread) (rs : List Ref) (rest : List Op) (h : Calm s (n + rs.length)) :
    settleAll (s.putOps t (rs.map Op.ref ++ rest)) = settleAll ((withRefs s rs).putOps t rest) := by
  induction rs generalizing s with
  | nil => rfl
  | cons r rs ih =>
    have h1 : Calm s (n + rs.length + 1) := h.fewer (by simp only [List.length_cons]; omega)
    rw [List.map_cons, List.cons_append, settled_ref h1, ih (h1.withRef r)]
    rfl

/-- A step that rewrites the state without a look at the threads, as an equation between the two states. -/
theorem settled_step {s s' : State} {t : Thread} {op : Op} {push rest : List Op} (h : Alone t s)
    (hrun : runOp false t op (s.putOps t (op :: rest)) = .done (s'.putOps t (op :: rest)) push) :
    settleAll (s.putOps t (op :: rest)) = settleAll (s'.putOps t (push ++ rest)) := by
  rw [(settled_done h hrun).1, State.putOps_putOps]

/-- A released grant that no one waits for leaves the holder none (R111). -/
theorem releaseGrant_unasked {s : State} (h1 : s.arbiter.waitTopology = false) (h2 : s.arbiter.waitPath = false) :
    releaseGrant s = { s with arbiter := { s.arbiter with holder := none } } := by
  simp [releaseGrant, h1, h2]

/-- The topology unit's operation ends with no request waiting (R111). -/
theorem settled_topologyEnd {s : State} {t : Thread} (h : Alone t s) (rest : List Op)
    (h1 : s.arbiter.waitTopology = false) (h2 : s.arbiter.waitPath = false) :
    settleAll (s.putOps t (.topologyEnd :: rest)) = settleAll ((topologyIdle s).putOps t rest) := by
  refine (settled_step (s' := topologyIdle s) (push := []) h ?_).trans rfl
  have e := releaseGrant_unasked
    (s := { s.putOps t (.topologyEnd :: rest) with topology := { s.topology with work := none } }) h1 h2
  exact congrArg (fun u => OpResult.done u []) e

/-- A content item of a result. -/
theorem settled_result {s : State} {n : Nat} (h : Calm s (n + 1)) (t : Thread) (m : ResultMark) (l : ResultLine)
    (rest : List Op) :
    settleAll (s.putOps t (.result m l :: rest)) =
      settleAll ((withContent s (resultTarget s m) (resultLine s l) (some m)).putOps t rest) := by
  have hrun : runOp false t (.result m l) (s.putOps t (.result m l :: rest)) =
      .done ((withContent s (resultTarget s m) (resultLine s l) (some m)).putOps t (.result m l :: rest)) [] := by
    have h2 : Machine.hasPlace false (s.putOps t (.result m l :: rest)) = true := h.hasPlace
    have h3 : resultLine (s.putOps t (.result m l :: rest)) l = resultLine s l := by
      cases l with
      | first tag o cls path src => cases src <;> rfl
      | second tag o src => cases src <;> rfl
    simp only [runOp, queueContent, h2, h3, if_true]
    rfl
  rw [(settled_done (h.alone t) hrun).1, State.putOps_putOps]
  rfl

/-- A post of a disabled class is not written, and changes nothing (R175). -/
theorem settled_post_disabled {s : State} {n : Nat} (h : Calm s n) (t : Thread) (x : Notice) (hx : noticeEnabled s x = false)
    (rest : List Op) : settleAll (s.putOps t (.post x :: rest)) = settleAll (s.putOps t rest) := by
  have hen : ∀ u : State, u.control = s.control → noticeEnabled u x = false := by
    intro u hu
    rw [← hx]
    cases x <;> simp [noticeEnabled, hu]
  have hrun : runOp false t (.post x) (s.putOps t (.post x :: rest)) = .done (s.putOps t (.post x :: rest)) [] := by
    have ht : (s.putOps t (.post x :: rest)).notices.turn = [] := h.turn
    generalize hu : s.putOps t (.post x :: rest) = u at ht
    have hc : u.control = s.control := by rw [← hu]; rfl
    have he := hen { u with notices := { u.notices with turn := [t] } } hc
    simp only [runOp, postNotice, withTurn, ht]
    rw [he]
    obtain ⟨_, _, _, _, _, _, _, _, _, _, _, _, _, notices, _⟩ := u
    obtain ⟨_, _, _, _, _, turn⟩ := notices
    simp only at ht
    subst ht
    rfl
  have h1 := (settled_done (h.alone t) hrun).1
  rw [h1]
  simp

/-- With room in the write-back queue the notice unit's status line reference is one like any other (R17, R175). -/
theorem noteStatus_calm {s : State} {n : Nat} (h : Calm s (n + 1)) : noteStatus s = withRef s .status := by
  have hr := h.room
  simp only [Config.writeBackItems] at hr
  unfold noteStatus WriteBack.noted withRef
  by_cases h1 : WbItem.ref .status ∈ s.writeBack.queue
  · simp [h1]
  · have h2 : s.writeBack.queue.length < 64 := by omega
    simp [h1, h.waiters, h2]

/-- A command's outcome enters the response image, which is queued at once (R21, R22). -/
theorem imageWrite_calm {s : State} {n : Nat} (h : Calm s (n + 1)) :
    imageWrite s = withContent s (anchorBase s + 1) (responseLine s) none := by
  simp [imageWrite, h.waiters, h.placeFree, Machine.withContent, enqueue]

theorem finishRecord_calm {s : State} {n : Nat} (h : Calm s (n + 1)) (r : Line) (o : CmdOutcome) :
    finishRecord s r o = answered s r o := by
  unfold finishRecord answered
  exact imageWrite_calm (n := n) ⟨h.released, h.threads, h.waiters, h.turn, h.strikeWait, h.room⟩

theorem completeCommand_calm {s : State} {n : Nat} (h : Calm s (n + 1)) {c : Running} (hc : s.control.inProgress = some c)
    (o : CmdOutcome) : completeCommand s o = answered s c.record o := by
  simp only [completeCommand, hc]
  exact finishRecord_calm h c.record o

theorem settled_complete {s : State} {n : Nat} (h : Calm s (n + 1)) {c : Running} (hc : s.control.inProgress = some c)
    (t : Thread) (o : CmdOutcome) (rest : List Op) :
    settleAll (s.putOps t (.complete o :: rest)) = settleAll ((answered s c.record o).putOps t rest) := by
  have hrun : runOp false t (.complete o) (s.putOps t (.complete o :: rest)) =
      .done ((answered s c.record o).putOps t (.complete o :: rest)) [] := by
    simp only [runOp]
    congr 1
    have hc' : (s.putOps t (.complete o :: rest)).control.inProgress = some c := hc
    have hw : (s.putOps t (.complete o :: rest)).writeBack = s.writeBack := rfl
    have h2 : Machine.placeFree (s.putOps t (.complete o :: rest)) = true := h.placeFree
    simp only [completeCommand, hc', finishRecord, imageWrite, hw, h.waiters, Machine.placeFree] at h2 ⊢
    simp only [List.contains_nil, Bool.false_eq_true, if_false, h2, if_true]
    rfl
  have h1 := (settled_done (h.alone t) hrun).1
  rw [h1]
  simp

/-! ### Commands of the control unit -/

theorem live_released {s : State} (h : s.inReset = false) (f : State → State) : live s f = .next (f s) := by simp [live, h]

theorem Calm.dealtWith {s : State} {n : Nat} (h : Calm s n) : Calm (dealtWith s) n :=
  ⟨h.released, h.threads, h.waiters, h.turn, h.strikeWait, h.room⟩

theorem Calm.answered {s : State} {n : Nat} (h : Calm s (n + 1)) (r : Line) (o : CmdOutcome) : Calm (answered s r o) n := by
  have hr := h.room
  refine ⟨h.released, h.threads, h.waiters, h.turn, h.strikeWait, ?_⟩
  simp only [Machine.answered, Machine.withContent, List.length_append, List.length_singleton]
  omega

@[simp] theorem withRef_control (s : State) (r : Ref) : (withRef s r).control = s.control := by
  unfold withRef
  split <;> rfl

@[simp] theorem withRefs_control (rs : List Ref) (s : State) : (withRefs s rs).control = s.control := by
  induction rs generalizing s with
  | nil => rfl
  | cons r rs ih => exact (ih _).trans (withRef_control _ _)

/-- The command of the only record handed over has its effect, and no record is left to judge (R21). -/
theorem onRecord_commanded {s t : State} {r : Line} {code : Nat} (hc : Commanded s r code) {p : Line → Bool}
    {f : Line → State → State} (hp : p r = true) (ht : f r (dealtWith s) = t) (hh : t.control.handed = []) :
    onRecord p f s = t := by
  subst ht
  obtain ⟨h1, h2, h3⟩ := hc
  have h5 : isRefused s r = false := by simp [isRefused, h2]
  simp only [onRecord, h1, hp, h5, Bool.not_false, Bool.and_true, if_true]
  change judgeCommands (f r (Machine.dealtWith s)).control.handed (f r (Machine.dealtWith s)) = _
  rw [hh]
  simp only [judgeCommands]
  rw [← hh]

theorem withRef_inProgress (s : State) (c : Option Running) (r : Ref) :
    withRef { s with control := { s.control with inProgress := c } } r =
      { withRef s r with control := { (withRef s r).control with inProgress := c } } := by
  unfold withRef
  split <;> rfl

theorem withRefs_inProgress (rs : List Ref) (s : State) (c : Option Running) :
    withRefs { s with control := { s.control with inProgress := c } } rs =
      { withRefs s rs with control := { (withRefs s rs).control with inProgress := c } } := by
  induction rs generalizing s with
  | nil => rfl
  | cons r rs ih =>
    simp only [withRefs, List.foldl_cons] at ih ⊢
    rw [withRef_inProgress, ih]

theorem answered_inProgress (s : State) (c : Option Running) (r : Line) (o : CmdOutcome) :
    answered { s with control := { s.control with inProgress := c } } r o = answered s r o := by
  simp [answered, withContent, anchorBase, responseLine]

/-- A command whose items are references queues them and answers DONE (R18, R22). -/
theorem performing_refs {s : State} {n : Nat} (r : Line) (rs : List Ref) (h : Calm s (n + 1 + rs.length)) :
    performing s r (rs.map Op.ref) = answered (withRefs s rs) r .done := by
  have hb : Calm (begin s r .effects) (n + 1 + rs.length) :=
    ⟨h.released, h.threads, h.waiters, h.turn, h.strikeWait, h.room⟩
  have hw := hb.withRefs rs
  have hp : (withRefs (begin s r .effects) rs).control.inProgress = some ⟨r, .effects⟩ := by
    rw [withRefs_control]
    rfl
  unfold performing
  rw [launch_calm hb, settled_refs _ _ _ hb, settled_complete hw hp, settled_calm (hw.answered r .done)]
  unfold begin
  rw [withRefs_inProgress, answered_inProgress]

theorem usedRefs_ops (s : State) : topologyRefs s ++ pathRefs s = (usedRefs s).map Op.ref := by
  simp [topologyRefs, pathRefs, usedRefs, Table.keys, Function.comp_def]

end Sys2Proof.Machine
end

