-- ==== Sys2Proof/Laws/Layout.lean ====
section
/-!
SUPPORT. The bits of a line built from fields, and so: a line of fields that fit and do not overlap shows each of them at its place.
-/

namespace Sys2Proof.Machine

/-- A bit of a field's bits is that of the value, at the field's place, and zero elsewhere. -/
theorem Field.getLsbD_bits (f : Field) {b : Nat} (hb : b < 512) :
    f.bits.getLsbD b = (decide (8 * f.off ≤ b ∧ b < 8 * (f.off + f.bytes)) && f.value.testBit (b - 8 * f.off)) := by
  unfold Field.bits
  rw [BitVec.getLsbD_ofNat, Nat.testBit_shiftLeft, Nat.testBit_mod_two_pow]
  by_cases h1 : 8 * f.off ≤ b
  · have h2 : (b - 8 * f.off < 8 * f.bytes) ↔ b < 8 * (f.off + f.bytes) := by omega
    simp [hb, h1, h2]
  · simp [h1]

/-- A bit of a line of fields is set when it is set in one of them. -/
theorem getLsbD_lineOf (fs : List Field) (b : Nat) : (lineOf fs).getLsbD b = fs.any (fun f => f.bits.getLsbD b) := by
  have h : ∀ (fs : List Field) (acc : Line), (fs.foldl (fun acc f => acc ||| f.bits) acc).getLsbD b =
      (acc.getLsbD b || fs.any (fun f => f.bits.getLsbD b)) := by
    intro fs
    induction fs with
    | nil => simp
    | cons f fs ih =>
      intro acc
      rw [List.foldl_cons, ih, BitVec.getLsbD_or, List.any_cons, Bool.or_assoc]
  simpa [lineOf] using h fs 0

/-- A field read from a line, bit by bit. -/
theorem testBit_fieldNat (l : Line) (off bytes i : Nat) :
    (fieldNat l off bytes).testBit i = (decide (i < 8 * bytes) && l.getLsbD (8 * off + i)) := by
  unfold fieldNat
  rw [← BitVec.getLsbD, BitVec.getLsbD_extractLsb']

/-- A line of fields that lie in the line, fit their width and do not overlap shows them, and zero elsewhere (R183, R185). -/
theorem lineOf_shows {fs : List Field} (hfit : ∀ f ∈ fs, f.off + f.bytes ≤ 64 ∧ f.value < 2 ^ (8 * f.bytes))
    (hapart : fs.Pairwise (fun f g => f.off + f.bytes ≤ g.off ∨ g.off + g.bytes ≤ f.off)) :
    Shows (lineOf fs) (fs.map (fun f => (f.off, f.bytes, f.value))) := by
  have hany : ∀ b < 512, (lineOf fs).getLsbD b =
      fs.any (fun f => decide (8 * f.off ≤ b ∧ b < 8 * (f.off + f.bytes)) && f.value.testBit (b - 8 * f.off)) := by
    intro b hb
    rw [getLsbD_lineOf]
    congr 1
    funext f
    exact f.getLsbD_bits hb
  constructor
  · intro x hx
    obtain ⟨f, hf, rfl⟩ := List.mem_map.1 hx
    obtain ⟨hin, hv⟩ := hfit f hf
    refine Nat.eq_of_testBit_eq fun i => ?_
    rw [testBit_fieldNat]
    by_cases hi : i < 8 * f.bytes
    · have hb : 8 * f.off + i < 512 := by omega
      rw [hany _ hb, decide_eq_true hi, Bool.true_and]
      cases hbit : f.value.testBit i with
      | true =>
        refine List.any_eq_true.2 ⟨f, hf, ?_⟩
        rw [Nat.add_sub_cancel_left, hbit, Bool.and_true]
        exact decide_eq_true ⟨Nat.le_add_right _ _, by omega⟩
      | false =>
        refine List.any_eq_false.2 fun g hg => ?_
        by_cases hgf : g = f
        · subst hgf
          rw [Nat.add_sub_cancel_left, hbit, Bool.and_false]
          exact Bool.false_ne_true
        · have : Std.Symm (fun f g : Field => f.off + f.bytes ≤ g.off ∨ g.off + g.bytes ≤ f.off) := ⟨fun _ _ => Or.symm⟩
          have hap := hapart.forall hf hg (Ne.symm hgf)
          simp only [Bool.and_eq_true, decide_eq_true_eq, not_and]
          omega
    · rw [decide_eq_false hi, Bool.false_and]
      refine (Nat.testBit_lt_two_pow (Nat.lt_of_lt_of_le hv (Nat.pow_le_pow_right (by omega) (by omega)))).symm
  · intro b hb hcov
    refine Nat.eq_of_testBit_eq fun i => ?_
    rw [testBit_fieldNat, Nat.zero_testBit]
    by_cases hi : i < 8 * 1
    · rw [hany _ (by omega), decide_eq_true hi, Bool.true_and]
      refine List.any_eq_false.2 fun g hg => ?_
      have := hcov _ (List.mem_map.2 ⟨g, hg, rfl⟩)
      simp only [Bool.and_eq_true, decide_eq_true_eq, not_and]
      simp only at this
      omega
    · rw [decide_eq_false hi, Bool.false_and]

end Sys2Proof.Machine
end

