-- ==== Sys2Proof/Laws/Ops.lean ====
section
/-!
SUPPORT. One lemma for each shared operation that says once everything it can do: queueing, the response image, the memory
sequence, reservation sets, links and the batch of the intake queue.
-/

namespace Sys2Proof.Machine

/-! ### The write-back queue (R16 to R18) -/

/-- A content item is queued at the tail with nothing left to do, or its thread begins to wait for room. -/
theorem queueContent_cases (given : Bool) (t : Thread) (target : Nat) (data : Line) (m : Option ResultMark) (s : State) :
    (hasPlace given s = true ∧ queueContent given t target data m s = .done (enqueue s (.content target data m)) []) ∨
      (hasPlace given s = false ∧ queueContent given t target data m s = .wait (beginWait s (.thread t))) := by
  unfold queueContent
  cases hasPlace given s <;> simp

/-- A reference is dropped, queued at the tail, or its thread begins to wait for room; one that adds no item never waits. -/
theorem queueRef_cases (given : Bool) (t : Thread) (r : Ref) (s : State) :
    (refIdle s r = true ∧ queueRef given t r s = .done s []) ∨
      (refIdle s r = false ∧ hasPlace given s = true ∧ queueRef given t r s = .done (enqueue s (.ref r)) []) ∨
      (refIdle s r = false ∧ hasPlace given s = false ∧ queueRef given t r s = .wait (beginWait s (.thread t))) := by
  unfold queueRef
  cases refIdle s r <;> cases hasPlace given s <;> simp

/-- The write that follows a change of the response image: one awaiting room serves it, or it is queued, or it begins to wait. -/
theorem imageWrite_cases (s : State) :
    (.response ∈ s.writeBack.waiters ∧ imageWrite s = s) ∨
      (.response ∉ s.writeBack.waiters ∧ placeFree s = true ∧
        imageWrite s = enqueue s (.content (anchorBase s + 1) (responseLine s) none)) ∨
      (.response ∉ s.writeBack.waiters ∧ placeFree s = false ∧ imageWrite s = beginWait s .response) := by
  unfold imageWrite
  by_cases h : Waiter.response ∈ s.writeBack.waiters <;> cases placeFree s <;> simp [h]

/-- The notice unit's status line reference is queued or waiting already, or is queued, or begins to wait for room (R17, R18, R175). -/
theorem noteStatus_cases (s : State) :
    ((.ref .status ∈ s.writeBack.queue ∨ .noticeStatus ∈ s.writeBack.waiters) ∧ noteStatus s = s) ∨
      (.ref .status ∉ s.writeBack.queue ∧ .noticeStatus ∉ s.writeBack.waiters ∧
        (placeFree s = true ∧ noteStatus s = enqueue s (.ref .status) ∨
          placeFree s = false ∧ noteStatus s = beginWait s .noticeStatus)) := by
  unfold noteStatus WriteBack.noted placeFree
  by_cases h1 : WbItem.ref .status ∈ s.writeBack.queue
  · simp [h1]
  · by_cases h2 : Waiter.noticeStatus ∈ s.writeBack.waiters
    · simp [h2]
    · by_cases h3 : s.writeBack.queue.length + s.writeBack.waiters.length < 64 <;> simp [h1, h2, h3, enqueue, beginWait]

/-! ### The control unit (R21) -/

/-- A record is refused exactly when a command is in progress and the record is no RESTART, or RESTART itself runs. -/
theorem isRefused_iff (s : State) (r : Line) :
    isRefused s r = true ↔ ∃ c, s.control.inProgress = some c ∧ ((cmdCode r).toNat ≠ 10 ∨ (cmdCode c.record).toNat = 10) := by
  unfold isRefused restarting
  cases s.control.inProgress with
  | none => simp
  | some c => by_cases h : (cmdCode r).toNat = 10 <;> simp [h]

/-- With no command in progress and a record of code other than 0 in front, the records handed over stay as they are. -/
theorem judgeCommands_free {s : State} {r : Line} {rest : List Line} (h : s.control.inProgress = none) (hr : cmdCode r ≠ 0) :
    judgeCommands (r :: rest) s = { s with control := { s.control with handed := r :: rest } } := by
  have hr' : ¬ cmdCode r = 0#16 := hr
  simp [judgeCommands, isRefused, h, hr']

/-! ### The memory sequence (R2, R13) -/

/-- Held reads enter the memory sequence in their order, each awaiting its response. -/
theorem forwardHolds_eq (hs : List Hold) (s : State) :
    forwardHolds s hs = { s with memory := { s.memory with
      sequence := s.memory.sequence ++ hs.map (fun h => .read h.addr h.tag)
      reads := s.memory.reads ++ hs.map (fun h => (h.tag, h.addr)) } } := by
  induction hs generalizing s with
  | nil => simp [forwardHolds]
  | cons h hs ih =>
    have hcons : forwardHolds s (h :: hs) = forwardHolds (forwardRead s h.addr h.tag) hs := rfl
    rw [hcons, ih]
    simp [forwardRead]

/-! ### Reservation sets (R157) -/

theorem reservedOn_setReserved_self (s : State) (k : Nat) (v : SlotSet) : reservedOn (setReserved s k v) k = v :=
  Table.getD_setD_self s.paths.reserved k 0 v

theorem reservedOn_setReserved_ne (s : State) {k j : Nat} (v : SlotSet) (h : j ≠ k) :
    reservedOn (setReserved s k v) j = reservedOn s j :=
  Table.getD_setD_ne s.paths.reserved 0 v h

/-! ### Links and paths -/

/-- RETIRE_DONE sets the answered mark of a link in RETIRING, and is lost on any other (R106). -/
theorem setAnswered_cases (s : State) (k : Nat) :
    (∃ l, s.topology.links.get? k = some l ∧ l.state = .retiring ∧ setAnswered s k = setLink s k { l with answered := true }) ∨
      ((∀ l, s.topology.links.get? k = some l → l.state ≠ .retiring) ∧ setAnswered s k = s) := by
  unfold setAnswered
  cases h : s.topology.links.get? k with
  | none => simp
  | some l => by_cases hl : l.state = .retiring <;> simp [hl]

/-- A freed path has no entry, and no other path's entry changes (R148). -/
theorem freePath_entries (s : State) (p q : Nat) :
    (freePath s p).paths.entries.get? q = if q = p then none else s.paths.entries.get? q := by
  split
  · rename_i h
    subst h
    exact Table.get?_erase_self _ _
  · rename_i h
    exact Table.get?_erase_ne _ h

/-- The engine's searches leave the class tried and the primary of a pair as they are (R116). -/
theorem visitFirst_working (s : State) (q : Query) (xs : List Nat) (e : Engine) :
    (visitFirst s q xs e).cls = e.cls ∧ (visitFirst s q xs e).primary = e.primary := by
  induction xs generalizing e with
  | nil => simp [visitFirst]
  | cons x xs ih =>
    have hs : ∀ b (e : Engine), (search s q x b e).1.cls = e.cls ∧ (search s q x b e).1.primary = e.primary := by
      intro b e
      simp [search]
    have hslot : (searchSlot s q e x).1.cls = e.cls ∧ (searchSlot s q e x).1.primary = e.primary := by
      unfold searchSlot
      split
      · exact hs _ _
      · exact hs _ _
      · split
        · rename_i e1 r h
          rw [← (hs false e).1, ← (hs false e).2, h]
          exact ⟨rfl, rfl⟩
        · rename_i e1 h
          rw [(hs true e1).1, (hs true e1).2, ← (hs false e).1, ← (hs false e).2, h]
          exact ⟨rfl, rfl⟩
    unfold visitFirst
    split
    · rename_i e1 r h
      rw [h] at hslot
      exact hslot
    · rename_i e1 h
      rw [h] at hslot
      rw [(ih e1).1, (ih e1).2]
      exact hslot

end Sys2Proof.Machine
end

