-- ==== Sys2Proof/Laws/Said.lean ====
section
/-!
SUPPORT. What the references, notices and PATH_STATE posts of an operation leave in a calm state: the state of Safety/Effects.lean, item
by item and for a list of items.
-/

namespace Sys2Proof.Machine

/-! ### What the items leave unchanged -/

@[simp] theorem withRef_notices (s : State) (r : Ref) : (withRef s r).notices = s.notices := by unfold withRef; split <;> rfl
@[simp] theorem withRef_decoder (s : State) (r : Ref) : (withRef s r).decoder = s.decoder := by unfold withRef; split <;> rfl
@[simp] theorem withRef_paths (s : State) (r : Ref) : (withRef s r).paths = s.paths := by unfold withRef; split <;> rfl

theorem noticeLost_control (s : State) : (noticeLost s).control = s.control := by
  unfold noticeLost
  split
  · rfl
  · rw [withRef_control]

@[simp] theorem posted_control (s : State) (n : Notice) : (posted s n).control = s.control := by
  unfold posted
  split
  · rfl
  · split
    · exact noticeLost_control s
    · split
      · simp [noticeWritten, withContent]
      · exact noticeLost_control s

@[simp] theorem pathStatePosted_control (s : State) (p : Nat) (why : PathReason) : (pathStatePosted s p why).control = s.control := by
  unfold pathStatePosted
  split
  · rfl
  · split
    · rfl
    · simp only []
      split
      · simp [pathNotified, withContent, withRecord]
      · rfl

@[simp] theorem withOne_control (s : State) (x : Said) : (withOne s x).control = s.control := by cases x <;> simp [withOne]

@[simp] theorem withSaid_control (xs : List Said) (s : State) : (withSaid s xs).control = s.control := by
  induction xs generalizing s with
  | nil => rfl
  | cons x xs ih => exact (ih _).trans (withOne_control _ _)

theorem noticeEnabled_congr {s u : State} (h : s.control = u.control) (n : Notice) : noticeEnabled s n = noticeEnabled u n := by
  cases n <;> simp only [noticeEnabled, h]

/-- The places an item can need depend on the enables alone. -/
theorem Said.places_congr {s u : State} (h : s.control = u.control) (x : Said) : Said.places s x = Said.places u x := by
  cases x with
  | ref r => rfl
  | post n => simp only [Said.places, noticeEnabled_congr h]
  | pathState p why => simp only [Said.places, h]

theorem places_congr {s u : State} (h : s.control = u.control) (xs : List Said) : places s xs = places u xs := by
  simp only [places, funext (Said.places_congr h)]

@[simp] theorem places_cons (s : State) (x : Said) (xs : List Said) : places s (x :: xs) = Said.places s x + places s xs := by
  simp [places]

@[simp] theorem places_append (s : State) (xs ys : List Said) : places s (xs ++ ys) = places s xs + places s ys := by
  simp [places]

theorem withSaid_append (s : State) (xs ys : List Said) : withSaid s (xs ++ ys) = withSaid (withSaid s xs) ys := List.foldl_append ..

/-- References are the items of a list of references. -/
theorem withSaid_refs (s : State) (rs : List Ref) : withSaid s (rs.map Said.ref) = withRefs s rs := by
  simp only [withSaid, withRefs, List.foldl_map]
  rfl

/-! ### Calm states stay calm -/

theorem Calm.noticeLost {s : State} {n : Nat} (h : Calm s (n + 1)) : Calm (noticeLost s) n := by
  unfold Machine.noticeLost
  split
  · exact h.fewer (Nat.le_succ n)
  · have h1 : Calm { s with notices := { s.notices with lost := true } } (n + 1) :=
      ⟨h.released, h.threads, h.waiters, h.turn, h.strikeWait, h.room⟩
    exact h1.withRef .status

theorem Calm.noticeWritten {s : State} {n : Nat} (h : Calm s (n + 2)) (w : Windows) (l : Line) : Calm (noticeWritten s w l) n := by
  have h1 := h.withContent (w.noticeBase + s.notices.producer.toNat % w.noticeLines) l none
  have h2 : Calm { Machine.withContent s (w.noticeBase + s.notices.producer.toNat % w.noticeLines) l none with
      notices := { s.notices with producer := s.notices.producer + 1 } } (n + 1) :=
    ⟨h1.released, h1.threads, h1.waiters, h.turn, h1.strikeWait, h1.room⟩
  exact h2.withRef .status

theorem Calm.posted {s : State} {n : Nat} {x : Notice} (h : Calm s (n + Said.places s (.post x))) : Calm (posted s x) n := by
  unfold Machine.posted
  by_cases he : noticeEnabled s x = false
  · simpa [he] using h.fewer (Nat.le_add_right n _)
  · simp only [Said.places, Bool.eq_true_of_not_eq_false he, if_true] at h
    rw [if_neg he]
    split
    · exact (h.fewer (Nat.le_succ _)).noticeLost
    · split
      · exact h.noticeWritten _ _
      · exact (h.fewer (Nat.le_succ _)).noticeLost

theorem Calm.withRecord {s : State} {n : Nat} (h : Calm s n) (p : Nat) (r : NoticeRecord) : Calm (withRecord s p r) n :=
  ⟨h.released, h.threads, h.waiters, h.turn, h.strikeWait, h.room⟩

theorem Calm.pathNotified {s : State} {n : Nat} (h : Calm s (n + 2)) (w : Windows) (p : Nat) : Calm (pathNotified w s p) n := by
  have h1 := h.withContent (w.noticeBase + s.notices.producer.toNat % w.noticeLines) (pathStateLine s p (noticeRecord s p)) none
  unfold Machine.pathNotified
  refine Calm.withRef (n := n) ?_ .status
  exact ⟨h1.released, h1.threads, h1.waiters, h.turn, h1.strikeWait, h1.room⟩

theorem Calm.pathStatePosted {s : State} {n p : Nat} {why : PathReason} (h : Calm s (n + Said.places s (.pathState p why))) :
    Calm (pathStatePosted s p why) n := by
  unfold Machine.pathStatePosted
  by_cases he : s.control.enables.path = false
  · simpa [he] using h.fewer (Nat.le_add_right n _)
  · simp only [Said.places, Bool.eq_true_of_not_eq_false he, if_true] at h
    rw [if_neg he]
    split
    · exact (h.fewer (Nat.le_add_right n 2)).withRecord _ _
    · simp only []
      split
      · exact (h.withRecord _ _).pathNotified _ _
      · exact (h.fewer (Nat.le_add_right n 2)).withRecord _ _

theorem Calm.withOne {s : State} {n : Nat} {x : Said} (h : Calm s (n + x.places s)) : Calm (withOne s x) n := by
  cases x with
  | ref r => exact Calm.withRef h r
  | post y => exact Calm.posted h
  | pathState p why => exact Calm.pathStatePosted h

/-- A calm state with room for the items of a list is calm after them. -/
theorem Calm.withSaid {n : Nat} (xs : List Said) {s : State} (h : Calm s (n + places s xs)) : Calm (withSaid s xs) n := by
  induction xs generalizing s with
  | nil => exact h
  | cons x xs ih =>
    rw [places_cons] at h
    have h1 : Calm (Machine.withOne s x) (n + places s xs) := Calm.withOne (h.fewer (by omega))
    exact ih (by rwa [places_congr (withOne_control s x)])

/-! ### Posts in a calm state -/

/-- The notice unit has taken up a post of thread `t`. -/
def turned (t : Thread) (s : State) : State := { s with notices := { s.notices with turn := [t] } }

theorem Calm.turned_alone {s : State} {n : Nat} (h : Calm s n) (t : Thread) : Alone t (turned t s) :=
  ⟨(h.alone t).threads, (h.alone t).waiters, .inr rfl, h.strikeWait⟩

/-- What `ringOpen` decides: the windows are set, the ring has room and no path notice is deferred. -/
theorem ringOpen_iff (s : State) : ringOpen s = true ↔
    ∃ w, s.decoder.windows = some w ∧ ringUsed s < w.noticeLines ∧ ∀ x ∈ s.notices.records, x.2.deferred = false := by
  cases hw : s.decoder.windows with
  | none => simp [ringOpen, ringRoom, hw]
  | some w => simp [ringOpen, ringRoom, hw, anyDeferred]

theorem endTurn_turned {s : State} (t : Thread) (h : s.notices.turn = []) : endTurn (turned t s) = s := by
  obtain ⟨_, _, _, _, _, _, _, _, _, _, _, _, _, notices, _⟩ := s
  obtain ⟨_, _, _, _, _, turn⟩ := notices
  simp only at h
  subst h
  rfl

/-- The status line reference of the notice unit while the write-back queue has room and no one waits. -/
theorem noteStatus_room {s : State} (hw : s.writeBack.waiters = []) (hq : s.writeBack.queue.length < 64) :
    noteStatus s = withRef s .status := by
  unfold noteStatus WriteBack.noted withRef
  by_cases h1 : WbItem.ref .status ∈ s.writeBack.queue
  · simp [h1]
  · simp [h1, hw, hq]

/-- A post ends after its status line reference: the turn is free, and the thread is as it was. -/
theorem endTurn_withRef (s : State) (ns : NoticeUnit) (t : Thread) (ops : List Op) :
    endTurn (withRef (({ s with notices := { ns with turn := [t] } } : State).putOps t ops) .status) =
      (withRef { s with notices := { ns with turn := [] } } .status).putOps t ops := by
  unfold withRef
  have h1 : (({ s with notices := { ns with turn := [t] } } : State).putOps t ops).writeBack = s.writeBack := rfl
  have h2 : (({ s with notices := { ns with turn := [t] } } : State).putOps t ops).decoder = s.decoder := rfl
  rw [h1, h2]
  split <;> rfl

/-- The notice unit's registers with a free turn are those of a state whose turn is free. -/
theorem NoticeUnit.turn_free {ns : NoticeUnit} (h : ns.turn = []) : { ns with turn := [] } = ns := by
  cases ns
  simp only at h
  subst h
  rfl

theorem turned_free {s : State} (h : s.notices.turn = []) : ({ s with notices := { s.notices with turn := [] } } : State) = s := by
  rw [NoticeUnit.turn_free h]

/-- A notice in a calm state: not written, written, or discarded (R175). -/
theorem settled_post {s : State} {n : Nat} {x : Notice} (h : Calm s (n + Said.places s (.post x))) (t : Thread) (rest : List Op) :
    settleAll (s.putOps t (.post x :: rest)) = settleAll ((posted s x).putOps t rest) := by
  by_cases he : noticeEnabled s x = false
  · rw [settled_post_disabled h t x he rest]
    simp [posted, he]
  have he' : noticeEnabled s x = true := Bool.eq_true_of_not_eq_false he
  simp only [Said.places, he', if_true] at h
  have hroom := h.room
  simp only [Config.writeBackItems] at hroom
  have ht : (s.putOps t (.post x :: rest)).notices.turn = [] := h.turn
  have he2 : noticeEnabled ((turned t s).putOps t (.post x :: rest)) x = true := (noticeEnabled_congr rfl x).trans he'
  have hjudge : runOp false t (.post x) (s.putOps t (.post x :: rest)) =
      if ringOpen s then .done ((turned t s).putOps t (.post x :: rest)) [.notice x]
      else .done (endTurn (if s.notices.lost then (turned t s).putOps t (.post x :: rest)
        else noteStatus (setLost ((turned t s).putOps t (.post x :: rest))))) [] := by
    simp only [runOp, postNotice, withTurn, ht]
    change (if !noticeEnabled ((turned t s).putOps t (.post x :: rest)) x then _ else _) = _
    rw [he2]
    rfl
  by_cases ho : ringOpen s = true
  · obtain ⟨w, hw, hr⟩ := (ringOpen_iff s).1 ho
    rw [ho, if_pos rfl] at hjudge
    rw [settled_step (h.alone t) hjudge, List.singleton_append]
    have hwrite : runOp false t (.notice x) ((turned t s).putOps t (.notice x :: rest)) =
        .done ((noticeWritten s w (noticeLine x s.notices.producer s.control.time)).putOps t (.notice x :: rest)) [] := by
      have hw' : ((turned t s).putOps t (.notice x :: rest)).decoder.windows = some w := hw
      have hp : Machine.hasPlace false ((turned t s).putOps t (.notice x :: rest)) = true :=
        (h.fewer (m := n + 1) (by omega)).hasPlace
      simp only [runOp, writeNotice, hw', hp, if_true]
      rw [noteStatus_room (by exact h.waiters) (by
        simp only [writeRing, enqueue, State.putOps, turned, List.length_append, List.length_singleton]
        omega)]
      refine congrArg (fun u => OpResult.done u []) ((endTurn_withRef (withContent s
        (w.noticeBase + s.notices.producer.toNat % w.noticeLines) (noticeLine x s.notices.producer s.control.time) none)
        { s.notices with producer := s.notices.producer + 1 } t _).trans ?_)
      rw [show ({ s.notices with producer := s.notices.producer + 1, turn := [] } : NoticeUnit) =
        { s.notices with producer := s.notices.producer + 1 } from NoticeUnit.turn_free (ns := { s.notices with producer := _ }) h.turn]
      rfl
    rw [settled_step (h.turned_alone t) hwrite]
    simp only [posted, he', hw, if_pos hr]
    rfl
  · have hc : posted s x = noticeLost s := by
      unfold posted
      rw [if_neg he]
      split
      · rfl
      · rename_i w hw
        exact if_neg fun hr => ho ((ringOpen_iff s).2 ⟨w, hw, hr⟩)
    rw [if_neg ho] at hjudge
    have hend : endTurn (if s.notices.lost then (turned t s).putOps t (.post x :: rest)
        else noteStatus (setLost ((turned t s).putOps t (.post x :: rest)))) = (noticeLost s).putOps t (.post x :: rest) := by
      unfold noticeLost
      split
      · exact congrArg (State.putOps · t _) (turned_free h.turn)
      · rw [noteStatus_room (by exact h.waiters) (by simp only [setLost, State.putOps, turned]; omega)]
        refine (endTurn_withRef s { s.notices with lost := true } t _).trans ?_
        rw [show ({ s.notices with lost := true, turn := [] } : NoticeUnit) = { s.notices with lost := true } from
          NoticeUnit.turn_free (ns := { s.notices with lost := true }) h.turn]
    rw [hend] at hjudge
    rw [hc, settled_step (h.alone t) hjudge]
    rfl

/-- A PATH_STATE post ends after its status line reference, with the path's record written. -/
theorem endTurn_setRecord_withRef (s : State) (ns : NoticeUnit) (t : Thread) (ops : List Op) (p : Nat) (r : NoticeRecord) :
    endTurn (setRecord (withRef (({ s with notices := { ns with turn := [t] } } : State).putOps t ops) .status) p r) =
      (withRef { s with notices := { ns with turn := [], records := ns.records.setD p NoticeRecord.idle r } } .status).putOps t ops := by
  unfold withRef
  have h1 : (({ s with notices := { ns with turn := [t] } } : State).putOps t ops).writeBack = s.writeBack := rfl
  have h2 : (({ s with notices := { ns with turn := [t] } } : State).putOps t ops).decoder = s.decoder := rfl
  rw [h1, h2]
  split <;> rfl

/-- A PATH_STATE post in a calm state: not written, written, or kept by the due mark (R179). -/
theorem settled_pathState {s : State} {n p : Nat} {why : PathReason} (h : Calm s (n + Said.places s (.pathState p why))) (t : Thread)
    (rest : List Op) :
    settleAll (s.putOps t (.postPath p why :: rest)) = settleAll ((pathStatePosted s p why).putOps t rest) := by
  have ht : (s.putOps t (.postPath p why :: rest)).notices.turn = [] := h.turn
  have hjudge : runOp false t (.postPath p why) (s.putOps t (.postPath p why :: rest)) =
      if !s.control.enables.path then .done (s.putOps t (.postPath p why :: rest)) []
      else if !(noticeRecord s p).outstanding && !(noticeRecord s p).due && ringOpen s then
        .done ((turned t (withRecord s p ((noticeRecord s p).counted why))).putOps t (.postPath p why :: rest)) [.writePath p true]
      else .done ((withRecord s p { (noticeRecord s p).counted why with due := true }).putOps t (.postPath p why :: rest)) [] := by
    simp only [runOp, postPathState, withTurn, ht]
    change (if !s.control.enables.path then _
      else if !(noticeRecord s p).outstanding && !(noticeRecord s p).due && ringOpen s then _ else _) = _
    have hf : endTurn ((turned t s).putOps t (.postPath p why :: rest)) = s.putOps t (.postPath p why :: rest) :=
      congrArg (State.putOps · t _) (turned_free h.turn)
    have hd : endTurn (setRecord ((turned t s).putOps t (.postPath p why :: rest)) p { (noticeRecord s p).counted why with due := true }) =
        (withRecord s p { (noticeRecord s p).counted why with due := true }).putOps t (.postPath p why :: rest) :=
      congrArg (State.putOps · t _) (turned_free (s := withRecord s p _) h.turn)
    refine ite_congr rfl (fun _ => congrArg (OpResult.done · []) hf) fun _ => ite_congr rfl (fun _ => rfl) fun _ =>
      congrArg (OpResult.done · []) hd
  by_cases he : s.control.enables.path = false
  · rw [he] at hjudge
    rw [settled_step (h.alone t) hjudge]
    simp only [pathStatePosted, he, if_true]
    rfl
  have he' := Bool.eq_true_of_not_eq_false he
  simp only [Said.places, he', if_true] at h
  have hroom := h.room
  simp only [Config.writeBackItems] at hroom
  rw [he', Bool.not_true, if_neg Bool.false_ne_true] at hjudge
  by_cases ho : (!(noticeRecord s p).outstanding && !(noticeRecord s p).due && ringOpen s) = true
  · rw [if_pos ho] at hjudge
    simp only [Bool.and_eq_true, Bool.not_eq_true'] at ho
    obtain ⟨w, hw, hr⟩ := (ringOpen_iff s).1 ho.2
    generalize hu : withRecord s p ((noticeRecord s p).counted why) = u at hjudge
    have hc : Calm u (n + 2) := by rw [← hu]; exact h.withRecord p _
    have hur : noticeRecord u p = (noticeRecord s p).counted why := by rw [← hu]; exact Table.getD_setD_self ..
    have huw : u.decoder.windows = some w := by rw [← hu]; exact hw
    rw [settled_step (h.alone t) hjudge, List.singleton_append]
    have hwrite : runOp false t (.writePath p true) ((turned t u).putOps t (.writePath p true :: rest)) =
        .done ((pathNotified w u p).putOps t (.writePath p true :: rest)) [] := by
      have hw' : ((turned t u).putOps t (.writePath p true :: rest)).decoder.windows = some w := huw
      have hp : Machine.hasPlace false ((turned t u).putOps t (.writePath p true :: rest)) = true :=
        (hc.fewer (m := n + 1) (by omega)).hasPlace
      have hr' : noticeRecord ((turned t u).putOps t (.writePath p true :: rest)) p = noticeRecord u p := rfl
      have h0 : (noticeRecord u p).count ≠ 0 := by rw [hur]; simp [NoticeRecord.counted]
      simp only [runOp, writePathState, hw', hp, hr', h0, if_true, if_false]
      rw [noteStatus_room (by exact hc.waiters) (by
        have := hc.room
        simp only [Config.writeBackItems] at this
        simp only [writeRing, enqueue, State.putOps, turned, List.length_append, List.length_singleton]
        omega)]
      refine congrArg (fun u => OpResult.done u []) ((endTurn_setRecord_withRef (withContent u
        (w.noticeBase + u.notices.producer.toNat % w.noticeLines) (pathStateLine u p (noticeRecord u p)) none)
        { u.notices with producer := u.notices.producer + 1 } t _ p _).trans ?_)
      refine congrArg (fun v : State => (withRef v .status).putOps t _) ?_
      exact congrArg (fun ns : NoticeUnit => ({ withContent u
        (w.noticeBase + u.notices.producer.toNat % w.noticeLines) (pathStateLine u p (noticeRecord u p)) none with notices := ns } : State))
        (NoticeUnit.turn_free (ns := { u.notices with
          producer := u.notices.producer + 1
          records := u.notices.records.setD p NoticeRecord.idle ((noticeRecord u p).written (generationOf u p)) }) hc.turn)
    rw [settled_step (hc.turned_alone t) hwrite]
    simp only [pathStatePosted, he', hw]
    rw [if_neg (by decide), if_pos ⟨ho.1.1, ho.1.2, hr⟩, ← hu]
    rfl
  · rw [if_neg ho] at hjudge
    rw [settled_step (h.alone t) hjudge]
    have hc : pathStatePosted s p why = withRecord s p { (noticeRecord s p).counted why with due := true } := by
      unfold pathStatePosted
      rw [if_neg he]
      split
      · rfl
      · rename_i w hw
        refine if_neg fun hr => ho ?_
        simp only [Bool.and_eq_true, Bool.not_eq_true']
        exact ⟨⟨hr.1, hr.2.1⟩, (ringOpen_iff s).2 ⟨w, hw, hr.2.2⟩⟩
    rw [hc]
    rfl

/-! ### The items of a list -/

/-- The step of an operation that queues or posts an item. -/
def Said.op : Said → Op
  | .ref r => .ref r
  | .post n => .post n
  | .pathState p why => .postPath p why

theorem settled_one {s : State} {n : Nat} {x : Said} (h : Calm s (n + x.places s)) (t : Thread) (rest : List Op) :
    settleAll (s.putOps t (x.op :: rest)) = settleAll ((withOne s x).putOps t rest) := by
  cases x with
  | ref r => exact settled_ref h t r rest
  | post y => exact settled_post h t rest
  | pathState p why => exact settled_pathState h t rest

/-- An operation in a calm state with room for its items: it queues and posts them all, in their order, and goes on. -/
theorem settled_said {n : Nat} (t : Thread) (xs : List Said) (rest : List Op) {s : State} (h : Calm s (n + places s xs)) :
    settleAll (s.putOps t (xs.map Said.op ++ rest)) = settleAll ((withSaid s xs).putOps t rest) := by
  induction xs generalizing s with
  | nil => rfl
  | cons x xs ih =>
    rw [places_cons] at h
    have h1 : Calm (withOne s x) (n + places s xs) := Calm.withOne (h.fewer (by omega))
    rw [List.map_cons, List.cons_append, settled_one (n := n + places s xs) (h.fewer (by omega)),
      ih (by rwa [places_congr (withOne_control s x)])]
    rfl

end Sys2Proof.Machine
end

