-- ==== Sys2Proof/Tests/Slice0.lean ====
section
/-!
SUPPORT. Tests: the checks of WellFormed, worked examples of the spec, one step of each kind on small states, and for every statement
with hypotheses a state and operands that meet them.
-/

namespace Sys2Proof.Tests
set_option Elab.async false
open Sys2Proof.Machine

/-! ### Builders -/

/-- A record of fields (offset, bytes, value), as software writes it. -/
def rec (fs : List (Nat × Nat × Nat)) : Line := lineOf (fs.map (fun x => fld x.1 x.2.1 x.2.2))

/-- The profile of the worked cases' plain domain: 80 channels of one slot, NU as reported, border penalty 10, age limit 5 s. -/
def plainProfile : Profile :=
  { base := 0, stride := 1, count := 80, multiplier := 1, shift := 0, classes := 15, border := 10, transit := true, age := 5,
    slots := BitVec.allOnes 80 }

/-- Windows apart from one another and from the anchor page at line 16384. -/
def windows : Windows :=
  { intakeBase := 100, intakeLines := 16, requestBase := 200, requestSlots := 4, exportBase := 1000, noticeBase := 6000,
    noticeLines := 16 }

/-- A released part with its windows set, domain 0 present, every notice class disabled, at 10 s. -/
def off : State :=
  { State.reset with
    inReset := false
    decoder := { anchor := some 16384, windows := some windows }
    control := { State.reset.control with
      enables := { topology := false, intakeFault := false, path := false, request := false }, time := 10000000 }
    profiles := { State.reset.profiles with domains := [(0, plainProfile)] } }

def inMode (s : State) (m : Mode) : State := { s with control := { s.control with mode := m } }

def run : State := inMode off .run

/-- The part with one command record handed over. -/
def commanded (s : State) (r : Line) : State := { s with control := { s.control with handed := [r] } }

/-- A command record: code, tag 7, arguments. -/
def command (code : Nat) (args : List (Nat × Nat × Nat)) : Line := rec ([(0, 2, code), (2, 2, 7)] ++ args)

def inPhase (s : State) (code : Nat) (ph : Phase) : State :=
  { s with control := { s.control with inProgress := some { record := command code [], phase := ph } } }

def node (id : Nat) : NodeEntry :=
  { netId := BitVec.ofNat 32 id, domain := 0, rawPenalty := 40, penalty := 40, transit := true, refresh := 9000000, portCount := 0 }

def port (n number far farPort : Nat) (st : Pairing) (link : Option Nat) : PortEntry :=
  { node := n, number, reported :=
      { farId := BitVec.ofNat 32 far, farPort, cost := 3, raw := 100, up := true, srlgs := [5], mask := 0 },
    nu := 100, foreign := 0, clipped := false, refresh := 9000000, pairing := st, link }

def attrs : LinkAttrs := { cost := 3, nu := 100, foreign := 0, srlgs := [5], truncated := false, interDomain := false }

def linkOf (st : LinkState) (answered : Bool) : LinkEntry :=
  { state := st, endA := { port := some 0, netId := 100, number := 1 }, endB := { port := some 1, netId := 200, number := 2 },
    attrs, created := 9000000, changed := 9000000, answered }

/-- Nodes 100 and 200, with one link between port 1 of the first and port 2 of the second. -/
def joined (s : State) : State :=
  { s with topology := { s.topology with
    nodes := [(0, node 100), (1, node 200)]
    ports := [(0, port 0 1 200 2 .paired (some 0)), (1, port 1 2 100 1 .paired (some 0))]
    links := [(0, linkOf .up false)] } }

def withNodes (s : State) (ns : List (Nat × NodeEntry)) (ps : List (Nat × PortEntry)) (ls : List (Nat × LinkEntry)) : State :=
  { s with topology := { s.topology with nodes := ns, ports := ps, links := ls } }

/-- The topology unit holds the database for a kind of work, granted at 10 s. -/
def granted (s : State) (w : Work) : State :=
  { s with
    topology := { s.topology with work := some w }
    arbiter := { holder := some .topology, waitTopology := false, waitPath := false, last := some .topology,
                 grantTime := 10000000 } }

def queued (s : State) (q : List QueuedRecord) : State := { s with intake := { s.intake with queue := q } }

def route : Route := { cls := 0, start := 4, width := 1, cost := 3, noise := 100, hops := 1, links := [0] }

def path (st : PathState) (mode : RestoreMode) (pr bk : Option HeldRoute) : PathEntry :=
  { state := st, srcId := 100, dstId := 200, srcIndex := 0, dstIndex := 1, cls := 0, restore := mode, revertive := false,
    nodeDiverse := false, primary := pr, backup := bk, originTag := 9 }

def withPath (s : State) (p : Nat) (e : PathEntry) : State :=
  { s with paths := { s.paths with
      entries := [(p, e)], generations := [(p, 1)], reserved := [(0, 16)]
      restoration := if e.state = .restoring then [p] else [] } }

/-- A request record: kind, tag 77, from node 100 to node 200, any slot, no exclusions. -/
def request (kind : Nat) (more : List (Nat × Nat × Nat)) : Line :=
  rec ([(0, 1, kind), (4, 4, 77), (8, 4, 100), (12, 4, 200), (20, 10, 2 ^ 80 - 1), (32, 2, 65535), (34, 2, 65535),
    (36, 2, 65535), (38, 2, 65535)] ++ more)

def asked (s : State) (r : Line) : State :=
  { s with paths := { s.paths with
    queue := [{ slot := 2, record := r, valid := requestValid r, serial := 0 }]
    pendingSlots := [(2, { tag := 77, serial := 0, line2Issued := false })], serial := 1 } }

def pathHeld (s : State) (o : Operation) : State :=
  { s with
    paths := { s.paths with slot := some o }
    arbiter := { holder := some .path, waitTopology := false, waitPath := false, last := some .path, grantTime := 10000000 } }

def requestOp (r : Line) (ph : ItemPhase) : Operation :=
  { item := .request { slot := 2, record := r, valid := requestValid r, serial := 0 }, phase := ph, runBefore := 0 }

def struckBy (s : State) (k : StrikeKind) : State := { s with paths := { s.paths with strikes := [{ kind := k, link := 0 }] } }

/-- The state a command answers with. -/
def after (i : Instr) (s : State) : State :=
  match exec i s with
  | .next t => t
  | .fault _ => State.reset
  | .refused _ => State.reset

def fullWrite (line : Nat) (data : Line) : LineWrite := { addr := lineAddr line, data, enables := BitVec.allOnes 64 }

def enabled (s : State) : State :=
  { s with control := { s.control with enables := { topology := true, intakeFault := true, path := true, request := true } } }

theorem calm_of {s : State} {n : Nat}
    (h : s.inReset = false ∧ s.threads = Threads.none ∧ s.writeBack.waiters = [] ∧ s.notices.turn = [] ∧
      s.topology.strikeWait = false ∧ s.writeBack.queue.length + n ≤ 64) : Calm s n :=
  ⟨h.1, h.2.1, h.2.2.1, h.2.2.2.1, h.2.2.2.2.1, h.2.2.2.2.2⟩

theorem commanded_of {s : State} {r : Line} {code : Nat}
    (h : s.control.handed = [r] ∧ s.control.inProgress = none ∧ (cmdCode r).toNat = code) : Commanded s r code :=
  ⟨h.1, h.2.1, h.2.2⟩

theorem atHead_of {s : State} {w : LineWrite} (h : s.inReset = false ∧ w.addr.toNat % 64 = 0 ∧ s.system.channel = []) :
    AtHead s (some w) w [] :=
  ⟨h.1, fun _ hx => by cases hx; exact h.2.1, by rw [h.2.2]; rfl⟩

/-- The write-back queue and the strike queue have room for all that an effect queues, posts and sends. -/
def roomFor (s : State) (x : Effect) : Bool :=
  decide (s.inReset = false ∧ s.threads = Threads.none ∧ s.writeBack.waiters = [] ∧ s.notices.turn = [] ∧
    s.topology.strikeWait = false ∧ s.writeBack.queue.length + places s x.said ≤ 64 ∧ x.state.paths.strikes.length ≤ 32)

theorem room_of {s : State} {x : Effect} (h : roomFor s x = true) : Calm s (places s x.said) ∧ x.state.paths.strikes.length ≤ 32 := by
  obtain ⟨a, b, c, d, e, f, g⟩ := of_decide_eq_true h
  exact ⟨⟨a, b, c, d, e, f⟩, g⟩

/-- Two writes wait in the channel, and one is presented or none. -/
theorem atHead_waiting {s : State} {w x : LineWrite} (h : s.inReset = false ∧ s.system.channel = [w, x]) :
    AtHead s none w [x] ∧ ∀ y, y.addr.toNat % 64 = 0 → AtHead s (some y) w [x, y] :=
  ⟨⟨h.1, fun _ hx => (nomatch hx), by rw [h.2]; rfl⟩, fun _ hy => ⟨h.1, fun _ hx => by cases hx; exact hy, by rw [h.2]; rfl⟩⟩

/-! ### Well-formed commands: each check refuses an ill-formed one -/

theorem test_unaligned_write_ill_formed : (Instr.writeAccepted (some { addr := 65, data := 0, enables := 0 })).wellFormed = false := by
  decide
theorem test_unaligned_read_ill_formed : (Instr.readAccepted 63 1).wellFormed = false := by decide
theorem test_hold_entry_8_ill_formed : (Instr.holdDeadline 8).wellFormed = false := by decide
theorem test_node_256_ill_formed : (Instr.entryDue (.node 256)).wellFormed = false := by decide
theorem test_port_2048_ill_formed : (Instr.entryDue (.port 2048)).wellFormed = false := by decide
theorem test_last_entries_well_formed : (Instr.entryDue (.node 255)).wellFormed = true ∧
    (Instr.entryDue (.port 2047)).wellFormed = true ∧ (Instr.holdDeadline 7).wellFormed = true ∧
    (Instr.readAccepted 64 1).wellFormed = true := by decide

/-- No row of the table has bits, so no word spells a command. -/
theorem test_no_word_is_a_command : decodeTableWord 16 3 = none ∧ State.withFetchWord run 16 3 = run := ⟨rfl, rfl⟩

/-! ### Worked examples of the spec -/

/-- The three domains of section 3.8, as profile records. -/
def profile0 : Profile := profileOf (rec [(0, 1, 0), (1, 1, 1), (2, 1, 96), (3, 1, 2), (4, 2, 3), (6, 2, 350), (8, 1, 15), (9, 1, 1), (10, 2, 300)])
def profile1 : Profile := profileOf (rec [(0, 1, 8), (1, 1, 2), (2, 1, 36), (3, 1, 0), (4, 2, 5), (6, 2, 400), (8, 1, 7), (9, 1, 1)])
def profile2 : Profile := profileOf (rec [(0, 1, 70), (1, 1, 4), (2, 1, 3), (3, 1, 31), (4, 2, 65535), (6, 2, 1000), (8, 1, 1), (10, 2, 60)])

/-- Section 3.8, "Impairment and penalty conversions". -/
theorem test_worked_conversions :
    [1001, 1600, 200, 2, 1, 0].map (convert profile0) = [751, 1200, 150, 2, 1, 0] ∧
      [230, 40, 13200].map (convert profile1) = [1150, 200, 65535] ∧ convert profile2 65535 = 2 := by decide +kernel

/-- Section 3.8, "Slot capability sets": 0..79, 8..79 and 70..79. -/
theorem test_worked_capability_sets : profile0.slots = slotRange 0 80 ∧ profile1.slots = slotRange 8 72 ∧
    profile2.slots = slotRange 70 10 := by decide +kernel

/-- Section 3.8, "Foreign masks and CLIPPED", its first two rows. -/
theorem test_worked_foreign_masks :
    (mapForeign profile1 (1 ||| 1 <<< 35) = slotRange 8 2 ||| slotRange 78 2 ∧ mapClipped profile1 (1 ||| 1 <<< 35) = false) ∧
      (mapForeign profile1 (3 <<< 35) = slotRange 78 2 ∧ mapClipped profile1 (3 <<< 35) = true) := by decide +kernel

/-- A port with SRLGs, cost and NU as the derivation examples of section 6.9 give them. -/
def reporter (n cost nu : Nat) (srlgs : List Id32) : PortEntry :=
  { port n 1 7 1 .unanswered none with
    reported := { (port n 1 7 1 .unanswered none).reported with cost, srlgs }, nu := nu }

def twoDomains : State := withNodes run [(0, node 100), (1, { node 200 with domain := 1 })] [] []

/-- Section 6.9, the first two rows. -/
theorem test_worked_derivation :
    (let a := deriveAttrs twoDomains (reporter 0 25 1200 [9, 4, 12]) (reporter 1 20 1150 [4, 30, 2, 17, 50])
     (a.cost, a.nu, a.srlgs, a.truncated, a.interDomain) = (25, 1200, [2, 4, 9, 12, 17, 30], true, true)) ∧
    (let a := deriveAttrs twoDomains (reporter 0 0 700 []) (reporter 0 0 650 [88])
     (a.cost, a.nu, a.srlgs, a.truncated, a.interDomain) = (1, 700, [88], false, false)) := by decide +kernel

/-- The network of section 7.10: links A-B, B-C, A-C, C-D, slot 8 of link 2 reserved by another path. -/
def worked : State :=
  let tip := fun k => ({ port := some k, netId := 0, number := 0 } : LinkEnd)
  let link := fun k cost nu => ({ linkOf .up false with
    endA := tip (2 * k), endB := tip (2 * k + 1), attrs := { attrs with cost, nu, srlgs := [] } } : LinkEntry)
  let at' := fun n => port n 0 0 0 .paired none
  let nodeIn := fun id domain penalty transit => ({ node id with domain, penalty, transit } : NodeEntry)
  let s := withNodes run
    [(0, nodeIn 0xA01 0 0 false), (1, nodeIn 0xA02 0 150 true), (2, nodeIn 0xB01 1 200 true), (3, nodeIn 0xB02 1 0 false)]
    [(0, at' 0), (1, at' 1), (2, at' 1), (3, at' 2), (4, at' 0), (5, at' 2), (6, at' 2), (7, at' 3)]
    [(0, link 0 10 700), (1, link 1 10 900), (2, link 2 25 1200), (3, link 3 5 300)]
  { s with
    profiles := { s.profiles with domains := [(0, profile0), (1, profile1)] }
    paths := { s.paths with reserved := [(2, slotRange 8 1)] } }

def workedInputs : Inputs :=
  { srcId := 0xA01, dstId := 0xB02, cls := some 2, mask := slotRange 8 72, policy := .firstFit, order := .costThenNoise,
    hops := 20, exclLinks := [], exclNodes := [], pair := false, requireBackup := false, nodeDiverse := false, own := none,
    reference := none }

/-- Section 7.10: class 2, FIRST_FIT, COST_THEN_NOISE gives A-C-D on slot 9; ordering COST gives NO_PATH on slots 8 and 9. -/
theorem test_worked_computation :
    (compute worked workedInputs Engine.idle).2.primary =
      some { cls := 2, start := 9, width := 1, cost := 30, noise := 2100, hops := 2, links := [2, 3] } ∧
    (compute worked { workedInputs with order := .cost, mask := slotRange 8 2 } Engine.idle).2.outcome = .noPath ∧
    (compute worked { workedInputs with policy := .lastFit } Engine.idle).2.primary.map (·.start) = some 79 := by
  decide +kernel

/-! ### One step of each kind -/

def lineRef (i : Nat) : Line := rec [(0, 4, i)]

theorem test_reset_asserted : (after .resetAsserted run).inReset = true ∧ (after .resetAsserted run).control.mode = .off := by
  decide +kernel
/-- Strap value 3 puts the anchor page at 3 MiB, line 49152. -/
theorem test_reset_released : (after (.resetReleased 3) State.reset).decoder.anchor = some 49152 ∧
    (after (.resetReleased 3) State.reset).writeBack.queue = [.ref .status] := by decide +kernel
/-- Section 1.3, steps 2 and 6: a request is handed over with its slot; an ordinary anchor line is forwarded only. -/
theorem test_write_accepted : ((after (.writeAccepted (some (fullWrite 203 5))) run).paths.handed = [{ slot := 1, record := 5 }]) ∧
    after (.writeAccepted (some (fullWrite 16391 5))) run = forwarded run (fullWrite 16391 5) [] := by decide +kernel
/-- Section 1.3, step 4: a partial write is not taken, and PARTIAL_WRITE is posted (kind 11). -/
theorem test_partial_write :
    (let t := after (.writeAccepted (some { fullWrite 209 5 with enables := BitVec.ofNat 64 (2 ^ 56 - 1) })) (enabled run)
     (t.paths.handed, t.notices.producer, t.writeBack.queue.length) = ([], 1, 2)) := by decide +kernel
theorem test_read_accepted_held :
    (let t := after (.readAccepted (lineAddr 207) 4) (asked run (request 1 []))
     (t.system.holds.length, t.memory.reads) = (1, [])) := by decide +kernel
theorem test_read_response : (after (.readResponse 4 .error) { run with memory := { run.memory with reads := [(4, 64)] } }).system.replies =
    [(4, .error)] := by decide +kernel
theorem test_hold_deadline :
    (let s := { run with system := { run.system with holds := [{ tag := 4, addr := 64, slot := 1, line := 1, deadline := 10000000 }] } }
     ((after (.holdDeadline 0) s).system.holds, (after (.holdDeadline 0) s).memory.reads) = ([], [(4, 64)])) := by decide +kernel
theorem test_write_back_issue :
    (after .writeBackIssue (withContent run 205 7 (some { slot := 1, line := 2, serial := 0 }))).memory.sequence =
      [.ownWrite (lineAddr 205) 7] := by decide +kernel

/-- A write-back queue of 63 items. -/
def nearlyFull : State := { run with writeBack := { run.writeBack with queue := List.replicate 63 (.content 5 0 none) } }
def nodeWaits : State :=
  { nearlyFull with
    threads := Threads.none.put .topology [.ref (.node 1)]
    writeBack := { nearlyFull.writeBack with waiters := [.thread .topology] } }

theorem test_write_back_room : (after .writeBackRoom nodeWaits).writeBack.queue.getLast? = some (.ref (.node 1)) ∧
    (after .writeBackRoom nodeWaits).threads = Threads.none := by decide +kernel
theorem test_response_write :
    (after .responseWrite { run with writeBack := { run.writeBack with waiters := [.response] } }).writeBack.waiters = [] := by
  decide +kernel

def eventWaits : State :=
  { run with
    threads := Threads.none.put .topology [.event { kind := .down, link := 5 }]
    topology := { run.topology with strikeWait := true } }

theorem test_strike_queue_room : (after .strikeQueueRoom eventWaits).paths.strikes = [{ kind := .down, link := 5 }] := by decide +kernel
theorem test_unknown_command : (after .unknownCommand (commanded off (command 11 []))).control.completed =
    { tag := 7, code := 11, outcome := .unknownCommand } := by decide +kernel

def windowsCommand : Line :=
  command 1 [(4, 8, 64 * 100), (12, 2, 16), (14, 8, 64 * 200), (22, 2, 4), (24, 8, 64 * 1000), (32, 8, 64 * 6000), (40, 2, 32)]

theorem test_set_windows : (after .setWindows (commanded off windowsCommand)).decoder.windows =
    some { windows with noticeLines := 32 } := by decide +kernel
/-- A notice count that is no power of two fails (R23). -/
theorem test_set_windows_refused : (after .setWindows (commanded off (windowsCommand ||| rec [(40, 2, 33)]))).control.completed.outcome =
    .badArgument := by decide +kernel
theorem test_load_profile : (after .loadProfile (commanded off (command 2 [(4, 1, 3), (8, 8, 6400)]))).memory.ownRead = some 6400 := by
  decide +kernel

def profileLine : Line := rec [(0, 1, 8), (1, 1, 2), (2, 1, 36), (4, 2, 5), (6, 2, 400), (8, 1, 7), (9, 1, 1)]
def reading : State :=
  { inPhase off 2 (.readInFlight 3) with memory := { off.memory with ownRead := some 6400 } }

theorem test_profile_read_response :
    (after (.profileReadResponse (.line profileLine)) reading).control.inProgress.map (·.phase) = some (.awaitInstall 3 profile1) ∧
      (after (.profileReadResponse .error) reading).control.completed.outcome = .memoryFault := by decide +kernel
theorem test_profile_installation : (after .profileInstallation (inPhase off 2 (.awaitInstall 3 profile1))).profiles.domains.get? 3 =
    some profile1 := by decide +kernel

def reconverting : State :=
  granted (withNodes (inPhase { off with profiles := { off.profiles with domains := [(0, profile1)] } } 2 (.reconversion 0))
    [(4, node 100)] [] []) .command

/-- Raw penalty 40 is 200 NU under domain 1's profile (section 3.8). -/
theorem test_profile_reconversion : ((after .profileReconversion reconverting).topology.nodes.get? 4).map (·.penalty) = some 200 ∧
    (after .profileReconversion reconverting).arbiter.holder = none := by decide +kernel

def classesCommand : Line := command 3 [(4, 1, 1), (6, 2, 1), (8, 1, 2), (10, 2, 65534), (12, 1, 1), (14, 2, 5), (16, 1, 2), (18, 2, 6)]

theorem test_load_classes : (after .loadClasses (commanded off classesCommand)).profiles.classes.map (fun e => (e.width, e.budget)) =
    [(1, 1), (2, 65534), (1, 5), (2, 6)] := by decide +kernel
theorem test_set_timing : (after .setTiming (commanded run (command 4 [(4, 2, 500)]))).control.holdTimeout = 500 := by decide +kernel
theorem test_set_reporting : (after .setReporting (commanded run (command 5 [(4, 1, 6)]))).control.enables =
    { topology := false, intakeFault := true, path := true, request := false } := by decide +kernel
theorem test_start : (after .start (commanded (joined off) (command 6 []))).control.mode = .run ∧
    ((after .start (commanded (joined off) (command 6 []))).topology.nodes.get? 0).map (·.refresh) = some 10000000 := by decide +kernel
theorem test_stop : (after .stop (commanded run (command 7 []))).control.mode = .drain ∧
    (after .stop (commanded run (command 7 []))).control.completed.outcome = .empty := by decide +kernel

def drained : State := inPhase (inMode off .drain) 7 .draining

/-- The taking of an overflow whose BATCH_FAULT waits for room: the drain does not end before it has ended DISCARDING (R72). -/
def overflowWaits : State :=
  { drained with
    intake := { queue := [], batch := .discarding 9, handed := [], taking := none }
    writeBack := { queue := List.replicate 64 (.content 5 0 none), waiters := [.thread .intake] }
    threads := Threads.none.put .intake [.ref .status, .stopCheck] }

theorem test_drain_waits_for_the_last_taking : after .drainEnd overflowWaits = overflowWaits ∧
    (after .writeBackRoom { overflowWaits with writeBack := { overflowWaits.writeBack with queue := [] } }).intake.batch = .closed := by
  decide +kernel

theorem test_drain_end : (after .drainEnd drained).control.mode = .off ∧
    (after .drainEnd drained).control.completed.outcome = .done := by decide +kernel
theorem test_clear_topology : (after .clearTopology (commanded off (command 8 []))).arbiter.holder = some .topology := by decide +kernel

def clearing : State := granted (inPhase (joined off) 8 .clearing) .command

theorem test_clear_topology_operation : (after .clearTopologyOperation clearing).topology.links = [] ∧
    (after .clearTopologyOperation clearing).control.completed.outcome = .done := by decide +kernel

def intactPath : PathEntry := path .active .hold (some { route, struck := 0 }) none
def struckPath (st : PathState) (mode : RestoreMode) : PathEntry := path st mode (some { route, struck := 1 }) none

theorem test_clear_paths : (after .clearPaths (commanded (withPath off 3 intactPath) (command 9 []))).paths.entries = [] ∧
    generationOf (after .clearPaths (commanded (withPath off 3 intactPath) (command 9 []))) 3 = 1 := by decide +kernel

def restarted : State := commanded (asked (withPath (joined run) 3 intactPath) (request 1 [])) (command 10 [])

/-- The pending slot gets its two ABORTED lines first, at lines 208 and 207. -/
theorem test_restart : (after .restart restarted).control.mode = .off ∧
    ((after .restart restarted).writeBack.queue.take 2).map (fun x => match x with
      | .content line _ _ => line
      | .ref _ => 0) = [208, 207] := by decide +kernel

def acking (s : State) (l : Line) (records : Table NoticeRecord) : State :=
  { s with notices := { s.notices with handed := [l], producer := 9, consumer := 4, records } }

/-- A count behind the held one is ignored; one up to the producer is taken (R177). -/
theorem test_acknowledgement : (after .acknowledgement (acking run (rec [(0, 4, 3), (4, 2, 65535)]) [])).notices.consumer = 4 ∧
    (after .acknowledgement (acking run (rec [(0, 4, 9), (4, 2, 65535)]) [])).attention = false := by decide +kernel

def report (kind tag : Nat) (more : List (Nat × Nat × Nat)) : Line := rec ([(0, 1, kind), (2, 2, tag)] ++ more)
def taking (b : BatchState) (q : List QueuedRecord) (l : Line) : State :=
  { run with intake := { queue := q, batch := b, handed := [{ record := l, offset := 3 }], taking := none } }
def marker : QueuedRecord := { record := report 6 9 [], offset := 0, role := .opening }
def member : QueuedRecord := { record := report 5 9 [], offset := 1, role := .member }
def loose : QueuedRecord := { record := report 5 0 [], offset := 2, role := .loose }

/-- The table below R64: a nesting BATCH_OPEN aborts the batch, and the loose record among its members stays. -/
theorem test_intake_record_taking :
    (after .intakeRecordTaking (taking (.opened 9) [marker, loose, member] (report 6 9 []))).intake.queue.map (·.role) =
      [.loose, .opening] ∧
    (after .intakeRecordTaking (taking (.discarding 9) [] (report 7 9 []))).intake.batch = .closed := by decide +kernel
theorem test_topology_request : (after .topologyRequest (queued run [loose])).arbiter.holder = some .topology ∧
    (after .topologyRequest (queued run [marker, loose])).arbiter.holder = none := by decide +kernel

def applying (s : State) (l : Line) : State := queued (granted s .intake) [{ record := l, offset := 3, role := .loose }]
def portReport (id num far farPort oper : Nat) : Line :=
  report 2 0 [(4, 4, id), (8, 1, num), (9, 1, farPort), (10, 1, oper), (12, 4, far), (16, 2, 7), (18, 2, 50)]

/-- Two ports that claim each other are PAIRED on link 0, DOWN when one of them is down, and a DOWN event is sent (R81, R100). -/
theorem test_loose_record_application :
    (let s := withNodes run [(0, node 100), (1, node 200)] [(0, port 0 1 200 2 .unanswered none)] []
     let t := after .looseRecordApplication (applying s (portReport 200 2 100 1 2))
     (t.topology.ports.map (fun x => (x.2.pairing, x.2.link)), t.topology.links.map (fun x => (x.1, x.2.state, x.2.attrs.cost)),
       t.paths.strikes) =
     ([(.paired, some 0), (.paired, some 0)], [(0, .down, 7)], [{ kind := .down, link := 0 }])) := by decide +kernel

def batchState : State := queued (granted (joined run) .intake)
  [marker, member, loose, { record := report 7 9 [], offset := 4, role := .closing }, loose]

theorem test_batch_application : (after .batchApplication batchState).intake.queue = [loose, loose] ∧
    (after .batchApplication batchState).topology.nodes.map (·.2.refresh) = [10000000, 10000000] := by decide +kernel

def oldNode : NodeEntry := { node 200 with refresh := 5000000 }
def ageing : State := withNodes run [(0, node 100), (1, oldNode)] [] []

theorem test_entry_due : (after (.entryDue (.node 1)) ageing).topology.work = some .expiry ∧
    (after (.entryDue (.node 0)) ageing).topology.work = none := by decide +kernel
theorem test_expiry : (after .expiry (granted ageing .expiry)).topology.nodes = [(0, node 100)] := by decide +kernel

def releasing : State := granted (withNodes run [] [] [(0, linkOf .retiring true)]) (.release 0)

theorem test_link_id_release : (after .linkIdRelease releasing).topology.links = [] := by decide +kernel

def arriving (s : State) (r : Line) : State := { s with paths := { s.paths with handed := [{ slot := 2, record := r }] } }

theorem test_request_taking : (after .requestTaking (arriving run (request 1 []))).paths.queue.map (·.valid) = [true] ∧
    (after .requestTaking (arriving (asked run (request 1 [])) (request 1 []))).paths.queue.length = 1 := by decide +kernel

/-- A refusal's taking ends when its notice is queued (R140): with one place free the status line reference behind it waits, and the
request is counted no more. -/
theorem test_refusal_ends_with_its_notice :
    (let s := arriving (asked (enabled nearlyFull) (request 1 [])) (request 1 [])
     let t := after .requestTaking s
     (requestCount t, t.writeBack.queue.length, t.writeBack.waiters, t.threads) = (1, 64, [.noticeStatus], Threads.none)) := by
  decide +kernel

def restoring : State := withPath (joined run) 3 (struckPath .restoring .reroute)

/-- Section 8.3's worked sequence: at run count 4 the waiting request is served, and the count is 0. -/
theorem test_selection : (after .selection restoring).paths.runCount = 1 ∧
    (let s := asked restoring (request 1 [])
     (after .selection { s with paths := { s.paths with runCount := 4 } }).paths.runCount) = 0 := by decide +kernel

def probing : State := pathHeld (joined run) (requestOp (request 1 []) .waiting)

theorem test_grant_take_up : (after .grantTakeUp probing).engine.inputs.map (fun i => (i.srcId, i.dstId, i.hops)) = some (100, 200, 20) := by
  decide +kernel

def computing (s : State) (o : Operation) (i : Inputs) : State :=
  { pathHeld s o with engine := { Engine.idle with inputs := some i } }

/-- A SETUP's path enters ACTIVE with generation 1 and reserves its slot (R147). -/
theorem test_computation_end :
    (let t := after .computationEnd (computing (joined run) (requestOp (request 2 []) .computing) (requestInputs (request 2 [])))
     (t.paths.entries.map (fun x => (x.1, x.2.state)), generationOf t 0, t.paths.reserved) = ([(0, .active)], 1, [(0, 1)])) := by
  decide +kernel
/-- Section 9.9: under REROUTE the struck path is RESTORING and joins the set; under HOLD it is HELD (R160). -/
theorem test_down_event :
    (after .downEvent (struckBy (withPath run 3 (path .active .reroute (some { route, struck := 0 }) none)) .down)).paths.restoration = [3] ∧
      (after .downEvent (struckBy (withPath run 3 intactPath) .down)).paths.entries.map (·.2.state) = [.held] := by decide +kernel

/-- With a full write-back queue the grant of a restoration is released all the same, and only the slot waits for the items (R169). -/
theorem test_restoration_releases_before_its_items :
    (let s := computing restoring { item := .restoration 3, phase := .computing, runBefore := 0 }
        (restorationInputs (struckPath .restoring .reroute))
     let t := after .computationEnd { s with writeBack := { s.writeBack with queue := List.replicate 64 (.content 5 0 none) } }
     (t.arbiter.holder, t.paths.slot.isSome, t.writeBack.waiters, t.paths.entries.map (·.2.state)) =
       (none, true, [.thread .operation], [.active])) := by decide +kernel

def viewed (s : State) : State := { s with paths := { s.paths with view := [0] } }

theorem test_up_event : (after .upEvent (viewed (struckBy (withPath run 3 (struckPath .held .hold)) .up))).paths.entries.map (·.2.state) =
    [.active] := by decide +kernel
/-- A RETIRE drops the only route: DOWN under HOLD, the reservation gone, RETIRE_DONE sent (R106, R166, R167). -/
theorem test_retire_event :
    (let t := after .retireEvent (struckBy (withNodes (withPath run 3 intactPath) [] [] [(0, linkOf .retiring false)]) .retire)
     (t.paths.entries.map (·.2.state), t.paths.reserved, t.topology.links.map (·.2.answered)) = ([.down], [], [true])) := by
  decide +kernel

/-! ### States and operands that meet the hypotheses of the statements, clause by clause -/

/-- A state with a path in RESTORING, a request and a strike event, and a command at the front of the queue. -/
def sample (c : Instr) : State := { asked restoring (request 1 []) with pending := [c] }

theorem test_witness_StepRunsFrontCommand : (sample .selection).pending = .selection :: [] := rfl
theorem test_witness_TickCountsMicroseconds : run.pending = [] ∧ run.inReset = false ∧ State.reset.pending = [] ∧
    State.reset.inReset = true := by decide
theorem test_witness_UnalignedTransactionStops : (fullWrite 0 0).addr.toNat % 64 = 0 ∧ (65 : Addr).toNat % 64 ≠ 0 ∧
    (63 : Addr).toNat % 64 ≠ 0 := by decide
theorem test_witness_WriteBackQueueLawKept : QueueLaw (sample .selection) ∧ ∃ t, step (sample .selection) = .next t :=
  ⟨by unfold QueueLaw; decide +kernel, _, rfl⟩
theorem test_witness_BoundsKept : BoundLaw (sample .selection) ∧ ∃ t, step (sample .selection) = .next t :=
  ⟨⟨by decide +kernel, by decide +kernel, by decide +kernel, by decide +kernel, by decide +kernel, by
    have e : (sample .selection).paths.slot = none := by decide +kernel
    intro o h
    rw [e] at h
    cases h⟩, _, rfl⟩
theorem test_witness_RestorationLawKept : RestorationLaw (sample .selection) ∧ ∃ t, step (sample .selection) = .next t :=
  ⟨by unfold RestorationLaw Table.ascending; decide +kernel, _, rfl⟩

theorem tableLaw_of {s : State} (h : (s.topology.nodes.wf 256 && s.topology.ports.wf 2048 &&
    decide (s.topology.links.keys.Pairwise (· < ·)) && s.paths.entries.wf 512 &&
    decide (s.paths.generations.keys.Pairwise (· < ·)) && decide (s.paths.reserved.keys.Pairwise (· < ·)) &&
    decide (s.paths.pendingSlots.keys.Pairwise (· < ·)) && decide (s.notices.records.keys.Pairwise (· < ·)) &&
    decide (s.profiles.domains.keys.Pairwise (· < ·))) = true) : TableLaw s := by
  simp only [Bool.and_eq_true, decide_eq_true_eq] at h
  obtain ⟨⟨⟨⟨⟨⟨⟨⟨a, b⟩, c⟩, d⟩, e⟩, f⟩, g⟩, i⟩, j⟩ := h
  exact ⟨⟨a, b, c⟩, ⟨d, e, f, g⟩, i, j⟩

theorem test_witness_TablesKept : TableLaw (sample .selection) ∧ ∃ t, step (sample .selection) = .next t :=
  ⟨tableLaw_of (by decide +kernel), _, rfl⟩
theorem test_witness_QuiescenceKept : quiescent (sample .selection) = true ∧ ∃ t, step (sample .selection) = .next t :=
  ⟨by decide +kernel, _, rfl⟩
theorem test_witness_TimeAndModeChangeOnlyBy : (∃ t, exec .selection (sample .selection) = .next t) ∧
    Instr.selection ≠ .resetAsserted ∧ (∀ x, Instr.selection ≠ .resetReleased x) ∧ Instr.selection ≠ .start ∧
    Instr.selection ≠ .stop ∧ Instr.selection ≠ .drainEnd ∧ Instr.selection ≠ .restart :=
  ⟨⟨_, rfl⟩, by decide, nofun, by decide, by decide, by decide, by decide⟩
theorem test_witness_ConfigurationChangesOnlyBy : (∃ t, exec .selection (sample .selection) = .next t) ∧
    Instr.selection ≠ .resetAsserted ∧ (∀ x, Instr.selection ≠ .resetReleased x) ∧ Instr.selection ≠ .setWindows ∧
    Instr.selection ≠ .loadClasses ∧ Instr.selection ≠ .profileInstallation ∧ Instr.selection ≠ .setTiming ∧
    Instr.selection ≠ .setReporting :=
  ⟨⟨_, rfl⟩, by decide, nofun, by decide, by decide, by decide, by decide, by decide⟩
theorem test_witness_AssertedPinStopsThePart : State.reset.inReset = true ∧ Instr.start.wellFormed = true ∧
    Instr.start ≠ .resetAsserted ∧ ∀ x, Instr.start ≠ .resetReleased x := ⟨rfl, rfl, by decide, nofun⟩
theorem test_witness_ResetPinResults : State.reset.inReset = true := rfl
theorem test_witness_LineClasses : off.decoder.anchor = some 16384 ∧ off.decoder.windows = some windows ∧
    allApart [(windows.intakeBase, windows.intakeLines), (windows.requestBase, 3 * windows.requestSlots),
      (windows.exportBase, 3840), (windows.noticeBase, windows.noticeLines), (16384, 64)] = true := by decide +kernel

/-- The channel holds a write to a line and one to line 64 behind it. -/
def channelOf (s : State) (w : LineWrite) : State := withChannel s [w, fullWrite 1 2]

theorem test_witness_UnobservedWriteForwarded :
    (AtHead run (some (fullWrite 5000 1)) (fullWrite 5000 1) [] ∧ postPending run = false ∧
      addressClass run (lineNumber (fullWrite 5000 1).addr) = .ordinary) ∧
    (AtHead (channelOf run (fullWrite 5000 1)) none (fullWrite 5000 1) [fullWrite 1 2] ∧
      postPending (channelOf run (fullWrite 5000 1)) = false) ∧
    (AtHead off (some (fullWrite 115 1)) (fullWrite 115 1) [] ∧ addressClass off (lineNumber (fullWrite 115 1).addr) = .intakeRecord 15 ∧
      off.control.mode ≠ .run) :=
  ⟨⟨atHead_of (by decide +kernel), by decide +kernel, by decide +kernel⟩,
    ⟨(atHead_waiting (by decide +kernel)).1, by decide +kernel⟩, atHead_of (by decide +kernel), by decide +kernel, by decide⟩

/-- The four observed classes at the ends of their windows: anchor lines 3 and 0, the last intake line, the last request slot; and a
write that has waited in the channel while its queue was full, which now has room. -/
theorem test_witness_FullLineWriteHandedOver :
    (AtHead run (some (fullWrite 16387 1)) (fullWrite 16387 1) [] ∧ postPending run = false ∧
      (fullWrite 16387 1).enables = BitVec.allOnes 64 ∧
      addressClass run (lineNumber (fullWrite 16387 1).addr) = .anchorAcknowledgement) ∧
    (addressClass run (lineNumber (fullWrite 115 1).addr) = .intakeRecord 15 ∧ run.control.mode = .run ∧ intakeCount run ≠ 64) ∧
    (AtHead (channelOf run (fullWrite 115 1)) none (fullWrite 115 1) [fullWrite 1 2] ∧
      addressClass (channelOf run (fullWrite 115 1)) (lineNumber (fullWrite 115 1).addr) = .intakeRecord 15 ∧
      intakeCount (channelOf run (fullWrite 115 1)) ≠ 64) ∧
    (addressClass run (lineNumber (fullWrite 209 1).addr) = .requestLine 3 ∧ requestCount run ≠ 16) ∧
    (addressClass run (lineNumber (fullWrite 16384 1).addr) = .anchorCommand ∧ run.control.handed = [] ∧
      run.control.inProgress = none ∧ (cmdCode (fullWrite 16384 1).data).toNat ≠ 0 ∧ (cmdCode (fullWrite 16384 0).data).toNat = 0) ∧
    (AtHead drained (some (fullWrite 16384 (command 10 []))) (fullWrite 16384 (command 10 [])) [] ∧ drained.control.handed = [] ∧
      drained.control.inProgress = some { record := command 7 [], phase := .draining } ∧ (cmdCode (command 10 [])).toNat = 10 ∧
      (cmdCode (command 7 [])).toNat ≠ 10) :=
  ⟨⟨atHead_of (by decide +kernel), by decide +kernel, by decide +kernel, by decide +kernel⟩, by decide +kernel,
    ⟨(atHead_waiting (by decide +kernel)).1, by decide +kernel⟩, by decide +kernel, by decide +kernel,
    atHead_of (by decide +kernel), by decide +kernel⟩

/-- STOP in progress meets code 0, code 1, RESTART's code 10; RESTART in progress meets code 10. -/
theorem test_witness_CommandInProgressRefusesOthers :
    (AtHead drained (some (fullWrite 16384 (command 0 []))) (fullWrite 16384 (command 0 [])) [] ∧ postPending drained = false ∧
      addressClass drained (lineNumber (fullWrite 16384 (command 0 [])).addr) = .anchorCommand ∧ drained.control.handed = [] ∧
      drained.control.inProgress = some { record := command 7 [], phase := .draining } ∧ drained.writeBack.waiters = [] ∧
      drained.writeBack.queue.length < 64 ∧ (cmdCode (command 0 [])).toNat = 0) ∧
    ((cmdCode (command 1 [])).toNat ≠ 0 ∧ (cmdCode (command 1 [])).toNat ≠ 10) ∧
    ((inPhase off 10 .awaitRead).control.inProgress = some { record := command 10 [], phase := .awaitRead } ∧
      (cmdCode (command 10 [])).toNat = 10) :=
  ⟨⟨atHead_of (by decide +kernel), by decide +kernel⟩, by decide +kernel, by decide +kernel⟩

def fullIntake : State := queued run (List.replicate 64 loose)
def fullRequests : State := { run with paths := { run.paths with handed := List.replicate 16 { slot := 1, record := 0 } } }

/-- A PARTIAL_WRITE post that waits for room, with two writes in the channel and a third presented. -/
def postWaits : State :=
  { channelOf nearlyFull (fullWrite 5000 1) with
    threads := Threads.none.put .decoder [.notice (.partialWrite 64 .intake 0)]
    writeBack := { queue := List.replicate 64 (.content 5 0 none), waiters := [.thread .decoder] } }

theorem test_witness_FullQueueHoldsTheWrite :
    (AtHead fullIntake (some (fullWrite 100 1)) (fullWrite 100 1) [] ∧ fullIntake.control.mode = .run ∧
      addressClass fullIntake (lineNumber (fullWrite 100 1).addr) = .intakeRecord 0 ∧ intakeCount fullIntake = 64) ∧
    (AtHead (channelOf fullRequests (fullWrite 200 1)) (some (fullWrite 7 1)) (fullWrite 200 1) [fullWrite 1 2, fullWrite 7 1] ∧
      (channelOf fullRequests (fullWrite 200 1)).control.mode = .run ∧
      addressClass (channelOf fullRequests (fullWrite 200 1)) (lineNumber (fullWrite 200 1).addr) = .requestLine 0 ∧
      requestCount (channelOf fullRequests (fullWrite 200 1)) = 16) ∧
    (AtHead postWaits none (fullWrite 5000 1) [fullWrite 1 2] ∧ postPending postWaits = true) ∧
    (run.inReset = false ∧ run.system.channel = []) :=
  ⟨⟨atHead_of (by decide +kernel), by decide +kernel⟩,
    ⟨(atHead_waiting (by decide +kernel)).2 _ (by decide +kernel), by decide +kernel⟩,
    ⟨(atHead_waiting (by decide +kernel)).1, by decide +kernel⟩, by decide +kernel⟩

/-- Path 3 deferred with two changes folded in. -/
def waitingNews : Table NoticeRecord := [(3, { outstanding := false, due := true, lastGen := 0, count := 2, reason := some .linkUp })]

theorem test_witness_PartialWritePosts :
    (Calm run 2 ∧ AtHead run (some { fullWrite 209 5 with enables := 0 }) { fullWrite 209 5 with enables := 0 } [] ∧
      (writeClass run (lineNumber (fullWrite 209 5).addr)).observed = some .request ∧ run.control.enables.intakeFault = false) ∧
    (Calm (enabled run) 2 ∧ (enabled run).control.enables.intakeFault = true ∧ (enabled run).decoder.windows = some windows ∧
      ringUsed (enabled run) < windows.noticeLines ∧ (∀ x ∈ (enabled run).notices.records, x.2.deferred = false) ∧
      windows.noticeLines ≤ 4096) ∧
    (let s : State := { enabled run with decoder := { run.decoder with windows := none } }
     Calm s 2 ∧ AtHead s (some { fullWrite 16387 5 with enables := 0 }) { fullWrite 16387 5 with enables := 0 } [] ∧
      (writeClass s 16387).observed = some .acknowledgement ∧ s.decoder.windows = none) ∧
    (let s : State := { enabled run with notices := { run.notices with producer := 16 } }
     Calm s 2 ∧ s.decoder.windows = some windows ∧ windows.noticeLines ≤ ringUsed s) ∧
    (let s : State := { enabled run with notices := { run.notices with records := waitingNews, lost := true } }
     Calm s 2 ∧ ∃ x ∈ s.notices.records, x.2.deferred = true) := by
  refine ⟨⟨calm_of ?_, atHead_of ?_, ?_⟩, ⟨calm_of ?_, ?_⟩, ⟨calm_of ?_, atHead_of ?_, ?_⟩, ⟨calm_of ?_, ?_⟩, calm_of ?_, ?_⟩ <;>
    decide +kernel

/-- Line 2 of a pending slot whose line 2 is still to come is held; a read of line 2 already issued is forwarded. -/
theorem test_witness_ReadHeldOrForwarded :
    (let s := asked run (request 1 [])
     s.inReset = false ∧ addressClass s 208 = .resultLine 2 2 ∧
      s.paths.pendingSlots.get? 2 = some { tag := 77, serial := 0, line2Issued := false } ∧ s.control.holdTimeout ≠ 0 ∧
      s.system.holds.length < 8) ∧
    (∀ i l p, addressClass run 208 = .resultLine i l → run.paths.pendingSlots.get? i = some p → (l ≠ 1 ∧ (l = 2 → p.line2Issued = true))) :=
  ⟨by decide +kernel, fun i l p _ h => nomatch (show (none : Option PendingSlot) = some p from h)⟩

theorem test_witness_ReadsAnsweredAndReleased :
    (let s : State := { run with memory := { run.memory with reads := [(4, 64), (5, 128)] } }
     s.inReset = false ∧ s.memory.reads = [(4, 64)] ++ (5, 128) :: [] ∧ ∀ r ∈ [((4 : Nat), (64 : Addr))], r.1 ≠ 5) ∧
    (let h : Hold := { tag := 4, addr := 64, slot := 1, line := 1, deadline := 10000000 }
     let s : State := { run with system := { run.system with holds := [h] } }
     s.inReset = false ∧ s.system.holds = [] ++ h :: [] ∧ h.deadline.toNat ≤ s.control.time.toNat ∧
      s.control.time.toNat < ({ h with deadline := 10000001 } : Hold).deadline.toNat) := by decide +kernel
theorem test_witness_OldestItemIssued :
    (withContent run 5 7 none).writeBack.queue = .content 5 7 none :: [] ∧ (withRef run .status).writeBack.queue = .ref .status :: [] ∧
      run.inReset = false := by decide +kernel
theorem test_witness_ResultIssueReleasesHolds :
    (let s := withContent (asked run (request 1 [])) 207 7 (some { slot := 2, line := 1, serial := 0 })
     s.inReset = false ∧ s.writeBack.queue = .content 207 7 (some { slot := 2, line := 1, serial := 0 }) :: [] ∧
      s.paths.pendingSlots.get? 2 = some { tag := 77, serial := 0, line2Issued := false }) ∧
    (let s := withContent (asked run (request 1 [])) 207 7 (some { slot := 3, line := 1, serial := 0 })
     s.inReset = false ∧ s.writeBack.queue = .content 207 7 (some { slot := 3, line := 1, serial := 0 }) :: [] ∧
      s.paths.pendingSlots.get? 3 = none) := by decide +kernel

def responseWaits : State := { nearlyFull with writeBack := { nearlyFull.writeBack with waiters := [.response] } }

theorem test_witness_WaitersResume :
    (nodeWaits.inReset = false ∧ nodeWaits.writeBack.waiters = .thread .topology :: [] ∧ nodeWaits.notices.turn = [] ∧
      nodeWaits.topology.strikeWait = false ∧ nodeWaits.threads = Threads.none.put .topology [.ref (.node 1)] ∧
      nodeWaits.writeBack.queue.length < 64) ∧
    (let s : State := { nearlyFull with writeBack := { nearlyFull.writeBack with waiters := [.noticeStatus, .response] } }
     s.inReset = false ∧ s.writeBack.waiters = .noticeStatus :: [.response] ∧ s.writeBack.queue.length < 64) ∧
    (responseWaits.inReset = false ∧ responseWaits.writeBack.waiters = .response :: [] ∧ responseWaits.writeBack.queue.length < 64) ∧
    (eventWaits.inReset = false ∧ eventWaits.topology.strikeWait = true ∧ eventWaits.writeBack.waiters = [] ∧
      eventWaits.notices.turn = [] ∧ eventWaits.threads = Threads.none.put .topology [.event { kind := .down, link := 5 }] ∧
      eventWaits.paths.strikes.length < 32) := by decide +kernel

theorem test_witness_ClassesTimingAndUnknownResults :
    (Calm off 1 ∧ Commanded (commanded off (command 11 [])) (command 11 []) 11) ∧
    (Calm (commanded off classesCommand) 1 ∧ Commanded (commanded off classesCommand) classesCommand 3 ∧ off.control.mode = .off ∧
      off.paths.entries = [] ∧ ∀ e ∈ classArgs classesCommand, (e.width = 1 ∨ e.width = 2) ∧ 1 ≤ e.budget ∧ e.budget ≤ 65534) ∧
    (Calm (commanded run (command 4 [])) 1 ∧ Commanded (commanded run (command 4 [])) (command 4 []) 4) :=
  ⟨⟨calm_of (by decide +kernel), commanded_of (by decide +kernel)⟩,
    ⟨calm_of (by decide +kernel), commanded_of (by decide +kernel), by decide +kernel⟩,
    calm_of (by decide +kernel), commanded_of (by decide +kernel)⟩

/-- Each check of R21's order failing: mode, argument, contents. -/
theorem test_witness_FailedCheckHasNoEffect :
    (Calm (commanded run windowsCommand) 1 ∧ Commanded (commanded run windowsCommand) windowsCommand 1 ∧ run.control.mode ≠ .off) ∧
    (Commanded (commanded off (command 1 [])) (command 1 []) 1 ∧ windowArgsOk off (windowArgs (command 1 [])) = false) ∧
    (Commanded (commanded off (command 2 [(4, 1, 16)])) (command 2 [(4, 1, 16)]) 2 ∧ 16 ≤ profileDomainArg (command 2 [(4, 1, 16)])) ∧
    (Commanded (commanded (joined run) (command 2 [])) (command 2 []) 2 ∧ (joined run).control.mode = .run ∧
      ∃ x ∈ (joined run).topology.nodes, x.2.domain = profileDomainArg (command 2 [])) ∧
    (Commanded (commanded off (command 3 [])) (command 3 []) 3 ∧ ∃ e ∈ classArgs (command 3 []), (e.width ≠ 1 ∧ e.width ≠ 2)) ∧
    (Commanded (commanded run (command 6 [])) (command 6 []) 6 ∧ run.control.mode ≠ .off) ∧
    (Commanded (commanded off (command 7 [])) (command 7 []) 7 ∧ off.control.mode ≠ .run) ∧
    (Commanded (commanded (withPath off 3 intactPath) (command 8 [])) (command 8 []) 8 ∧ (withPath off 3 intactPath).paths.entries ≠ []) ∧
    (Commanded (commanded run (command 9 [])) (command 9 []) 9 ∧ run.control.mode ≠ .off) := by
  refine ⟨⟨calm_of ?_, commanded_of ?_, ?_⟩, ⟨commanded_of ?_, ?_⟩, ⟨commanded_of ?_, ?_⟩, ⟨commanded_of ?_, ?_, ?_⟩,
    ⟨commanded_of ?_, ?_⟩, ⟨commanded_of ?_, ?_⟩, ⟨commanded_of ?_, ?_⟩, ⟨commanded_of ?_, ?_⟩, commanded_of ?_, ?_⟩ <;>
    decide +kernel

/-- Windows that meet one another and end at the anchor page pass; the intake window one line longer meets the next. A notice window of
4096 lines that ends at 2^64 passes; one of 8192 lines, or one line further up, does not. -/
theorem test_witness_FailedCheckHasNoEffect_windows :
    let tight := fun intakeLines => command 1 [(4, 8, 64 * 12000), (12, 2, intakeLines), (14, 8, 64 * 12400), (22, 2, 48),
      (24, 8, 64 * 12544), (32, 8, 64 * 11984), (40, 2, 16)]
    let high := fun line lines => command 1 [(4, 8, 0), (12, 2, 4096), (14, 8, 64 * 4096), (22, 2, 256), (24, 8, 64 * 4864), (32, 8, 64 * line),
      (40, 2, lines)]
    off.decoder.anchor = some 16384 ∧ [400, 401, 0].map (fun n => windowArgsOk off (windowArgs (tight n))) = [true, false, false] ∧
      windowArgsOk off (windowArgs (high (2 ^ 58 - 4096) 4096)) = true ∧ windowArgsOk off (windowArgs (high (2 ^ 58 - 8192) 8192)) = false ∧
      windowArgsOk off (windowArgs (high (2 ^ 58 - 4095) 4096)) = false := by
  decide +kernel

/-- With a path deferred, whose notice the command writes. -/
theorem test_witness_SetWindowsResult :
    let s := { commanded (joined off) windowsCommand with notices := { off.notices with records := waitingNews } }
    Calm s ((usedRefs s).length + 2 * (deferredPaths s).length + 2) ∧ Commanded s windowsCommand 1 ∧ s.control.mode = .off ∧
      windowArgsOk s (windowArgs windowsCommand) = true ∧ s.paths.pendingSlots = [] ∧
      { windows with noticeLines := 32 } =
        { windows with
          intakeBase := fieldNat windowsCommand 4 8 / 64, intakeLines := fieldNat windowsCommand 12 2
          requestBase := fieldNat windowsCommand 14 8 / 64, requestSlots := fieldNat windowsCommand 22 2
          exportBase := fieldNat windowsCommand 24 8 / 64, noticeBase := fieldNat windowsCommand 32 8 / 64
          noticeLines := fieldNat windowsCommand 40 2 } ∧ s.notices.records.ascending ∧
      (∀ x ∈ s.notices.records, x.2.deferred = true → 1 ≤ x.2.count) ∧ deferredPaths s = [3] := by
  refine ⟨calm_of ?_, commanded_of ?_, ?_, ?_, ?_, ?_, by unfold Table.ascending; decide +kernel, ?_, ?_⟩ <;> decide +kernel

/-- The last domain and the last line of the address space. -/
theorem test_witness_LoadProfileStartsItsRead :
    let r := command 2 [(4, 1, 15), (8, 8, 2 ^ 64 - 64)]
    let s := commanded (joined run) r
    s.inReset = false ∧ Commanded s r 2 ∧ profileDomainArg r < 16 ∧ (profileAddrArg r).toNat % 64 = 0 ∧
      (s.control.mode = .run → ∀ x ∈ s.topology.nodes, x.2.domain ≠ profileDomainArg r) := by
  refine ⟨?_, commanded_of ?_, ?_⟩ <;> decide +kernel

/-- A record with count 129 fails, one with count 128 passes; an error; and a read that RESTART abandoned. -/
theorem test_witness_ProfileReadAnswered :
    (Calm reading 1 ∧ reading.memory.ownRead = some 6400 ∧
      reading.control.inProgress = some { record := command 2 [], phase := .readInFlight 3 }) ∧
    (¬ ((fieldNat (rec [(1, 1, 4), (2, 1, 129), (4, 2, 1)]) 1 1 = 1 ∨ fieldNat (rec [(1, 1, 4), (2, 1, 129), (4, 2, 1)]) 1 1 = 4) ∧
        fieldNat (rec [(1, 1, 4), (2, 1, 129), (4, 2, 1)]) 2 1 ≤ 128)) ∧
    (profileOk (rec [(0, 1, 79), (1, 1, 4), (2, 1, 128), (3, 1, 31), (4, 2, 1)]) = true) ∧
    (let s : State := { inPhase off 10 .awaitRead with memory := { off.memory with ownRead := some 6400 } }
     Calm s 1 ∧ s.memory.ownRead = some 6400 ∧ s.control.inProgress = some { record := command 10 [], phase := .awaitRead }) := by
  refine ⟨⟨calm_of ?_, ?_⟩, ?_, ?_, calm_of ?_, ?_⟩ <;> decide +kernel

theorem test_witness_ProfileInstalled :
    let s := inPhase (joined off) 2 (.awaitInstall 0 profile1)
    (Calm s 1 ∧ s.control.inProgress = some { record := command 2 [], phase := .awaitInstall 0 profile1 }) ∧
      ((granted s .expiry).arbiter.holder = some .topology) ∧
      (s.arbiter.holder ≠ some .topology ∧ (∀ x ∈ (inPhase off 2 (.awaitInstall 0 profile1)).topology.nodes, x.2.domain ≠ 0)) ∧
      ((inMode s .run).control.mode ≠ .off ∧ ∃ x ∈ s.topology.nodes, x.2.domain = 0) ∧
      (ArbiterFree s ∧ s.topology.work = none ∧ s.control.mode = .off ∧ (cmdCode (command 2 [])).toNat = 2) := by
  refine ⟨⟨calm_of ?_, ?_⟩, ?_, ?_, ?_, ⟨?_, ?_, ?_⟩, ?_⟩ <;> decide +kernel

/-- Node 4 of domain 0 with an unlinked port; and nodes 0 and 1, of which node 1 is of domain 1 and has its port on link 0 to node 0. -/
theorem test_witness_ReconversionOfANode :
    (let s := enabled (withNodes reconverting [(4, node 100)] [(7, port 4 1 200 2 .unanswered none)] [])
     Calm s (places s (domainReconverted s 0).said + 1) ∧ TableLaw s ∧ TopologyGranted s .command ∧
      s.control.inProgress = some { record := command 2 [], phase := .reconversion 0 } ∧ (domainReconverted s 0).said.length = 3) ∧
    (let s := enabled { joined (granted (inPhase { off with profiles := { off.profiles with domains := [(1, profile1)] } } 2
        (.reconversion 1)) .command) with topology :=
          { (joined (granted off .command)).topology with nodes := [(0, node 100), (1, { node 200 with domain := 1 })] } }
     Calm s (places s (domainReconverted s 1).said + 1) ∧ TableLaw s ∧ TopologyGranted s .command ∧
      s.control.inProgress = some { record := command 2 [], phase := .reconversion 1 } ∧ (domainReconverted s 1).said.length = 5) := by
  refine ⟨⟨calm_of ?_, tableLaw_of ?_, ⟨?_, ?_, ?_, ?_⟩, ?_⟩, calm_of ?_, tableLaw_of ?_, ⟨?_, ?_, ?_, ?_⟩, ?_⟩ <;> decide +kernel

theorem test_witness_SetReportingResult :
    (Calm (commanded run (command 5 [(4, 1, 4)])) 2 ∧ Commanded (commanded run (command 5 [(4, 1, 4)])) (command 5 [(4, 1, 4)]) 5 ∧
      flagBit (command 5 [(4, 1, 4)]) 4 2 = true) ∧ flagBit (command 5 []) 4 2 = false ∧
      Table.ascending run.notices.records := by
  refine ⟨⟨calm_of ?_, commanded_of ?_, ?_⟩, ?_, by unfold Table.ascending; decide⟩ <;> decide +kernel

theorem test_witness_StartResult :
    let s := commanded (joined off) (command 6 [])
    Calm s 2 ∧ Commanded s (command 6 []) 6 ∧ s.control.mode = .off ∧ s.decoder.windows = some windows := by
  refine ⟨calm_of ?_, commanded_of ?_, ?_⟩ <;> decide +kernel

theorem test_witness_StopResult :
    let s := commanded (enabled run) (command 7 [])
    let u := commanded { enabled run with intake := { run.intake with queue := [loose, marker, member, loose], batch := .opened 9 } }
      (command 7 [])
    (Calm s 4 ∧ Commanded s (command 7 []) 7 ∧ s.control.mode = .run ∧ s.intake.handed = [] ∧ ∀ t, s.intake.batch ≠ .opened t) ∧
      (Calm u 4 ∧ Commanded u (command 7 []) 7 ∧ u.intake.batch = .opened 9 ∧ OpenBatchIn u.intake.queue [loose] marker [member, loose]) := by
  refine ⟨⟨calm_of ?_, commanded_of ?_, ?_, ?_, nofun⟩, calm_of ?_, commanded_of ?_, ?_, ?_, ?_, ?_⟩ <;> decide +kernel

theorem test_witness_DrainEndResult :
    (Calm drained 2 ∧ drained.control.mode = .drain ∧ drained.control.inProgress = some { record := command 7 [], phase := .draining } ∧
      (cmdCode (command 7 [])).toNat = 7 ∧ intakeCount drained = 0 ∧ requestCount drained = 0 ∧ drained.paths.strikes = [] ∧
      drained.paths.restoration = [] ∧ drained.paths.slot = none ∧ drained.arbiter.holder ≠ some .topology) ∧
    intakeCount (queued drained [loose]) ≠ 0 ∧ overflowWaits.threads.intake ≠ [] := by
  refine ⟨⟨calm_of ?_, ?_⟩, ?_⟩ <;> decide +kernel

theorem test_witness_ClearTopologyResults :
    (let s := commanded (joined off) (command 8 [])
     s.inReset = false ∧ Commanded s (command 8 []) 8 ∧ s.control.mode = .off ∧ s.paths.entries = [] ∧ ArbiterFree s ∧
      s.topology.work = none) ∧
    (Calm clearing ((usedRefs clearing).length + 2) ∧ TopologyGranted clearing .command ∧ clearing.paths.entries = [] ∧
      clearing.control.inProgress = some { record := command 8 [], phase := .clearing } ∧ clearing.paths.strikes = [] ∧
      (struckBy clearing .down).paths.strikes ≠ []) := by
  refine ⟨⟨?_, commanded_of ?_, ?_, ?_, ⟨?_, ?_, ?_⟩, ?_⟩, calm_of ?_, ⟨?_, ?_, ?_, ?_⟩, ?_⟩ <;> decide +kernel

theorem test_witness_ClearPathsResult :
    let s := commanded (withPath off 3 intactPath) (command 9 [])
    Calm s (s.paths.entries.length + 2) ∧ Commanded s (command 9 []) 9 ∧ s.control.mode = .off ∧ s.notices.records.ascending := by
  refine ⟨calm_of ?_, commanded_of ?_, ?_, by unfold Table.ascending; decide⟩ <;> decide +kernel

theorem test_witness_RestartResult :
    restarted.inReset = false ∧ restarted.control.handed = [command 10 []] ∧ (cmdCode (command 10 [])).toNat = 10 ∧
      restarted.control.inProgress = none ∧ restarted.memory.ownRead = none ∧ .response ∉ restarted.writeBack.waiters ∧
      restarted.writeBack.queue.length + 2 * restarted.paths.pendingSlots.length + (usedRefs restarted).length + 2 ≤ 64 := by
  decide +kernel

def notified (due : Bool) : Table NoticeRecord :=
  [(3, { outstanding := true, due, lastGen := 1, count := if due then 2 else 0, reason := some .linkUp })]

/-- Path IDs 512 and 3; the count at the producer and at the held count. -/
theorem test_witness_AcknowledgementResult :
    (Calm (acking run (rec [(0, 4, 9), (4, 2, 512)]) (notified false)) 2 ∧ ackPathId (rec [(0, 4, 9), (4, 2, 512)]) = 512 ∧
      (ackConsumer (rec [(0, 4, 9), (4, 2, 512)]) - 4).toNat ≤ (9 - 4 : BitVec 32).toNat) ∧
    (let s := acking run (rec [(0, 4, 4), (4, 2, 3), (6, 2, 1)]) (notified true)
     let x := noticeRecord s 3
     Calm s 2 ∧ (∀ x ∈ s.notices.records, x.2.deferred = false) ∧ x.outstanding = true ∧ x.lastGen = 1 ∧ x.due = true ∧ 1 ≤ x.count ∧
      s.decoder.windows = some windows ∧ (s.notices.producer - s.notices.consumer).toNat < windows.noticeLines) ∧
    (noticeRecord (acking run (rec [(0, 4, 4), (4, 2, 3), (6, 2, 1)]) (notified false)) 3).due = false ∧
    (let s := acking run (rec [(0, 4, 9), (4, 2, 3), (6, 2, 1)])
        (notified true ++ [(511, { outstanding := false, due := true, lastGen := 0, count := 1, reason := none })])
     Calm s (2 * (deferredPaths s).length + 4) ∧ s.decoder.windows = some windows ∧ windows.noticeLines ≤ 4096 ∧
      s.notices.records.ascending ∧ (∀ y ∈ s.notices.records, y.2.due = true → 1 ≤ y.2.count) ∧ deferredPaths s = [511]) := by
  refine ⟨⟨calm_of ?_, ?_⟩, ⟨calm_of ?_, ?_⟩, ?_, calm_of ?_, ?_, ?_, by unfold Table.ascending; decide +kernel, ?_, ?_⟩ <;>
    decide +kernel

theorem test_witness_PathStatePosts :
    (run.notices.turn = [] ∧ run.control.enables.path = false) ∧
    ((enabled run).control.enables.path = true ∧ (noticeRecord (enabled run) 3).outstanding = false ∧
      (noticeRecord (enabled run) 3).due = false ∧ ringOpen (enabled run) = true) ∧
    (noticeRecord (acking (enabled run) 0 (notified false)) 3).outstanding = true := by decide +kernel

/-- Records of every kind, tag and batch state; with the classes enabled. -/
theorem test_witness_IntakeRecordTaken :
    (let s := enabled (taking (.opened 9) [marker] (report 5 9 []))
     Calm s 6 ∧ s.intake.handed = { record := report 5 9 [], offset := 3 } :: [] ∧ s.intake.taking = none ∧ restarting s = false ∧
      intakeCount s ≤ 64 ∧ formOk (report 5 9 []) = true ∧ recTag (report 5 9 []) = 9 ∧ s.intake.batch = .opened 9 ∧
      ¬ (s.control.mode ≠ .run ∧ ([] : List HandedRecord) = [])) ∧
    (formOk (report 5 0 [(8, 1, 16)]) = false ∧ formOk (report 5 0 [(8, 1, 15)]) = true ∧ recTag (report 5 0 []) = 0 ∧
      recKindCode (report 0 5 []) = 0 ∧ recTag (report 5 8 []) = 8 ∧ formOk (report 5 8 []) = true ∧ formOk (report 6 9 []) = true ∧
      recKindCode (report 6 9 []) = 6 ∧ formOk (report 7 9 []) = true ∧ recKindCode (report 7 9 []) = 7) ∧
    (OpenBatchIn [loose, marker, loose, member] [loose] marker [loose, member] ∧
      OpenBatchIn ([loose] ++ looseOf [loose, member] ++ [⟨report 6 9 [], 3, .opening⟩]) [loose, loose] ⟨report 6 9 [], 3, .opening⟩ []) ∧
    (let s := inMode (taking (.opened 9) [marker, member] (report 5 0 [])) .drain
     s.control.mode ≠ .run ∧ OpenBatchIn ([marker, member] ++ [⟨report 5 0 [], 3, .loose⟩]) [] marker [member, ⟨report 5 0 [], 3, .loose⟩]) := by
  refine ⟨⟨calm_of ?_, ?_⟩, ?_, ⟨⟨?_, ?_, ?_⟩, ⟨?_, ?_, ?_⟩⟩, ?_, ?_, ?_, ?_⟩ <;> decide +kernel

/-- The 64th record held: a member and a BATCH_OPEN, with which the open batch overflows; a BATCH_CLOSE, a dropped record and a loose one
with no batch open, with which none does. -/
theorem test_witness_IntakeRecordTaken_full :
    (let s := enabled (taking (.opened 9) (List.replicate 60 loose ++ [marker, member, loose]) (report 5 9 []))
     Calm s 6 ∧ intakeCount s = 64 ∧ OpenBatchIn (s.intake.queue ++ [⟨report 5 9 [], 3, .member⟩]) (List.replicate 60 loose) marker
        [member, loose, ⟨report 5 9 [], 3, .member⟩] ∧ s.intake.queue.length + 1 = 64) ∧
    (let s := enabled (taking .closed (List.replicate 63 loose) (report 6 9 []))
     intakeCount s = 64 ∧ s.intake.batch = .closed ∧ s.intake.queue.length + 1 = 64 ∧
      OpenBatchIn (s.intake.queue ++ [⟨report 6 9 [], 3, .opening⟩]) (List.replicate 63 loose) ⟨report 6 9 [], 3, .opening⟩ []) ∧
    (let s := taking (.opened 9) (List.replicate 60 loose ++ [marker, member, loose]) (report 7 9 [])
     intakeCount s = 64 ∧ s.intake.batch = .opened (recTag (report 7 9 []))) ∧
    (let s := taking (.opened 9) (List.replicate 60 loose ++ [marker, member, loose]) (report 5 8 [])
     intakeCount s = 64 ∧ s.intake.queue.length + 0 ≠ 64) ∧
    (let s := taking (.discarding 9) (List.replicate 63 loose) (report 5 0 [])
     intakeCount s = 64 ∧ recTag (report 5 0 []) = 0) := by
  refine ⟨⟨calm_of ?_, ?_, ⟨?_, ?_, ?_⟩, ?_⟩, ⟨?_, ?_, ?_, ⟨?_, ?_, ?_⟩⟩, ?_⟩ <;> decide +kernel

/-- The form checks of R59 at their boundaries: a PORT_REPORT that is down with 6 SRLGs passes, and fails in a state code of 3, with 7
SRLGs or for a claim of its own node; a kind of 8, an ID of 0 and a marker without a tag fail. -/
theorem test_witness_IntakeRecordTaken_form :
    let claim := fun far state count => report 2 0 [(4, 4, 1), (12, 4, far), (10, 1, state), (11, 1, count)]
    [claim 2 2 6, claim 2 3 6, claim 2 2 7, claim 1 2 6, report 8 0 [(4, 4, 1)], report 1 0 [(8, 1, 15)], report 1 0 [(4, 4, 1), (8, 1, 15)],
      report 7 0 []].map (fun r => (decide (fieldNat r 0 1 ≠ 0), formOk r)) =
      [(true, true), (true, false), (true, false), (true, false), (true, false), (true, false), (true, true), (true, false)] := by
  decide +kernel

theorem test_witness_TopologyRequestMade :
    (let s := queued (joined run) [loose]
     s.inReset = false ∧ restarting s = false ∧ (s.arbiter.holder = none → s.arbiter.waitTopology = false ∧ s.arbiter.waitPath = false) ∧
      s.topology.work = none ∧ s.control.inProgress = none ∧ headApplicable s = true ∧
      (∀ x ∈ s.topology.nodes, nodeDue s s.control.time x.2 = false) ∧ (∀ x ∈ s.topology.ports, portDue s s.control.time x.2 = false)) ∧
    (granted run .intake).topology.work ≠ none ∧
    (∃ c, (inPhase off 8 .clearing).control.inProgress = some c ∧ c.phase = .clearing) ∧
    ((linkOf .retiring true).state = .retiring ∧ (linkOf .retiring true).answered = true) ∧
    (∃ x ∈ ageing.topology.nodes, nodeDue ageing ageing.control.time x.2 = true) ∧ headApplicable (queued run [marker]) = false ∧
    OpenBatchIn (queued run [marker, member]).intake.queue [] marker [member] := by
  refine ⟨?_, ?_, ⟨_, rfl, rfl⟩, ?_, ?_, ?_, ⟨?_, ?_, ?_⟩⟩ <;> decide +kernel

/-- Domain 0's age limit of 5 s has passed at 10 s since 5 s, and not since 5.000001 s. -/
theorem test_witness_EntryDueRequestsExpiry :
    (ageing.inReset = false ∧ restarting ageing = false ∧ ageing.topology.nodes.get? 1 = some oldNode ∧ ageing.topology.work = none ∧
      ageing.control.inProgress = none ∧ ageing.topology.links = []) ∧
    IsDue ageing ageing.control.time 0 5000000 ∧ ¬ IsDue ageing ageing.control.time 0 5000001 ∧
    ((joined run).topology.ports.get? 1 = some (port 1 2 100 1 .paired (some 0)) ∧ (joined run).topology.nodes.get? 1 = some (node 200)) := by
  unfold IsDue
  decide +kernel

/-- A table of one entry for each index below its size is in canonical form, and has no index free. -/
theorem wf_range {α : Type} (n : Nat) (f : Nat → α) : Table.wf ((List.range n).map (fun i => (i, f i))) n = true := by
  simp [Table.wf, Table.keys, Function.comp_def, List.pairwise_lt_range]

theorem get?_range_ne {α : Type} {n k : Nat} (f : Nat → α) (hk : k < n) : Table.get? ((List.range n).map (fun i => (i, f i))) k ≠ none := by
  have h : ∀ l : List Nat, k ∈ l → Table.get? (l.map (fun i => (i, f i))) k ≠ none := by
    intro l
    induction l with
    | nil => simp
    | cons x l ih =>
      intro hl
      by_cases hx : x = k
      · simp [Table.get?, hx]
      · simpa [Table.get?, hx] using ih ((List.mem_cons.1 hl).resolve_left (Ne.symm hx))
  exact h _ (List.mem_range.2 hk)

theorem tableLaw_wide {s : State} (hn : s.topology.nodes.wf 256 = true) (hp : s.topology.ports.wf 2048 = true)
    (hl : s.topology.links.wf 1024 = true) (h : s.paths = run.paths ∧ s.notices = run.notices ∧ s.profiles = run.profiles) : TableLaw s := by
  have hr : TableLaw run := tableLaw_of (by decide +kernel)
  obtain ⟨a, b, c⟩ := h
  simp only [Table.wf, Bool.and_eq_true, decide_eq_true_eq] at hl
  refine ⟨⟨hn, hp, hl.1⟩, ?_, ?_, ?_⟩
  · rw [a]; exact hr.2.1
  · rw [b]; exact hr.2.2.1
  · rw [c]; exact hr.2.2.2

/-- The topology unit holds the database for an applicable record at the head, with every class enabled. -/
def applied (s : State) (l : Line) : State := enabled (queued (granted s .intake) [{ record := l, offset := 3, role := .loose }])

/-- A part with 256 nodes. -/
def allNodes : Table NodeEntry := (List.range 256).map (fun i => (i, node i))
def crowded (l : Line) : State := withNodes (applied run l) allNodes [] []

theorem crowded_nodes (l : Line) : (crowded l).topology.nodes = allNodes := by simp only [crowded, withNodes]
theorem crowded_wf (l : Line) : (crowded l).topology.nodes.wf 256 = true := by rw [crowded_nodes]; exact wf_range _ _
theorem crowded_full (l : Line) : ∀ i < 256, (crowded l).topology.nodes.get? i ≠ none := by
  rw [crowded_nodes]; exact fun _ h => get?_range_ne _ h

/-- The effect of a record that has left the queue and changed nothing. -/
def onlyWithdrawn (s : State) (items : List Said) : Effect := { state := withQueue s [], said := items }

def newNode : Line := report 1 0 [(4, 4, 300)]

/-- A NODE_REPORT of an absent profile, of a new node (with an index free and with none), of a node as it is and of one that differs; a
PORT_REPORT of an unknown node; and a DOMAIN_REFRESH. -/
theorem test_witness_LooseRecordApplied :
    (let l := report 1 0 [(4, 4, 300), (8, 1, 1)]
     let s := applied (joined run) l
     let items := [Said.post (.recordFault .profileMissing l 3)]
     TableLaw s ∧ TopologyGranted s .intake ∧ s.intake.queue = ⟨l, 3, .loose⟩ :: [] ∧ recKindCode l = 1 ∧
      s.profiles.domains.get? (recByte8 l) = none ∧ Calm s (places s items) ∧ (onlyWithdrawn s items).state.paths.strikes.length ≤ 32) ∧
    (let l := report 1 0 [(4, 4, 300)]
     let s := applied (joined run) l
     let e := NodeEntry.mk 300 0 0 0 false 10000000 0
     TableLaw s ∧ TopologyGranted s .intake ∧ s.profiles.domains.get? (recByte8 l) = some plainProfile ∧
      (∀ x ∈ s.topology.nodes, x.2.netId ≠ recId l) ∧ LowestFree s.topology.nodes 256 2 ∧
      Calm s (places s [.ref (.node 2), .post (.nodeAdded 2 e), .ref .status])) ∧
    (let s := crowded newNode
     TableLaw s ∧ (∀ x ∈ s.topology.nodes, x.2.netId ≠ recId newNode) ∧ (∀ i < 256, s.topology.nodes.get? i ≠ none) ∧
      Calm s (places s [.post (.recordFault .tableFull newNode 3)])) ∧
    (let l := report 1 0 [(4, 4, 100), (9, 1, 1), (10, 2, 40)]
     let s := applied (joined run) l
     findNode s (recId l) = some (0, node 100) ∧ (node 100).domain = recByte8 l ∧ (node 100).rawPenalty = nodeRawPenalty l ∧
      (node 100).transit = nodeTransit l) ∧
    (nodeTransit (report 1 0 [(9, 1, 0)]) ≠ (node 100).transit ∧ recKindCode (report 2 0 []) = 2 ∧
      (∀ x ∈ (joined run).topology.nodes, x.2.netId ≠ recId (report 2 0 [(4, 4, 300)])) ∧ recKindCode (report 5 0 []) = 5) := by
  refine ⟨⟨tableLaw_of ?_, ⟨?_, ?_, ?_, ?_⟩, ?_, ?_, ?_, calm_of ?_, ?_⟩, ⟨tableLaw_of ?_, ⟨?_, ?_, ?_, ?_⟩, ?_, ?_, ⟨?_, ?_, ?_⟩, calm_of ?_⟩,
    ⟨tableLaw_wide (crowded_wf _) ?_ ?_ ?_, ?_, crowded_full _, calm_of ?_⟩, ?_⟩ <;> decide +kernel

/-- A state in which node 300's port 3 and a new port 4 of node 200 claim each other; other ports stand for the other clauses. -/
def meeting (l : Line) : State :=
  applied (withNodes run [(0, node 100), (1, node 200), (2, node 300)]
    [(0, port 0 1 200 2 .unanswered none), (1, port 2 3 200 4 .unanswered none)] []) l

/-- Every index below the count has an entry in the table of equal entries. -/
theorem get?_range_map_ne {α : Type} {n k : Nat} (a : α) (hk : k < n) :
    Table.get? ((List.range n).map (fun i => (i, a))) k ≠ none := by
  have h : ∀ l : List Nat, k ∈ l → Table.get? (l.map (fun i => (i, a))) k ≠ none := by
    intro l
    induction l with
    | nil => simp
    | cons x l ih =>
      intro hl
      by_cases hx : x = k
      · simp [Table.get?, hx]
      · simpa [Table.get?, hx] using ih ((List.mem_cons.1 hl).resolve_left (Ne.symm hx))
  exact h _ (List.mem_range.2 hk)

/-- A PORT_WITHDRAW of node 300's port 3, which no port claims; of node 200's port 4, which is absent; a NODE_WITHDRAW of node 200, which
has no ports, and of node 300, which has one; and one of an unknown node. -/
theorem test_witness_LooseRecordApplied_withdrawals :
    (let l := report 3 0 [(4, 4, 300), (8, 1, 3)]
     let s := meeting l
     recKindCode l = 3 ∧ TableLaw s ∧ TopologyGranted s .intake ∧ findNode s (recId l) = some (2, node 300) ∧
      findPort s 2 (recByte8 l) = some (1, port 2 3 200 4 .unanswered none) ∧
      roomFor s (portRemoved (withQueue s []) .withdrawn 1) = true) ∧
    (let l := report 3 0 [(4, 4, 200), (8, 1, 4)]
     findNode (meeting l) (recId l) = some (1, node 200) ∧ findPort (meeting l) 1 (recByte8 l) = none ∧
      roomFor (meeting l) (onlyWithdrawn (meeting l) []) = true) ∧
    (let l := report 4 0 [(4, 4, 200)]
     recKindCode l = 4 ∧ TableLaw (meeting l) ∧ findNode (meeting l) (recId l) = some (1, node 200) ∧
      roomFor (meeting l) (nodeRemoved (withQueue (meeting l) []) .withdrawn 1) = true) ∧
    (let l := report 4 0 [(4, 4, 300)]
     findNode (meeting l) (recId l) = some (2, node 300) ∧ portsOf (meeting l) 2 = [1] ∧
      roomFor (meeting l) (nodeRemoved (withQueue (meeting l) []) .withdrawn 2) = true) ∧
    (∀ x ∈ (meeting 0).topology.nodes, x.2.netId ≠ recId (report 4 0 [(4, 4, 400)])) := by
  refine ⟨⟨?_, tableLaw_of ?_, ⟨?_, ?_, ?_, ?_⟩, ?_⟩, ?_, ⟨?_, tableLaw_of ?_, ?_⟩, ?_⟩ <;> decide +kernel

/-- The two linked ports of nodes 100 and 200, both claiming each other, and one record to be applied. -/
def linkedWith (s : State) (l : Line) : State := applied (joined s) l

/-- Node 100 moves to domain 1 with its port linked; its port in link 0 is withdrawn, and the whole node. -/
theorem test_witness_LooseRecordApplied_domains_and_links :
    (let l := report 1 0 [(4, 4, 100), (8, 1, 1), (10, 2, 40)]
     let s := linkedWith { run with profiles := { run.profiles with domains := [(0, plainProfile), (1, profile1)] } } l
     let e := NodeEntry.mk 100 1 40 200 false 10000000 0
     let t : State := { withQueue s [] with topology := { s.topology with nodes := s.topology.nodes.set 0 e } }
     recKindCode l = 1 ∧ s.profiles.domains.get? (recByte8 l) = some profile1 ∧ findNode s (recId l) = some (0, node 100) ∧
      (node 100).domain ≠ recByte8 l ∧ TableLaw s ∧
      roomFor s (Effect.andThen { state := t, said := [.ref (.node 0), .post (.nodeChanged 0 e true true true)] }
        (fun u => portsRederived u profile1 0)) = true) ∧
    (let l := report 3 0 [(4, 4, 100), (8, 1, 1)]
     let s := linkedWith run l
     TableLaw s ∧ findNode s (recId l) = some (0, node 100) ∧
      findPort s 0 (recByte8 l) = some (0, port 0 1 200 2 .paired (some 0)) ∧
      roomFor s (portRemoved (withQueue s []) .withdrawn 0) = true) ∧
    (let l := report 4 0 [(4, 4, 100)]
     roomFor (linkedWith run l) (nodeRemoved (withQueue (linkedWith run l) []) .withdrawn 0) = true) := by
  refine ⟨⟨?_, ?_, ?_, ?_, tableLaw_of ?_, ?_⟩, ⟨tableLaw_of ?_, ?_⟩, ?_⟩ <;> decide +kernel

/-- The port of a PORT_REPORT in a part whose domain 0 has the plain profile, with its pairing state and link. -/
def reportedPort (l : Line) (i number : Nat) (st : Pairing) (link : Option Nat) : PortEntry :=
  { node := i, number, reported := portReported l, nu := convert plainProfile (portRaw l), foreign := mapForeign plainProfile (portMask l)
    clipped := mapClipped plainProfile (portMask l), refresh := 10000000, pairing := st, link }

def portStored (u : State) (j : Nat) (e : PortEntry) : State :=
  { u with topology := { u.topology with ports := u.topology.ports.set j e } }

/-- The effect of the report of a new port `j` of node `i`. -/
def newPort (s : State) (l : Line) (i j : Nat) : Effect :=
  let counted : State := { withQueue s [] with topology := { s.topology with
    nodes := s.topology.nodes.modify i (fun x => { x with portCount := x.portCount + 1 }) } }
  ((Effect.andThen { state := portStored counted j (reportedPort l i (recByte8 l) .unanswered none), said := [.ref (.node i), .ref .status] }
    (fun u => portEvaluated u j none none)).andThen (fun u => claimantsContradicted u j))

/-- The effect of the report that re-points port `j`, with entry `e`, of node `i`. -/
def rePointed (s : State) (l : Line) (i j : Nat) (e : PortEntry) : Effect :=
  ((pairLeft (withQueue s []) j e).andThen (fun u => .none (portStored u j (reportedPort l i e.number .unanswered none)))).andThen
    (fun u => portEvaluated u j (some e.pairing) e.link) |>.andThen (fun u => claimantsContradicted u j)

/-- A new port that its target claims back; a port in no link that changes another field; and one reported as it is. -/
theorem test_witness_PortReportApplied :
    (let l := portReport 200 4 300 3 1
     let s := meeting l
     TableLaw s ∧ TopologyGranted s .intake ∧ s.intake.queue = ⟨l, 3, .loose⟩ :: [] ∧ recKindCode l = 2 ∧ portFarId l ≠ recId l ∧
      findNode s (recId l) = some (1, node 200) ∧ plainProfile = domainProfile s (node 200).domain ∧ findPort s 1 (recByte8 l) = none ∧
      LowestFree s.topology.ports 2048 2 ∧ targetOf s (reportedPort l 1 4 .unanswered none) = some (1, port 2 3 200 4 .unanswered none) ∧
      roomFor s (newPort s l 1 2) = true) ∧
    (let l := portReport 100 1 200 2 1
     let s := meeting l
     findPort s 0 (recByte8 l) = some (0, port 0 1 200 2 .unanswered none) ∧
      (port 0 1 200 2 .unanswered none).reported ≠ portReported l ∧
      (port 0 1 200 2 .unanswered none).names (portFarId l) (portFarPort l) ∧
      roomFor s { state := portStored (withQueue s []) 0 (reportedPort l 0 1 .unanswered none), said := [.ref (.port 0)] } = true) ∧
    (let l := report 2 0 [(4, 4, 100), (8, 1, 1), (9, 1, 2), (10, 1, 1), (11, 1, 1), (12, 4, 200), (16, 2, 3), (18, 2, 100), (20, 4, 5)]
     (port 0 1 200 2 .unanswered none).reported = portReported l) := by
  refine ⟨⟨tableLaw_of ?_, ⟨?_, ?_, ?_, ?_⟩, ?_, ?_, ?_, ?_, ?_, ?_, ⟨?_, ?_, ?_⟩, ?_, ?_⟩, ⟨?_, ?_, ⟨?_, ?_⟩, ?_⟩, ?_⟩ <;> decide +kernel

def allPorts : Table PortEntry := (List.range 2048).map (fun j => (j, port (j % 10) (j / 10 + 5) 5 5 .unanswered none))
def allLinks : Table LinkEntry := (List.range 1024).map (fun k => (k, linkOf .retiring false))
theorem allPorts_wf : allPorts.wf 2048 = true := wf_range _ _
theorem allLinks_wf : allLinks.wf 1024 = true := wf_range _ _
theorem allPorts_full {j : Nat} (h : j < 2048) : allPorts.get? j ≠ none := get?_range_ne _ h
theorem allLinks_full {k : Nat} (h : k < 1024) : allLinks.get? k ≠ none := get?_range_ne _ h

/-- A part with 2048 ports, of nodes 0 to 9. -/
def portsFull (l : Line) : State :=
  applied (withNodes run ((List.range 10).map (fun i => (i, node (100 * (i + 1))))) allPorts []) l

/-- A part in which every link ID is in use. -/
def linksFull (l : Line) : State := withNodes (meeting l) (meeting l).topology.nodes (meeting l).topology.ports allLinks

theorem linksFull_links (l : Line) : (linksFull l).topology.links = allLinks := by simp only [linksFull, withNodes]
theorem linksFull_wf (l : Line) : (linksFull l).topology.links.wf 1024 = true := by rw [linksFull_links]; exact allLinks_wf
theorem linksFull_full (l : Line) : ∀ k < 1024, (linksFull l).topology.links.get? k ≠ none := by
  rw [linksFull_links]; exact fun _ h => allLinks_full h

theorem portsFull_ports (l : Line) : (portsFull l).topology.ports = allPorts := by
  simp only [portsFull, applied, enabled, queued, granted, withNodes]
theorem portsFull_wf (l : Line) : (portsFull l).topology.ports.wf 2048 = true := by rw [portsFull_ports]; exact allPorts_wf
theorem portsFull_full (l : Line) : ∀ j < 2048, (portsFull l).topology.ports.get? j ≠ none := by
  rw [portsFull_ports]; exact fun _ h => allPorts_full h

/-- A new port whose target claims another; and one that claims an unknown node, which another port claims. -/
theorem test_witness_PortReportApplied_new :
    (let l := portReport 200 4 100 1 1
     let s := meeting l
     findPort s 1 (recByte8 l) = none ∧ targetOf s (reportedPort l 1 4 .unanswered none) = some (0, port 0 1 200 2 .unanswered none) ∧
      claims s (port 0 1 200 2 .unanswered none) (reportedPort l 1 4 .unanswered none) = false ∧ roomFor s (newPort s l 1 2) = true) ∧
    (let l := portReport 200 4 999 3 1
     targetOf (meeting l) (reportedPort l 1 4 .unanswered none) = none ∧ roomFor (meeting l) (newPort (meeting l) l 1 2) = true) := by
  decide +kernel

def fullReport : Line := portReport 200 4 300 3 1

/-- A new port with every link ID in use, with room for all that its evaluation can queue. -/
theorem test_witness_PortReportApplied_noLinkFree :
    TableLaw (linksFull fullReport) ∧ (∀ k < 1024, (linksFull fullReport).topology.links.get? k ≠ none) ∧
      Calm (linksFull fullReport) 12 ∧ (linksFull fullReport).paths.strikes = [] :=
  ⟨tableLaw_wide (by decide +kernel) (by decide +kernel) (linksFull_wf _) (by decide +kernel), linksFull_full _,
    calm_of (by decide +kernel), by decide +kernel⟩

/-- A new port with every port index in use. -/
theorem test_witness_PortReportApplied_noPortFree :
    TableLaw (portsFull fullReport) ∧ (∀ j < 2048, (portsFull fullReport).topology.ports.get? j ≠ none) ∧
      findNode (portsFull fullReport) (recId fullReport) = some (1, node 200) ∧
      findPort (portsFull fullReport) 1 (recByte8 fullReport) = none ∧
      roomFor (portsFull fullReport) (onlyWithdrawn (portsFull fullReport) [.post (.recordFault .tableFull fullReport 3)]) = true :=
  ⟨tableLaw_wide (by decide +kernel) (portsFull_wf _) (by decide +kernel) (by decide +kernel), portsFull_full _, by decide +kernel⟩

/-- A port in link 0 that goes down, or changes its cost only; it leaves its link for an unknown node, or for a port of node 300 that
claims it; and a WAITING one does so. -/
theorem test_witness_PortReportApplied_links :
    (let l := portReport 100 1 200 2 2
     let s := linkedWith run l
     let e := port 0 1 200 2 .paired (some 0)
     TableLaw s ∧ TopologyGranted s .intake ∧ findNode s (recId l) = some (0, node 100) ∧
      findPort s 0 (recByte8 l) = some (0, e) ∧ e.reported ≠ portReported l ∧ e.names (portFarId l) (portFarPort l) ∧ e.link = some 0 ∧
      roomFor s ((((Effect.none (portStored (withQueue s []) 0 (reportedPort l 0 1 .paired (some 0)))).andThen (fun u => linkRederived u 0)).andThen
        (fun u => linkStateRederived u 0)).andThen (fun u => { state := u, said := [.ref (.port 0)] })) = true ∧
      (portReported l).up = false ∧ (portReported (portReport 100 1 200 2 1)).up = true) ∧
    (let l := portReport 100 1 999 2 1
     ¬ (port 0 1 200 2 .paired (some 0)).names (portFarId l) (portFarPort l) ∧
      roomFor (linkedWith run l) (rePointed (linkedWith run l) l 0 0 (port 0 1 200 2 .paired (some 0))) = true) ∧
    (let l := portReport 100 1 300 3 1
     let s := linkedWith run l
     let u := withNodes s (s.topology.nodes ++ [(2, node 300)]) (s.topology.ports ++ [(2, port 2 3 100 1 .contradicted none)]) s.topology.links
     TableLaw u ∧ targetOf u (reportedPort l 0 1 .unanswered none) = some (2, port 2 3 100 1 .contradicted none) ∧
      claims u (port 2 3 100 1 .contradicted none) (reportedPort l 0 1 .unanswered none) = true ∧
      roomFor u (rePointed u l 0 0 (port 0 1 200 2 .paired (some 0))) = true) ∧
    (let l := portReport 100 1 999 2 1
     let p := port 0 1 200 2 .waiting none
     let s := withNodes (linkedWith run l) [(0, node 100), (1, node 200)] [(0, p), (1, port 1 2 100 1 .waiting none)] []
     findPort s 0 (recByte8 l) = some (0, p) ∧ targetOf s p = some (1, port 1 2 100 1 .waiting none) ∧
      roomFor s (rePointed s l 0 0 p) = true) := by
  refine ⟨⟨tableLaw_of ?_, ⟨?_, ?_, ?_, ?_⟩, ?_, ?_, ?_, ⟨?_, ?_⟩, ?_⟩, ⟨fun h => absurd h.1 ?_, ?_⟩, ⟨tableLaw_of ?_, ?_⟩, ?_⟩ <;>
    decide +kernel

/-- A batch of two members: a DOMAIN_REFRESH, and a NODE_REPORT of an absent profile. -/
def missing : QueuedRecord := { record := report 1 9 [(8, 1, 7)], offset := 4, role := .member }
def closing : QueuedRecord := { record := report 7 9 [], offset := 5, role := .closing }
def twoMembers : State := queued (granted (enabled (joined run)) .intake) (marker :: ([member, loose, missing] ++ closing :: [loose]))

theorem test_witness_BatchApplied :
    (Calm twoMembers (places twoMembers [.post (.recordFault .profileMissing missing.record 4), .ref .status]) ∧
      TopologyGranted twoMembers .intake ∧ marker.role = .opening ∧ closing.role = .closing ∧
      twoMembers.intake.queue = marker :: ([member, loose, missing] ++ closing :: [loose]) ∧
      (∀ x ∈ [member, loose, missing], x.role = .loose ∨ (x.role = .member ∧ (recKindCode x.record = 5 ∨
        (recKindCode x.record = 1 ∧ twoMembers.profiles.domains.get? (recByte8 x.record) = none)))) ∧
      membersOf [member, loose, missing] = [member, missing] ∧ ∀ x ∈ [member, loose, missing], x.role ≠ .closing) ∧
    (Calm twoMembers 1 ∧ twoMembers.intake.queue = marker :: member :: ([loose, missing] ++ closing :: [loose]) ∧
      ∃ u, exec .looseRecordApplication (withQueue twoMembers [{ record := member.record, offset := 1, role := .loose }]) = .next u ∧
        Calm u 0) := by
  refine ⟨⟨calm_of ?_, ⟨?_, ?_, ?_, ?_⟩, ?_⟩, calm_of ?_, ?_, _, rfl, calm_of ?_⟩ <;> decide +kernel

def oldPort : PortEntry := { port 0 1 200 2 .unanswered none with refresh := 5000000 }

/-- A due node without ports and one with a linked port; a due port in no link, which node 200's port claims, and one in a link. -/
theorem test_witness_ExpiryResult :
    (let s := enabled (granted ageing .expiry)
     TableLaw s ∧ TopologyGranted s .expiry ∧ s.topology.nodes = [(0, node 100)] ++ (1, oldNode) :: [] ∧
      nodeDue s s.arbiter.grantTime (node 100) = false ∧ nodeDue s s.arbiter.grantTime oldNode = true ∧
      roomFor s (nodeRemoved s .aged 1) = true) ∧
    (let s := enabled (granted (withNodes (joined run) [(0, node 100), (1, oldNode)] (joined run).topology.ports
        (joined run).topology.links) .expiry)
     TableLaw s ∧ nodeDue s s.arbiter.grantTime oldNode = true ∧ portsOf s 1 = [1] ∧ roomFor s (nodeRemoved s .aged 1) = true) ∧
    (let s := enabled (granted (withNodes run [(0, node 100), (1, node 200)] [(7, oldPort), (8, port 1 2 100 1 .contradicted none)] []) .expiry)
     (∀ x ∈ s.topology.nodes, nodeDue s s.arbiter.grantTime x.2 = false) ∧
      s.topology.ports = [] ++ (7, oldPort) :: [(8, port 1 2 100 1 .contradicted none)] ∧
      portDue s s.arbiter.grantTime oldPort = true ∧ roomFor s (portRemoved s .aged 7) = true) ∧
    (let linked : PortEntry := { port 1 2 100 1 .paired (some 0) with refresh := 5000000 }
     let s := enabled (granted (withNodes (joined run) [(0, node 100), (1, node 200)] [(0, port 0 1 200 2 .paired (some 0)), (1, linked)]
        (joined run).topology.links) .expiry)
     TableLaw s ∧ (∀ x ∈ s.topology.nodes, nodeDue s s.arbiter.grantTime x.2 = false) ∧
      portDue s s.arbiter.grantTime (port 0 1 200 2 .paired (some 0)) = false ∧ portDue s s.arbiter.grantTime linked = true ∧
      roomFor s (portRemoved s .aged 1) = true) ∧
    (let s := enabled (granted (joined run) .expiry)
     (∀ x ∈ s.topology.nodes, nodeDue s s.arbiter.grantTime x.2 = false) ∧
      (∀ x ∈ s.topology.ports, portDue s s.arbiter.grantTime x.2 = false) ∧ roomFor s (.none s) = true) := by
  refine ⟨⟨tableLaw_of ?_, ⟨?_, ?_, ?_, ?_⟩, ?_⟩, ⟨tableLaw_of ?_, ?_⟩, ?_, ⟨tableLaw_of ?_, ?_⟩, ?_⟩ <;> decide +kernel

/-- A WAITING pair whose far end is up or DOWN, and the release of the one link ID. -/
def waitingPair (up : Bool) : State :=
  let far := port 1 2 100 1 .waiting none
  enabled (granted (withNodes run [(0, node 100), (1, node 200)]
    [(0, port 0 1 200 2 .waiting none), (1, { far with reported := { far.reported with up } })] [(0, linkOf .retiring true)]) (.release 0))

/-- The link ID has been freed. -/
def freedLink (s : State) : Effect :=
  { state := { s with topology := { s.topology with links := s.topology.links.erase 0 } }, said := [.ref (.link 0), .ref .status] }

theorem test_witness_LinkIdReleased :
    (let s := enabled releasing
     TableLaw s ∧ TopologyGranted s (.release 0) ∧ (∀ x ∈ s.topology.ports, x.2.pairing ≠ .waiting) ∧ roomFor s (freedLink s) = true) ∧
    ∀ up : Bool, let s := waitingPair up
      TableLaw s ∧ TopologyGranted s (.release 0) ∧ (∃ q, s.topology.ports = [] ++ (0, port 0 1 200 2 .waiting none) :: [(1, q)] ∧
        targetOf s (port 0 1 200 2 .waiting none) = some (1, q) ∧ q.pairing = .waiting ∧ q.reported.up = up ∧
        roomFor s ((freedLink s).andThen (fun u =>
          portsPaired u 0 0 (port 0 1 200 2 .waiting none) 1 q (some .waiting) none .linkFreed)) = true) := by
  refine ⟨⟨tableLaw_of ?_, ⟨?_, ?_, ?_, ?_⟩, ?_⟩, fun up => ?_⟩
  case refine_7 => cases up <;> refine ⟨tableLaw_of ?_, ⟨?_, ?_, ?_, ?_⟩, _, rfl, ?_⟩ <;> decide +kernel
  all_goals decide +kernel

theorem test_witness_ArbiterRules : ArbiterFree run ∧ (pathHeld run (requestOp 0 .waiting)).arbiter.holder = some .path ∧
    (granted run .intake).arbiter.holder = some .topology ∧ (granted run .intake).arbiter.waitPath = false ∧
    ({ run.arbiter with waitTopology := true, waitPath := true, last := some .path } : Arbiter).last = some .path :=
  ⟨⟨rfl, rfl, rfl⟩, rfl, rfl, rfl, rfl⟩

theorem test_witness_RequestTaken :
    (let s := arriving (enabled run) (request 1 [])
     Calm s 2 ∧ s.paths.handed = { slot := 2, record := request 1 [] } :: [] ∧ s.paths.taking = false ∧ restarting s = false ∧
      reqKindCode (request 1 []) ≠ 0 ∧ s.paths.pendingSlots.get? 2 = none) ∧
    reqKindCode (request 0 []) = 0 ∧
    (let s := arriving (asked (enabled run) (request 1 [])) (request 1 [])
     Calm s 2 ∧ s.paths.pendingSlots.get? 2 ≠ none) := by
  refine ⟨⟨calm_of ?_, ?_⟩, ?_, calm_of ?_, ?_⟩ <;> decide +kernel

def served4 (r : Line) : State := { asked (withPath (joined run) 3 intactPath) r with paths :=
  { (asked (withPath (joined run) 3 intactPath) r).paths with runCount := 4 } }
def onBackup : PathEntry := path .onBackup .hold (some { route, struck := 0 }) (some { route := { route with links := [1] }, struck := 0 })

/-- A restoration, an empty part, and a request of every outcome of R145 and R148. -/
theorem test_witness_SelectionResult :
    (Calm (enabled restoring) 6 ∧ MaySelect restoring ∧ ArbiterFree restoring ∧ restoring.paths.restoration = 3 :: [] ∧ restoring.paths.queue = []) ∧
    (run.paths.restoration = [] ∧ run.paths.queue = []) ∧
    (Calm (enabled (served4 (request 1 []))) 6 ∧ MaySelect (served4 (request 1 [])) ∧ (served4 (request 1 [])).paths.restoration = []) ∧
    (requestValid (request 1 [(1, 1, 4)]) = false ∧ reqKind (request 2 []) = some .setup ∧ reqKind (request 3 []) = some .release ∧
      namedPath (served4 0) (request 3 [(30, 2, 512)]) = none ∧ reqKind (request 4 []) = some .resume ∧
      (namedPath (served4 0) (request 4 [(30, 2, 3)])).map (·.2.state) = some .active ∧
      namedPath (withPath run 3 onBackup) (request 4 [(30, 2, 3)]) = some (3, onBackup) ∧
      namedPath (served4 0) (request 3 [(30, 2, 3)]) = some (3, intactPath)) := by
  refine ⟨⟨calm_of ?_, ⟨?_, ?_, ?_, ?_⟩, ⟨?_, ?_, ?_⟩, ?_⟩, ?_, ⟨calm_of ?_, ⟨?_, ?_, ?_, ?_⟩, ?_⟩, ?_⟩ <;> decide +kernel

def restorationOp (ph : ItemPhase) : Operation := { item := .restoration 3, phase := ph, runBefore := 0 }

theorem pathGranted_of {s : State} {o : Operation}
    (h : s.paths.slot = some o ∧ o.phase = .waiting ∧ s.arbiter.holder = some .path ∧ s.arbiter.waitTopology = false ∧
      s.arbiter.waitPath = false) : PathGranted s o := ⟨h.1, h.2.1, h.2.2.1, h.2.2.2⟩

theorem test_witness_GrantTakenUp :
    (let s := pathHeld restoring (restorationOp .waiting)
     Calm s 2 ∧ PathGranted s (restorationOp .waiting) ∧ s.paths.strikes = [] ∧
      s.paths.entries.get? 3 = some (struckPath .restoring .reroute) ∧ (struckBy s .up).paths.strikes ≠ []) ∧
    (let s := pathHeld (withPath run 3 intactPath) (restorationOp .waiting)
     PathGranted s (restorationOp .waiting) ∧ s.paths.entries.get? 3 = some intactPath ∧ intactPath.state ≠ .restoring) ∧
    (PathGranted probing (requestOp (request 1 []) .waiting) ∧ reqKind (request 1 []) = some .probe) ∧
    (reqKind (request 5 [(30, 2, 3)]) = some .reroute ∧ namedPath (withPath run 3 intactPath) (request 5 [(30, 2, 3)]) = some (3, intactPath) ∧
      namedPath run (request 5 [(30, 2, 3)]) = none ∧ reqExclNodes (request 5 [(40, 4, 100)]) = [100, 0, 0, 0] ∧
      intactPath.srcId = 100) := by
  refine ⟨⟨calm_of ?_, pathGranted_of ?_, ?_⟩, ⟨pathGranted_of ?_, ?_⟩, ⟨pathGranted_of ?_, ?_⟩, ?_⟩ <;> decide +kernel

theorem computing_of {s : State} {o : Operation} {i : Inputs}
    (h : s.paths.slot = some o ∧ o.phase = .computing ∧ s.engine.inputs = some i ∧ s.arbiter.holder = some .path ∧
      s.arbiter.waitTopology = false ∧ s.arbiter.waitPath = false) : Computing s o i :=
  ⟨h.1, h.2.1, h.2.2.1, h.2.2.2.1, h.2.2.2.2⟩

theorem test_witness_ComputationEnded :
    (let i := requestInputs (request 2 [])
     let s := computing (enabled (joined run)) (requestOp (request 2 []) .computing) i
     Calm s 6 ∧ Computing s (requestOp (request 2 []) .computing) i ∧
      (compute s i s.engine).2.primary = some { route with start := 0 } ∧ (0 < 512 ∧ s.paths.entries.get? 0 = none)) ∧
    ((compute run (requestInputs (request 2 [])) Engine.idle).2.primary = none) ∧
    (let i := rerouteInputs (request 5 [(30, 2, 3)]) (struckPath .held .hold)
     let s := computing (withPath (joined run) 3 (struckPath .held .hold)) (requestOp (request 5 [(30, 2, 3)]) .computing) i
     Computing s (requestOp (request 5 [(30, 2, 3)]) .computing) i ∧ (compute s i s.engine).2.primary.isSome = true ∧
      namedPath s (request 5 [(30, 2, 3)]) = some (3, struckPath .held .hold)) ∧
    (let i := restorationInputs (struckPath .restoring .reroute)
     let s := computing restoring (restorationOp .computing) i
     Computing s (restorationOp .computing) i ∧ (compute s i s.engine).2.primary.isSome = true ∧
      s.paths.entries.get? 3 = some (struckPath .restoring .reroute) ∧ (compute run i s.engine).2.primary = none) := by
  refine ⟨⟨calm_of ?_, computing_of ?_, ?_⟩, ?_, ⟨computing_of ?_, ?_⟩, computing_of ?_, ?_⟩ <;> decide +kernel

/-- The part of `joined` has one link, 0, from node 100 to node 200; a search on one slot, and one with that slot reserved. -/
def oneSlot : Inputs := { requestInputs (request 1 []) with mask := slotRange 4 1 }
def oneQuery (i : Inputs) : Query := classQuery (joined run) i 0 1 0

theorem chosen_only {s : State} {q : Query} {r : Route} (x : Nat) (hx : x < 80) (ha : StartAllowed q x) (hr : routeAt s q x = some r)
    (hu : ∀ y < 80, y ≠ x → slotsIn (slotRange y q.width) q.inputs.mask = false) : ChosenRoute s q r :=
  ⟨x, hx, ha, hr, fun y hy hb hn => by have := hb.2.2; rw [hu y hy hn] at this; cases this⟩

theorem noRoute_only {s : State} {q : Query} (x : Nat) (hr : routeAt s q x = none)
    (hu : ∀ y < 80, y ≠ x → slotsIn (slotRange y q.width) q.inputs.mask = false) : NoRoute s q := fun y hy hb => by
  by_cases hn : y = x
  · rw [hn]; exact hr
  · have := hb.2.2
    rw [hu y hy hn] at this
    cases this

/-- The part of `joined` with a second link between its nodes, of another SRLG. -/
def twinned : State :=
  let s := joined run
  withNodes s s.topology.nodes (s.topology.ports ++ [(2, port 0 3 200 4 .paired (some 1)), (3, port 1 4 100 3 .paired (some 1))])
    (s.topology.links ++ [(1, { linkOf .up false with
      endA := { port := some 2, netId := 100, number := 3 }, endB := { port := some 3, netId := 200, number := 4 }
      attrs := { attrs with srlgs := [6] } })])

/-- The query of the backup of the route on slot 4 over link 0. -/
def backupQuery (s : State) : Query :=
  ({ classQuery s oneSlot 0 1 0 with taken := some { route with start := 4 } } : Query).diverse s (some { route with start := 4 })

/-- The part of `joined` whose domain has no class. -/
def classless : State := { joined run with profiles := { run.profiles with domains := [(0, { plainProfile with classes := 0 })] } }

/-- The ends unknown, the same and served or not by the class; a route on the one slot allowed, and none; a backup, and none; and with AUTO
a class that succeeds, NO_BACKUP, NO_PATH, and no class served. -/
theorem test_witness_ComputationEnded_outcomes :
    (findNode (joined run) 999 = none ∧ findNode (joined run) oneSlot.srcId = some (0, node 100) ∧
      findNode (joined run) oneSlot.dstId = some (1, node 200) ∧ oneSlot.cls = some 0 ∧ (requestInputs (request 1 [(1, 1, 15)])).cls = none) ∧
    (domainHasClass (joined run) (nodeDomain (joined run) 0) 0 = true ∧ domainHasClass worked (nodeDomain worked 2) 3 = false) ∧
    ChosenRoute (joined run) ((oneQuery oneSlot).diverse (joined run) none) { route with start := 4 } ∧
    NoRoute (joined run) ((oneQuery oneSlot).diverse (joined run) (some route)) ∧
    ChosenRoute twinned (backupQuery twinned) { route with start := 4, links := [1] } ∧ NoRoute (joined run) (backupQuery (joined run)) ∧
    (let auto : Inputs := { oneSlot with cls := none }
     (compute (joined run) { auto with cls := some 2 } Engine.idle).2.outcome = .ok ∧
      (compute (joined run) { auto with cls := some 3 } Engine.idle).2.outcome = .noPath ∧
      (compute (joined run) { auto with cls := some 3, pair := true, requireBackup := true, mask := slotRange 4 2 } Engine.idle).2.outcome =
        .noBackup ∧
      ∀ k ≤ 3, (compute classless { auto with cls := some k } Engine.idle).2.outcome = .classUnsupported) := by
  refine ⟨?_, ?_, chosen_only 4 (by omega) ⟨?_, ?_, ?_⟩ ?_ ?_, noRoute_only 4 ?_ ?_, chosen_only 4 (by omega) ⟨?_, ?_, ?_⟩ ?_ ?_,
    noRoute_only 4 ?_ ?_, ?_⟩ <;> decide +kernel

theorem strikeNext_of {s : State} {kind : StrikeKind}
    (h : s.paths.strikes = [{ kind, link := 0 }] ∧ grantTakenUp s = false ∧ restarting s = false) : StrikeNext s kind 0 [] :=
  ⟨h.1, h.2.1, h.2.2⟩

/-- Paths 3 and 5 have a route through link 0, with every class enabled and an event at the head. -/
def twoPaths (e x : PathEntry) (view : List Nat) (kind : StrikeKind) : State :=
  let s := struckBy (withPath (enabled run) 3 e) kind
  { s with paths := { s.paths with entries := [(3, e), (5, x)], view } }

theorem test_witness_StrikeEventsProcessed :
    (0 ∈ route.links ∧ intactPath.primary = some { route, struck := 0 } ∧
      (1 ∈ ({ route with links := [1] } : Route).links ∧ onBackup.backup = some { route := { route with links := [1] }, struck := 0 } ∧
        ∀ g, onBackup.primary = some g → 1 ∉ g.route.links)) ∧
    (let s := twoPaths intactPath onBackup [] .down
     TableLaw s ∧ StrikeNext s .down 0 [] ∧ 0 ∉ s.paths.view ∧
      roomFor s (pathsMoved (struckView s [] (insertNat 0 s.paths.view)) 0 (downChange · 0) .linkDown) = true) ∧
    (Calm (twoPaths intactPath onBackup [0] .down) 0 ∧ 0 ∈ (twoPaths intactPath onBackup [0] .down).paths.view) ∧
    (let s := twoPaths (struckPath .held .hold) (struckPath .restoring .reroute) [0] .up
     StrikeNext s .up 0 [] ∧ 0 ∈ s.paths.view ∧
      roomFor s (pathsMoved (struckView s [] (removeNat 0 s.paths.view)) 0 (upChange · 0) .linkUp) = true) ∧
    (Calm (twoPaths intactPath onBackup [] .up) 0 ∧ 0 ∉ (twoPaths intactPath onBackup [] .up).paths.view) ∧
    (let s := twoPaths intactPath onBackup [] .retire
     StrikeNext s .retire 0 [] ∧ (pathsMoved (struckView s [] s.paths.view) 0 (retireChange · 0) .linkRetired).said.length = 4 ∧
      roomFor s (pathsMoved (struckView s [] s.paths.view) 0 (retireChange · 0) .linkRetired) = true) := by
  refine ⟨⟨?_, ?_, ?_, ?_, fun g h => by cases h; decide⟩, ⟨tableLaw_of ?_, strikeNext_of ?_, ?_⟩, ⟨calm_of ?_, ?_⟩,
    ⟨strikeNext_of ?_, ?_⟩, ⟨calm_of ?_, ?_⟩, strikeNext_of ?_, ?_⟩ <;> decide +kernel

/-- An entry in each state, with and without a backup, struck and intact, under each restore mode. -/
theorem test_witness_PathMoves :
    (struckPath .held .hold).restore = .hold ∧ (struckPath .restoring .reroute).restore = .reroute ∧
      (path .active .release none none).restore = .release ∧ (path .active .release none none).primary.isSome = false ∧
      onBackup.state = .onBackup ∧ onBackup.primary.map (·.struck) = some 0 ∧ intactPath.state = .active ∧ intactPath.backup = none ∧
      onBackup.backup = some { route := { route with links := [1] }, struck := 0 } ∧
      (path .exposed .hold none none).state = .exposed := by decide +kernel
theorem test_witness_ReservationsAndGenerations : (withPath run 3 intactPath).paths.entries.get? 3 = some intactPath ∧ 4 ≠ 3 ∧
    (0 ∈ route.links ∧ 1 ∉ route.links) := by decide +kernel
theorem usable_of {s : State} {q : Query} {start k : Nat} (l : LinkEntry) (a b : Nat)
    (h : (s.topology.links.get? k = some l ∧ linkNodes s l = some (a, b) ∧ l.state = .up ∧ l.attrs.nu < 65535 ∧ k ∉ q.noLinks ∧
      a ∉ q.noNodes ∧ b ∉ q.noNodes ∧ slotsIn (slotRange start q.width) q.inputs.mask = true ∧
      slotRange start q.width &&& l.attrs.foreign = 0 ∧ slotRange start q.width &&& reservedFor s q k = 0) ∧
      ∀ n ∈ [a, b], slotsIn (slotRange start q.width) (domainProfile s (nodeDomain s n)).slots = true ∧
        domainHasClass s (nodeDomain s n) q.cls = true ∧ (domainProfile s (nodeDomain s n)).transit = true) : Usable s q start k :=
  have takes := fun n hn => (⟨(h.2 n hn).1, (h.2 n hn).2.1, .inl (h.2 n hn).2.2⟩ : DomainTakes s q (slotRange start q.width) n)
  ⟨l, a, b, h.1.1, h.1.2.1, h.1.2.2.1, h.1.2.2.2.1, h.1.2.2.2.2.1, h.1.2.2.2.2.2.1, h.1.2.2.2.2.2.2.1, h.1.2.2.2.2.2.2.2.1,
    h.1.2.2.2.2.2.2.2.2.1, h.1.2.2.2.2.2.2.2.2.2, takes a (by simp), takes b (by simp)⟩

theorem test_witness_ComputedRoutesAreFeasible :
    (TableLaw worked ∧ workedInputs.hops ≤ 20 ∧ (compute worked workedInputs Engine.idle).2.primary.isSome = true ∧
      (compute worked { workedInputs with pair := true, cls := some 0, srcId := 0xA01, dstId := 0xB01, mask := slotRange 9 1 }
        Engine.idle).2.backup.isSome = true ∧
      (compute worked { workedInputs with cls := some 0, dstId := 0xB01, reference := some { route with links := [2] } }
        Engine.idle).2.primary.map (·.links) = some [0, 1]) ∧
    (TableLaw (joined run) ∧ (∀ x ∈ (joined run).topology.ports, x.2.node < 256) ∧ (oneQuery oneSlot).src ≠ (oneQuery oneSlot).dst ∧
      (oneQuery oneSlot).budget < 65535 ∧ IsRoute (joined run) (oneQuery oneSlot) 4 [0] [0, 1] ∧
      rejectsLabel (joined run) (oneQuery oneSlot) 4 false = false ∧ rejectsHops (joined run) (oneQuery oneSlot) 4 true = false ∧
      walkedNoise (joined run) 0 0 [0] [0, 1] ≤ (oneQuery oneSlot).budget) ∧
    (nextExtracted false [(2, Label.origin), (3, { Label.origin with hops := 1 })] = some (2, Label.origin)) ∧
    (let e : Edge := { link := 0, a := 0, b := 1, cost := 3, nu := 100 }
     (e.a = 0 ∧ e.b = 1) ∧ e.a ≠ e.b ∧ ((joined run).topology.links.get? e.link).map (·.attrs.nu) = some e.nu ∧
      walkedNoise (joined run) 0 0 [0] [0, 1] = 100 ∧ predNode [e] 1 { Label.origin with pred := some 0 } = some 0) := by
  have hu : Usable (joined run) (oneQuery oneSlot) 4 0 := usable_of (linkOf .up false) 0 1 (by decide +kernel)
  refine ⟨⟨tableLaw_of ?_, ?_⟩, ⟨tableLaw_of ?_, ?_, ?_, ?_, ⟨?_, ?_, ?_, ⟨⟨linkOf .up false, ?_, .inl ?_⟩, trivial⟩,
    fun k hk => List.mem_singleton.1 hk ▸ hu, ?_⟩, ?_⟩, ?_, ?_⟩ <;> decide +kernel
theorem test_witness_ProfileArithmetic : profile1.shift = 0 ∧ 0 < profile0.shift ∧
    profileOk (rec [(0, 1, 79), (1, 1, 1), (2, 1, 1), (4, 2, 1)]) = true := by decide +kernel
theorem test_witness_LinesShowTheirFields :
    (let s := withPath (joined run) 3 onBackup
     (s.topology.nodes.get? 1 = some (node 200) ∧ (node 200).Fits ∧ s.topology.nodes.get? 2 = none) ∧
      (s.topology.ports.get? 0 = some (port 0 1 200 2 .paired (some 0)) ∧ (port 0 1 200 2 .paired (some 0)).Fits) ∧
      (s.topology.links.get? 0 = some (linkOf .up false) ∧ (linkOf .up false).Fits) ∧
      (s.paths.entries.get? 3 = some onBackup ∧ onBackup.Fits) ∧
      (s.topology.ports.length < 65536 ∧ s.paths.queue.length < 256 ∧ ∀ t, s.intake.batch ≠ .opened t) ∧
      (255 < 256 ∧ 2047 < 2048 ∧ 1023 < 1024 ∧ 511 < 512 ∧ (noticeRecord s 3).count < 65536)) ∧ route.Fits := by
  have hr : route.Fits ∧ ({ route with links := [1] } : Route).Fits := by unfold Route.Fits; decide
  have hn : (node 200).Fits := by unfold NodeEntry.Fits; decide
  have hp : (port 0 1 200 2 .paired (some 0)).Fits := by
    refine ⟨?_, ?_, ?_, ?_, ?_, ?_, ?_, ?_⟩ <;> decide
  have hl : (linkOf .up false).Fits := by
    refine ⟨?_, ?_, ?_, ?_, ?_, ?_⟩ <;> first | decide | (rintro j (h | h) <;> cases h <;> decide)
  have hb : onBackup.Fits := by
    refine ⟨by decide, by decide, by decide, ?_⟩
    rintro h (k | k) <;> cases k
    exacts [⟨hr.1, by decide⟩, ⟨hr.2, by decide⟩]
  refine ⟨⟨⟨?_, hn, ?_⟩, ⟨?_, hp⟩, ⟨?_, hl⟩, ⟨?_, hb⟩, ⟨?_, ?_, nofun⟩, ?_⟩, hr.1⟩ <;> decide +kernel

end Sys2Proof.Tests
end

/-!
PROOFS. The write-back queue's law and quiescence, kept by every step (O6, O10).
-/

namespace Sys2Proof.Machine

/-! ### The write-back queue under the steps of operations (R16, R17) -/

/-- The state in which the answer of a step leaves the part. -/
def OpResult.state : OpResult → State
  | .done s _ => s
  | .wait s => s

@[simp] theorem OpResult.state_done (s : State) (push : List Op) : (OpResult.done s push).state = s := rfl
@[simp] theorem OpResult.state_wait (s : State) : (OpResult.wait s).state = s := rfl

/-- The part of `QueueLaw` that speaks of the queue alone. -/
def QueueSound (s : State) : Prop :=
  s.writeBack.queue.length ≤ Config.writeBackItems ∧ (queuedRefs s.writeBack.queue).Nodup

theorem queueLaw_iff_queueSound {s : State} (h : s.inReset = false) : QueueLaw s ↔ QueueSound s := by
  simp [QueueLaw, QueueSound, h]

theorem QueueSound.of_queue_eq {s t : State} (h : QueueSound s) (e : t.writeBack.queue = s.writeBack.queue) : QueueSound t := by
  unfold QueueSound
  rwa [e]

theorem mem_queuedRefs {r : Ref} {q : List WbItem} : r ∈ queuedRefs q ↔ WbItem.ref r ∈ q := by
  simp only [queuedRefs, List.mem_filterMap]
  constructor
  · rintro ⟨x, hx, hr⟩
    cases x with
    | content => cases hr
    | ref r' => cases hr; exact hx
  · exact fun h => ⟨.ref r, h, rfl⟩

theorem refQueued_iff (s : State) (r : Ref) : refQueued s r = true ↔ WbItem.ref r ∈ s.writeBack.queue := by
  simp [refQueued]

/-- An item may join a queue that is not full, unless it is a reference that is queued already (R17). -/
theorem QueueSound.enqueue {s : State} {x : WbItem} (h : QueueSound s) (hroom : notFull s = true)
    (hnew : ∀ r, x = .ref r → refQueued s r = false) : QueueSound (Machine.enqueue s x) := by
  obtain ⟨-, hrefs⟩ := h
  have hlen : s.writeBack.queue.length < 64 := of_decide_eq_true hroom
  refine ⟨by simpa using hlen, ?_⟩
  cases x with
  | content target data m => simpa [queuedRefs] using hrefs
  | ref r =>
    have hr : r ∉ queuedRefs s.writeBack.queue := by
      rw [mem_queuedRefs, ← refQueued_iff]
      simp [hnew r rfl]
    have happ : queuedRefs (s.writeBack.queue ++ [.ref r]) = queuedRefs s.writeBack.queue ++ [r] := by simp [queuedRefs]
    rw [enqueue_writeBack, happ, List.nodup_append]
    exact ⟨hrefs, List.nodup_singleton r, fun a ha b hb => by rintro rfl; exact hr (List.mem_singleton.1 hb ▸ ha)⟩

theorem notFull_of_placeFree {s : State} (h : placeFree s = true) : notFull s = true := by
  simp only [placeFree, notFull, decide_eq_true_eq] at h ⊢
  omega

theorem notFull_of_hasPlace {given : Bool} {s : State} (h : hasPlace given s = true) : notFull s = true := by
  cases given
  · exact notFull_of_placeFree h
  · exact h

theorem QueueSound.enqueueContent {s : State} {given : Bool} (h : QueueSound s) (hp : hasPlace given s = true) (target : Nat)
    (data : Line) (m : Option ResultMark) : QueueSound (Machine.enqueue s (.content target data m)) :=
  h.enqueue (notFull_of_hasPlace hp) nofun

theorem QueueSound.noteStatus {s : State} (h : QueueSound s) : QueueSound (Machine.noteStatus s) := by
  rcases noteStatus_cases s with ⟨-, e⟩ | ⟨hq, -, ⟨hp, e⟩ | ⟨-, e⟩⟩
  · rwa [e]
  · rw [e]
    refine h.enqueue (notFull_of_placeFree hp) ?_
    rintro r ⟨⟩
    rwa [← Bool.not_eq_true, refQueued_iff]
  · rw [e]
    exact h.of_queue_eq rfl

theorem QueueSound.imageWrite {s : State} (h : QueueSound s) : QueueSound (Machine.imageWrite s) := by
  rcases imageWrite_cases s with ⟨-, e⟩ | ⟨-, hp, e⟩ | ⟨-, -, e⟩
  · rwa [e]
  · rw [e]
    exact h.enqueueContent (given := false) hp _ _ _
  · rw [e]
    exact h.of_queue_eq rfl

theorem QueueSound.completeCommand {s : State} (h : QueueSound s) (o : CmdOutcome) : QueueSound (Machine.completeCommand s o) := by
  unfold Machine.completeCommand
  split
  · exact h
  · exact QueueSound.imageWrite (h.of_queue_eq rfl)

theorem QueueSound.restartDone {s : State} (h : QueueSound s) : QueueSound (Machine.restartDone s) := by
  unfold Machine.restartDone
  split
  · split
    · exact h.of_queue_eq rfl
    · exact h.completeCommand _
  · exact h

theorem queueSound_withTurn {s : State} (h : QueueSound s) (t : Thread) {f : State → OpResult}
    (hf : ∀ u, QueueSound u → QueueSound (f u).state) : QueueSound (withTurn t s f).state := by
  unfold withTurn
  split
  · exact hf _ (h.of_queue_eq rfl)
  · split
    · exact hf s h
    · exact h.of_queue_eq rfl

theorem queueSound_queueRef {s : State} (h : QueueSound s) (given : Bool) (t : Thread) (r : Ref) :
    QueueSound (queueRef given t r s).state := by
  rcases queueRef_cases given t r s with ⟨-, e⟩ | ⟨hi, hp, e⟩ | ⟨-, -, e⟩ <;> rw [e]
  · exact h
  · refine h.enqueue (notFull_of_hasPlace hp) ?_
    rintro r' ⟨⟩
    simp only [refIdle, Bool.or_eq_false_iff] at hi
    exact hi.2
  · exact h.of_queue_eq rfl

theorem queueSound_queueContent {s : State} (h : QueueSound s) (given : Bool) (t : Thread) (target : Nat) (data : Line)
    (m : Option ResultMark) : QueueSound (queueContent given t target data m s).state := by
  rcases queueContent_cases given t target data m s with ⟨hp, e⟩ | ⟨-, e⟩ <;> rw [e]
  · exact h.enqueueContent hp _ _ _
  · exact h.of_queue_eq rfl

theorem queueSound_postNotice {s : State} (h : QueueSound s) (t : Thread) (n : Notice) : QueueSound (postNotice t n s).state := by
  refine queueSound_withTurn h t fun u hu => ?_
  split
  · exact hu.of_queue_eq rfl
  · split
    · exact hu
    · split
      · exact hu.of_queue_eq rfl
      · exact (hu.of_queue_eq (t := setLost u) rfl).noteStatus.of_queue_eq rfl

theorem queueSound_writeRing {s : State} {given : Bool} (h : QueueSound s) (hp : hasPlace given s = true) (w : Windows) (data : Line) :
    QueueSound (writeRing s w data) :=
  (h.enqueueContent hp _ data none).of_queue_eq rfl

theorem queueSound_writeNotice {s : State} (h : QueueSound s) (given : Bool) (t : Thread) (n : Notice) :
    QueueSound (writeNotice given t n s).state := by
  unfold writeNotice
  split
  · exact h.of_queue_eq rfl
  · split
    · next hp => exact (queueSound_writeRing h hp _ _).noteStatus.of_queue_eq rfl
    · exact h.of_queue_eq rfl

theorem queueSound_writePathState {s : State} (h : QueueSound s) (given : Bool) (t : Thread) (p : Nat) (last : Bool) :
    QueueSound (writePathState given t p last s).state := by
  have hstop : ∀ u : State, QueueSound u → QueueSound (if last then endTurn u else u) := by
    intro u hu
    cases last
    · exact hu
    · exact hu.of_queue_eq rfl
  unfold writePathState
  dsimp only
  split
  · exact hstop s h
  · split
    · exact hstop s h
    · split
      · next hp => exact hstop _ ((queueSound_writeRing h hp _ _).noteStatus.of_queue_eq rfl)
      · exact h.of_queue_eq rfl

theorem queueSound_postPathState {s : State} (h : QueueSound s) (t : Thread) (p : Nat) (why : PathReason) :
    QueueSound (postPathState t p why s).state := by
  refine queueSound_withTurn h t fun u hu => hu.of_queue_eq ?_
  dsimp only
  repeat' split
  all_goals rfl

theorem queueSound_drainDeferred {s : State} (h : QueueSound s) (t : Thread) (p : Nat) :
    QueueSound (drainDeferred t p s).state := by
  refine queueSound_withTurn h t fun u hu => hu.of_queue_eq ?_
  repeat' split
  all_goals rfl

theorem queueSound_acknowledgePath {s : State} (h : QueueSound s) (t : Thread) (p : Nat) (gen : BitVec 16) :
    QueueSound (acknowledgePath t p gen s).state := by
  refine queueSound_withTurn h t fun u hu => hu.of_queue_eq ?_
  dsimp only
  repeat' split
  all_goals rfl

/-- The steps of the topology unit's operations leave the write-back queue to the steps that they add. -/
theorem applyRecord_writeBack (l : Line) (off : Nat) (s : State) : (applyRecord l off s).state.writeBack = s.writeBack := by
  unfold applyRecord
  split
  · unfold applyNodeReport updateNode recordFault
    repeat' split
    all_goals rfl
  · unfold applyPortReport updatePort recordFault
    repeat' split
    all_goals rfl
  · unfold applyPortWithdraw
    repeat' split
    all_goals rfl
  · unfold applyNodeWithdraw
    repeat' split
    all_goals rfl
  all_goals rfl

theorem retireLink_writeBack (k : Nat) (why : TopoReason) (s : State) : (retireLink k why s).state.writeBack = s.writeBack := by
  unfold retireLink
  split
  · rfl
  · exact (((sameFrame_leaveLink s _).trans (sameFrame_leaveLink _ _)).trans (sameFrame_setLink _ _ _)).writeBack

theorem changePath_writeBack (s : State) (p : Nat) (x : PathEntry × List Route) (why : PathReason) (next : Op) :
    (changePath s p x why next).state.writeBack = s.writeBack :=
  ((sameFrame_unreserveAll s _).trans (sameFrame_storePath _ _ _)).writeBack

theorem finishRetire_writeBack (k : Nat) (s : State) : (finishRetire k s).state.writeBack = s.writeBack :=
  (((sameFrame_setReserved s k 0).trans (sameFrame_setFlag _ k false)).trans (sameFrame_setAnswered _ k)).writeBack

/-- No step of an operation breaks the write-back queue's law. -/
theorem QueueSound.runOp {s : State} (h : QueueSound s) (given : Bool) (t : Thread) (op : Op) :
    QueueSound (Machine.runOp given t op s).state := by
  have same : ∀ {r : OpResult}, r.state.writeBack = s.writeBack → QueueSound r.state :=
    fun e => h.of_queue_eq (congrArg WriteBack.queue e)
  cases op with
  | ref r => exact queueSound_queueRef h given t r
  | post n => exact queueSound_postNotice h t n
  | notice n => exact queueSound_writeNotice h given t n
  | postPath p why => exact queueSound_postPathState h t p why
  | writePath p last => exact queueSound_writePathState h given t p last
  | drain p => exact queueSound_drainDeferred h t p
  | ackPath p gen => exact queueSound_acknowledgePath h t p gen
  | result m l => exact queueSound_queueContent h given t _ _ _
  | complete o => exact h.completeCommand o
  | restartDone => exact h.restartDone
  | unlock | requestFinish | operationEnd | restartTables | restartCounts => exact same rfl
  | applyRecord l off => exact same (applyRecord_writeBack l off s)
  | retireLink k why => exact same (retireLink_writeBack k why s)
  | topologyEnd => exact same (sameFrame_endTopology s).writeBack
  | pathGrantEnd => exact same (sameFrame_releaseGrant s).writeBack
  | retireDone k => exact same (finishRetire_writeBack k s)
  | downPaths k p | upPaths k p | retirePaths k p =>
    refine same ?_
    simp only [Machine.runOp, downPaths, upPaths, retirePaths]
    split
    · rfl
    · exact changePath_writeBack ..
  | takeFinish | openBatch | stopCheck | event =>
    refine same ?_
    simp only [Machine.runOp, finishTaking, openNested, stopBatch, sendEvent]
    repeat' split
    all_goals rfl
  | reconvertNodes | reconvertPorts | linkAttributes | linkState | portMove | repoint | evaluate | claimants | removePort
  | freePort | orphans | removePorts | freeNode | offer =>
    refine same ?_
    simp only [Machine.runOp, reconvertNodes, reconvertPorts, updateLinkAttributes, updateLinkState, movePort, repointPort,
      evaluatePort, recheckClaimants, removePort, freePort, orphanClaimants, removePorts, freeNode, offerLink]
    repeat' split
    all_goals rfl

theorem QueueSound.micro {s : State} (h : QueueSound s) (given : Bool) (t : Thread) : QueueSound (Machine.micro given t s) := by
  refine micro_keeps QueueSound (fun _ _ _ k => k) h ?_ ?_
  · intro op rest s' push _ hrun
    have := h.runOp given t op
    rwa [hrun] at this
  · intro op rest s' _ hrun
    have := h.runOp given t op
    rwa [hrun] at this

/-- Settling keeps the write-back queue's law. -/
theorem QueueSound.settleAll {s : State} (h : QueueSound s) : QueueSound (Machine.settleAll s) :=
  settleAll_induction QueueSound (fun _ t k _ => k.micro false t) s h

end Sys2Proof.Machine

namespace Sys2Proof.Machine

/-! ### What a command does to the write-back queue and to those that wait (R16 to R18, R104, R175) -/

/-- The state is the same in all that the write-back queue holds and in all that decides which thread goes on. -/
structure SameWaits (s t : State) : Prop where
  threads : t.threads = s.threads
  writeBack : t.writeBack = s.writeBack
  turn : t.notices.turn = s.notices.turn
  strikeWait : t.topology.strikeWait = s.topology.strikeWait
  inReset : t.inReset = s.inReset

theorem SameFrame.waits {s t : State} (h : SameFrame s t) : SameWaits s t :=
  ⟨h.threads, h.writeBack, h.turn, h.strikeWait, h.inReset⟩

theorem SameWaits.after {s t u : State} (k : SameWaits t u) (h : SameWaits s t) : SameWaits s u :=
  ⟨k.threads.trans h.threads, k.writeBack.trans h.writeBack, k.turn.trans h.turn, k.strikeWait.trans h.strikeWait,
   k.inReset.trans h.inReset⟩

/-- The ways in which commands reach from one state to another, as far as the write-back queue and quiescence go: an item is issued or
joins the queue, one who is no operation begins or ceases to wait for room, or the part is changed and then settles. -/
inductive Proceeds : State → State → Prop
  | quiet {s t : State} (h : SameWaits s t) : Proceeds s t
  | issued {s : State} (x : WbItem) (rest : List WbItem) (h : s.writeBack.queue = x :: rest) :
      Proceeds s { s with writeBack := { s.writeBack with queue := rest } }
  | queued {s : State} (x : WbItem) (hroom : notFull s = true) (hnew : ∀ r, x = .ref r → refQueued s r = false) :
      Proceeds s (enqueue s x)
  | awaited {s : State} (w : Waiter) (h : ∀ u, w ≠ .thread u) : Proceeds s (beginWait s w)
  | dropped {s : State} (w : Waiter) (rest : List Waiter) (h : s.writeBack.waiters = w :: rest) (hw : ∀ u, w ≠ .thread u) :
      Proceeds s (dropWaiter s)
  | settled {s t : State} (hqueue : t.writeBack.queue = s.writeBack.queue) (hpin : t.inReset = s.inReset) :
      Proceeds s (settleAll t)
  | resumed {s : State} (t : Thread) : Proceeds s (settleAll (micro true t (dropWaiter s)))
  | trans {s t u : State} (h : Proceeds s t) (k : Proceeds t u) : Proceeds s u

theorem Proceeds.refl (s : State) : Proceeds s s := .quiet ⟨rfl, rfl, rfl, rfl, rfl⟩

theorem Proceeds.after {s t u : State} (k : Proceeds t u) (h : SameWaits s t) : Proceeds s u := .trans (.quiet h) k

theorem SameFrame.proceeds {s t : State} (h : SameFrame s t) : Proceeds s t := .quiet h.waits

theorem Proceeds.inReset {s t : State} (h : Proceeds s t) : t.inReset = s.inReset := by
  induction h with
  | quiet h => exact h.inReset
  | issued | queued | awaited | dropped => rfl
  | settled _ hpin => exact (settleAll_pending _).2.trans hpin
  | resumed t => exact (settleAll_pending _).2.trans (micro_pending true t _).2
  | trans _ _ h k => exact k.trans h

theorem Proceeds.queueSound {s t : State} (h : Proceeds s t) (hs : QueueSound s) : QueueSound t := by
  induction h with
  | quiet h => exact hs.of_queue_eq (congrArg WriteBack.queue h.writeBack)
  | issued x rest h =>
    obtain ⟨hlen, hrefs⟩ := hs
    rw [h] at hlen hrefs
    refine ⟨(Nat.le_succ _).trans hlen, ?_⟩
    cases x with
    | content => exact hrefs
    | ref => exact (List.nodup_cons.1 hrefs).2
  | queued x hroom hnew => exact hs.enqueue hroom hnew
  | awaited | dropped => exact hs.of_queue_eq rfl
  | settled hqueue => exact (hs.of_queue_eq hqueue).settleAll
  | resumed t => exact ((hs.of_queue_eq (t := dropWaiter _) rfl).micro true t).settleAll
  | trans _ _ h k => exact k (h hs)

/-- Which threads can go on depends on the steps to come, on the operations that wait for room or for strikes, and on the turn. -/
theorem quiescent_congr {s t : State} (hs : quiescent s = true) (hthreads : t.threads = s.threads)
    (hwaiters : ∀ u, Waiter.thread u ∈ t.writeBack.waiters ↔ Waiter.thread u ∈ s.writeBack.waiters)
    (hturn : t.notices.turn = s.notices.turn) (hstrike : t.topology.strikeWait = s.topology.strikeWait) :
    quiescent t = true := by
  have hrun : canRun t = canRun s := by
    funext u
    have hcontains : t.writeBack.waiters.contains (.thread u) = s.writeBack.waiters.contains (.thread u) := by
      rw [Bool.eq_iff_iff]
      simpa using hwaiters u
    simp only [canRun, waitsForStrikes, waitsForTurn, hthreads, hcontains, hturn, hstrike]
  simpa only [quiescent, nextThread, hrun] using hs

theorem Proceeds.quiescent {s t : State} (h : Proceeds s t) (hs : quiescent s = true) : quiescent t = true := by
  induction h with
  | quiet h => exact quiescent_congr hs h.threads (fun u => by rw [h.writeBack]) h.turn h.strikeWait
  | issued | queued => exact quiescent_congr hs rfl (fun _ => Iff.rfl) rfl rfl
  | awaited w h =>
    refine quiescent_congr hs rfl (fun u => ?_) rfl rfl
    simp [(h u).symm]
  | dropped w rest h hw =>
    refine quiescent_congr hs rfl (fun u => ?_) rfl rfl
    simp [h, (hw u).symm]
  | settled | resumed => exact settleAll_quiescent _
  | trans _ _ h k => exact k (h hs)

/-! ### The shared operations -/

theorem proceeds_imageWrite (s : State) : Proceeds s (imageWrite s) := by
  rcases imageWrite_cases s with ⟨-, e⟩ | ⟨-, hp, e⟩ | ⟨-, -, e⟩ <;> rw [e]
  · exact .refl s
  · exact .queued _ (notFull_of_placeFree hp) nofun
  · exact .awaited _ nofun

theorem proceeds_finishRecord (s : State) (r : Line) (o : CmdOutcome) : Proceeds s (finishRecord s r o) :=
  .after (proceeds_imageWrite _) ⟨rfl, rfl, rfl, rfl, rfl⟩

theorem proceeds_completeCommand (s : State) (o : CmdOutcome) : Proceeds s (completeCommand s o) := by
  unfold completeCommand
  split
  · exact .refl s
  · exact proceeds_finishRecord _ _ _

theorem proceeds_refuseRecord (s : State) (r : Line) : Proceeds s (refuseRecord s r) :=
  .after (proceeds_imageWrite _) ⟨rfl, rfl, rfl, rfl, rfl⟩

theorem proceeds_judgeCommands (rs : List Line) (s : State) : Proceeds s (judgeCommands rs s) := by
  induction rs generalizing s with
  | nil => exact .quiet ⟨rfl, rfl, rfl, rfl, rfl⟩
  | cons r rs ih =>
    unfold judgeCommands
    split
    · exact ih s
    · split
      · exact (proceeds_refuseRecord s r).trans (ih _)
      · exact .quiet ⟨rfl, rfl, rfl, rfl, rfl⟩

/-- An operation is launched in a state whose queue is that of the command's beginning. -/
theorem proceeds_launch {s u : State} {t : Thread} {ops : List Op} (h : SameWaits s u) : Proceeds s (launch u t ops) :=
  .settled (congrArg WriteBack.queue h.writeBack) h.inReset

theorem sameWaits_requestTopology (s : State) : SameWaits s (requestTopology s) := by
  unfold requestTopology
  split
  · exact (SameFrame.refl s).waits
  · split
    · exact (SameFrame.refl s).waits
    · exact (sameFrame_requestGrant _ _).waits.after ⟨rfl, rfl, rfl, rfl, rfl⟩

theorem proceeds_requestTopology (s : State) : Proceeds s (requestTopology s) := .quiet (sameWaits_requestTopology s)

/-! ### The ports and the write-back queue -/

theorem proceeds_handOver (s : State) (w : LineWrite) (c : LineClass) : Proceeds s (handOver s w c) := by
  cases c with
  | anchorCommand => exact proceeds_judgeCommands _ s
  | anchorAcknowledgement | intakeRecord | requestLine | anchorAnswer | resultLine | exportLine | noticeLine | ordinary =>
    exact .quiet ⟨rfl, rfl, rfl, rfl, rfl⟩

theorem proceeds_decodeWrite (s : State) (w : LineWrite) (c : LineClass) : Proceeds s (decodeWrite s w c) := by
  unfold decodeWrite
  split
  · exact proceeds_handOver s w c
  · split
    · exact .settled rfl rfl
    · exact .refl s

theorem proceeds_acceptHead (s : State) : Proceeds s (acceptHead s) := by
  unfold acceptHead
  split
  · exact .refl s
  · split
    · exact .refl s
    · exact (proceeds_decodeWrite _ _ _).after ⟨rfl, rfl, rfl, rfl, rfl⟩

theorem proceeds_acceptRead (s : State) (a : Addr) (tag : Nat) : Proceeds s (acceptRead s a tag) := by
  unfold acceptRead
  repeat' split
  all_goals exact .quiet ⟨rfl, rfl, rfl, rfl, rfl⟩

theorem proceeds_returnResponse (s : State) (tag : Nat) (answer : ReadData) : Proceeds s (returnResponse s tag answer) := by
  unfold returnResponse
  split <;> exact .quiet ⟨rfl, rfl, rfl, rfl, rfl⟩

theorem proceeds_releaseDue (s : State) (entry : Nat) : Proceeds s (releaseDue s entry) := by
  unfold releaseDue
  repeat' split
  all_goals exact .quiet ⟨rfl, rfl, rfl, rfl, rfl⟩

theorem sameWaits_resultIssued (s : State) (m : ResultMark) : SameWaits s (resultIssued s m) := by
  unfold resultIssued
  simp only [forwardHolds_eq]
  repeat' split
  all_goals exact ⟨rfl, rfl, rfl, rfl, rfl⟩

theorem sameWaits_issueItem (s : State) (x : WbItem) : SameWaits s (issueItem s x) := by
  unfold issueItem
  split
  · exact ⟨rfl, rfl, rfl, rfl, rfl⟩
  · dsimp only
    split
    · exact (sameWaits_resultIssued _ _).after ⟨rfl, rfl, rfl, rfl, rfl⟩
    · exact ⟨rfl, rfl, rfl, rfl, rfl⟩

theorem proceeds_issueOldest (s : State) : Proceeds s (issueOldest s) := by
  unfold issueOldest
  split
  · exact .refl s
  · next x rest h => exact (Proceeds.issued x rest h).trans (.quiet (sameWaits_issueItem _ x))

theorem proceeds_giveRoom (s : State) : Proceeds s (giveRoom s) := by
  unfold giveRoom
  split
  · split
    · exact .resumed _
    · exact .refl s
  · next rest h =>
    split
    · next hroom =>
      have hdrop : Proceeds s (dropWaiter s) := .dropped _ rest h nofun
      split
      · exact hdrop
      · next hq => exact hdrop.trans (.queued _ hroom (by rintro r ⟨⟩; exact Bool.eq_false_of_not_eq_true hq))
    · exact .refl s
  · exact .refl s

theorem proceeds_giveResponseRoom (s : State) : Proceeds s (giveResponseRoom s) := by
  unfold giveResponseRoom
  split
  · next rest h =>
    split
    · next hroom => exact (Proceeds.dropped _ rest h nofun).trans (.queued _ hroom nofun)
    · exact .refl s
  · exact .refl s

theorem proceeds_giveStrikeRoom (s : State) : Proceeds s (giveStrikeRoom s) := by
  unfold giveStrikeRoom
  split
  · exact .settled rfl rfl
  · exact .refl s

/-! ### The commands of the control unit -/

/-- A command proceeds when its effect does: the records behind it are then judged (R21). -/
theorem proceeds_onRecord (p : Line → Bool) {f : Line → State → State} (hf : ∀ r s, Proceeds s (f r s)) (s : State) :
    Proceeds s (onRecord p f s) := by
  unfold onRecord
  split
  · exact .refl s
  · split
    · exact .after ((hf _ _).trans (proceeds_judgeCommands _ _)) ⟨rfl, rfl, rfl, rfl, rfl⟩
    · exact .refl s

theorem proceeds_performing {s u : State} {r : Line} {items : List Op} (h : SameWaits s u) : Proceeds s (performing u r items) :=
  .settled (congrArg WriteBack.queue h.writeBack) h.inReset

theorem proceeds_runSetWindows (r : Line) (s : State) : Proceeds s (runSetWindows r s) := by
  unfold runSetWindows
  split
  · exact proceeds_finishRecord _ _ _
  · split
    · exact proceeds_finishRecord _ _ _
    · split
      · exact proceeds_finishRecord _ _ _
      · exact proceeds_performing ⟨rfl, rfl, rfl, rfl, rfl⟩

theorem proceeds_runLoadProfile (r : Line) (s : State) : Proceeds s (runLoadProfile r s) := by
  unfold runLoadProfile
  split
  · exact proceeds_finishRecord _ _ _
  · split
    · exact proceeds_finishRecord _ _ _
    · exact .quiet ⟨rfl, rfl, rfl, rfl, rfl⟩

theorem proceeds_runLoadClasses (r : Line) (s : State) : Proceeds s (runLoadClasses r s) := by
  unfold runLoadClasses
  split
  · exact proceeds_finishRecord _ _ _
  · split
    · exact proceeds_finishRecord _ _ _
    · split
      · exact proceeds_finishRecord _ _ _
      · exact (proceeds_finishRecord _ _ _).after ⟨rfl, rfl, rfl, rfl, rfl⟩

theorem proceeds_runSetTiming (r : Line) (s : State) : Proceeds s (runSetTiming r s) :=
  .after (proceeds_finishRecord _ _ _) ⟨rfl, rfl, rfl, rfl, rfl⟩

theorem proceeds_runSetReporting (r : Line) (s : State) : Proceeds s (runSetReporting r s) := by
  unfold runSetReporting
  split
  · exact proceeds_performing ⟨rfl, rfl, rfl, rfl, rfl⟩
  · exact .after (proceeds_finishRecord _ _ _) ⟨rfl, rfl, rfl, rfl, rfl⟩

theorem proceeds_runStart (r : Line) (s : State) : Proceeds s (runStart r s) := by
  unfold runStart
  split
  · exact proceeds_finishRecord _ _ _
  · exact proceeds_performing ⟨rfl, rfl, rfl, rfl, rfl⟩

theorem proceeds_stopIntake (s : State) : Proceeds s (stopIntake s) := by
  unfold stopIntake
  split
  · exact .settled rfl rfl
  · exact .refl s

theorem proceeds_runStop (r : Line) (s : State) : Proceeds s (runStop r s) := by
  unfold runStop
  split
  · exact proceeds_finishRecord _ _ _
  · refine Proceeds.trans ?_ (proceeds_stopIntake _)
    exact proceeds_launch ⟨rfl, rfl, rfl, rfl, rfl⟩

theorem proceeds_runClearTopology (r : Line) (s : State) : Proceeds s (runClearTopology r s) := by
  unfold runClearTopology
  split
  · exact proceeds_finishRecord _ _ _
  · split
    · exact proceeds_finishRecord _ _ _
    · exact (proceeds_requestTopology _).after ⟨rfl, rfl, rfl, rfl, rfl⟩

theorem proceeds_runClearPaths (r : Line) (s : State) : Proceeds s (runClearPaths r s) := by
  unfold runClearPaths
  split
  · exact proceeds_finishRecord _ _ _
  · exact proceeds_performing ⟨rfl, rfl, rfl, rfl, rfl⟩

/-- RESTART abandons every operation, and its own steps are launched in a part where no other goes on (R36). -/
theorem proceeds_runRestart (r : Line) (s : State) : Proceeds s (runRestart r s) := .settled rfl rfl

theorem proceeds_setPhase (s : State) (phase : Phase) : Proceeds s (setPhase s phase) := by
  unfold setPhase
  split <;> exact .quiet ⟨rfl, rfl, rfl, rfl, rfl⟩

theorem proceeds_answerProfileRead (answer : ReadData) (s : State) : Proceeds s (answerProfileRead answer s) := by
  unfold answerProfileRead
  split
  · exact .refl s
  · refine .trans (t := { s with memory := { s.memory with ownRead := none } }) (.quiet ⟨rfl, rfl, rfl, rfl, rfl⟩) ?_
    dsimp only
    split
    · split
      · exact proceeds_completeCommand _ _
      · split
        · exact proceeds_setPhase _ _
        · exact proceeds_completeCommand _ _
    · exact proceeds_completeCommand _ _
    · exact .refl _

theorem proceeds_installProfile (s : State) (d : Nat) (p : Profile) : Proceeds s (installProfile s d p) :=
  .quiet ⟨rfl, rfl, rfl, rfl, rfl⟩

theorem proceeds_installWaiting (s : State) : Proceeds s (installWaiting s) := by
  unfold installWaiting
  split
  · split
    · exact .refl s
    · split
      · split
        · exact ((proceeds_installProfile _ _ _).trans (proceeds_setPhase _ _)).trans (proceeds_requestTopology _)
        · exact proceeds_completeCommand _ _
      · exact (proceeds_installProfile _ _ _).trans (proceeds_completeCommand _ _)
  · exact .refl s

theorem proceeds_endDrain (s : State) : Proceeds s (endDrain s) := by
  unfold endDrain
  split
  · exact .settled rfl rfl
  · exact .refl s

/-! ### The notice unit and the intake unit -/

theorem proceeds_acknowledgeNext (s : State) : Proceeds s (acknowledgeNext s) := by
  unfold acknowledgeNext
  split
  · exact .refl s
  · split
    · exact .refl s
    · exact .settled rfl rfl

theorem sameWaits_placeReport (s : State) (r : HandedRecord) : SameWaits s (placeReport s r).1 := by
  unfold placeReport
  repeat' split
  all_goals exact ⟨rfl, rfl, rfl, rfl, rfl⟩

theorem sameWaits_placeOpen (s : State) (r : HandedRecord) : SameWaits s (placeOpen s r).1 := by
  unfold placeOpen
  repeat' split
  all_goals exact ⟨rfl, rfl, rfl, rfl, rfl⟩

theorem sameWaits_placeClose (s : State) (r : HandedRecord) : SameWaits s (placeClose s r).1 := by
  unfold placeClose
  repeat' split
  all_goals exact ⟨rfl, rfl, rfl, rfl, rfl⟩

theorem sameWaits_placeRecord (s : State) (r : HandedRecord) : SameWaits s (placeRecord s r).1 := by
  unfold placeRecord
  split
  · exact (SameFrame.refl s).waits
  · split
    · exact (SameFrame.refl s).waits
    · split
      · exact sameWaits_placeOpen s r
      · exact sameWaits_placeClose s r
      · exact sameWaits_placeReport s r

theorem proceeds_takeRecord (s : State) : Proceeds s (takeRecord s) := by
  unfold takeRecord
  split
  · exact .refl s
  · split
    · exact .refl s
    · exact proceeds_launch ((sameWaits_placeRecord _ _).after ⟨rfl, rfl, rfl, rfl, rfl⟩)

/-! ### The topology unit -/

theorem proceeds_applyLoose (s : State) : Proceeds s (applyLoose s) := by
  unfold applyLoose
  split
  · split
    · exact .settled rfl rfl
    · exact .refl s
  · exact .refl s

theorem proceeds_applyBatch (s : State) : Proceeds s (applyBatch s) := by
  unfold applyBatch
  split
  · split
    · exact .settled rfl rfl
    · exact .refl s
  · exact .refl s

theorem proceeds_noteDue (e : EntryName) (s : State) : Proceeds s (noteDue e s) := by
  unfold noteDue
  split
  · exact proceeds_requestTopology s
  · exact .refl s

theorem proceeds_expireNext (s : State) : Proceeds s (expireNext s) := by
  unfold expireNext
  split
  · split
    · exact .settled rfl rfl
    · split
      · exact .settled rfl rfl
      · exact (sameFrame_endTopology s).proceeds
  · exact .refl s

theorem proceeds_releaseLink (s : State) : Proceeds s (releaseLink s) := by
  unfold releaseLink
  split
  · split
    · exact .settled rfl rfl
    · exact .refl s
  · exact .refl s

theorem proceeds_reconvert (s : State) : Proceeds s (reconvert s) := by
  unfold reconvert
  split
  · split
    · exact .settled rfl rfl
    · exact .refl s
  · exact .refl s

theorem proceeds_clearTopology (s : State) : Proceeds s (clearTopology s) := by
  unfold clearTopology
  split
  · split
    · exact .settled rfl rfl
    · exact .refl s
  · exact .refl s

/-! ### The path table unit -/

theorem proceeds_takeRequest (s : State) : Proceeds s (takeRequest s) := by
  unfold takeRequest
  split
  · exact .refl s
  · split
    · exact .refl s
    · dsimp only
      split
      · exact .quiet ⟨rfl, rfl, rfl, rfl, rfl⟩
      · split <;> exact .settled rfl rfl

theorem proceeds_selectRestoration (s : State) (p : Nat) : Proceeds s (selectRestoration s p) :=
  .after (sameFrame_requestGrant _ _).proceeds ⟨rfl, rfl, rfl, rfl, rfl⟩

theorem proceeds_selectWaiting (s : State) (q : QueuedRequest) : Proceeds s (selectWaiting s q) :=
  proceeds_launch ((sameFrame_requestGrant _ _).waits.after ⟨rfl, rfl, rfl, rfl, rfl⟩)

theorem proceeds_selectAnswered {s u : State} {q : QueuedRequest} {items : List Op} (h : SameWaits s u) :
    Proceeds s (selectAnswered q u items) :=
  .settled (congrArg WriteBack.queue h.writeBack) h.inReset

theorem proceeds_selectRelease (s : State) (q : QueuedRequest) : Proceeds s (selectRelease s q) := by
  unfold selectRelease
  split
  · exact proceeds_selectAnswered (SameFrame.refl s).waits
  · exact proceeds_selectAnswered ((sameFrame_unreserveAll s _).trans (sameFrame_freePath _ _)).waits

theorem proceeds_selectResume (s : State) (q : QueuedRequest) : Proceeds s (selectResume s q) := by
  unfold selectResume
  split
  · exact proceeds_selectAnswered (SameFrame.refl s).waits
  · split
    · exact proceeds_selectAnswered (sameFrame_storePath s _ _).waits
    · exact proceeds_selectAnswered (SameFrame.refl s).waits

theorem proceeds_selectRequest (s : State) (q : QueuedRequest) : Proceeds s (selectRequest s q) := by
  have hanswered : ∀ items, Proceeds s (selectAnswered q s items) := fun _ => proceeds_selectAnswered (SameFrame.refl s).waits
  unfold selectRequest
  split
  · exact hanswered _
  · split
    · exact proceeds_selectWaiting s q
    · split
      · exact proceeds_selectWaiting s q
      · exact hanswered _
    · exact proceeds_selectWaiting s q
    · exact proceeds_selectRelease s q
    · exact proceeds_selectResume s q
    · exact hanswered _

theorem proceeds_selectNext (s : State) : Proceeds s (selectNext s) := by
  have hrequest : ∀ q rest, Proceeds s (selectRequest { s with paths := { s.paths with queue := rest } } q) :=
    fun q _ => .after (proceeds_selectRequest _ q) ⟨rfl, rfl, rfl, rfl, rfl⟩
  unfold selectNext
  split
  · exact .refl s
  · split
    · exact proceeds_selectRestoration s _
    · split
      · exact proceeds_selectRestoration s _
      · exact hrequest _ _
    · exact hrequest _ _
    · exact .refl s

theorem proceeds_dropRestoration (s : State) (o : Operation) : Proceeds s (dropRestoration s o) :=
  .after (sameFrame_releaseGrant _).proceeds ⟨rfl, rfl, rfl, rfl, rfl⟩

theorem proceeds_startComputation (s : State) (o : Operation) (i : Inputs) : Proceeds s (startComputation s o i) :=
  .quiet ⟨rfl, rfl, rfl, rfl, rfl⟩

theorem proceeds_takeUpRequest (s : State) (o : Operation) (q : QueuedRequest) : Proceeds s (takeUpRequest s o q) := by
  unfold takeUpRequest
  split
  · split
    · exact proceeds_startComputation _ _ _
    · exact .settled rfl rfl
  · exact proceeds_startComputation _ _ _

theorem proceeds_takeUpGrant (s : State) : Proceeds s (takeUpGrant s) := by
  unfold takeUpGrant
  split
  · split
    · split
      · split
        · split
          · exact proceeds_startComputation _ _ _
          · exact proceeds_dropRestoration _ _
        · exact proceeds_dropRestoration _ _
      · exact proceeds_takeUpRequest _ _ _
    · exact .refl s
  · exact .refl s

theorem sameFrame_allocatePath (s : State) (p : Nat) (r : Line) (c : Computed) (primary : Route) :
    SameFrame s (allocatePath s p r c primary) := by
  have hbackup : ∀ u : State, SameFrame u (match c.backup with | some b => reserveRoute u b | none => u) := by
    intro u
    split
    · exact sameFrame_reserveRoute u _
    · exact .refl u
  unfold allocatePath
  refine ((sameFrame_reserveRoute s primary).trans (hbackup _)).trans (SameFrame.trans ?_ (sameFrame_storePath _ _ _))
  refine SameFrame.trans ?_ (sameFrame_setRecord _ _ _)
  exact ⟨rfl, rfl, rfl, rfl, rfl, rfl, rfl, rfl, rfl, rfl, rfl, rfl, rfl, rfl, rfl, rfl⟩

theorem sameFrame_endSetup (s : State) (q : QueuedRequest) (c : Computed) : SameFrame s (endSetup s q c).1 := by
  unfold endSetup
  split
  · exact sameFrame_allocatePath _ _ _ _ _
  · exact .refl s

theorem sameFrame_endReroute (s : State) (q : QueuedRequest) (c : Computed) : SameFrame s (endReroute s q c).1 := by
  unfold endReroute
  split
  · exact (sameFrame_replaceReservation s _ _).trans (sameFrame_storePath _ _ _)
  · exact .refl s

theorem sameFrame_endRestoration (s : State) (p : Nat) (c : Computed) : SameFrame s (endRestoration s p c).1 := by
  unfold endRestoration
  split
  · exact .refl s
  · split
    · exact (sameFrame_replaceReservation s _ _).trans (sameFrame_storePath _ _ _)
    · exact sameFrame_storePath _ _ _

theorem sameFrame_endItem (s : State) (item : Item) (c : Computed) : SameFrame s (endItem s item c).1 := by
  unfold endItem
  split
  · exact sameFrame_endRestoration s _ c
  · split
    · exact sameFrame_endSetup s _ c
    · exact sameFrame_endReroute s _ c
    all_goals exact .refl s

theorem proceeds_endComputation (s : State) : Proceeds s (endComputation s) := by
  unfold endComputation
  split
  · split
    · exact proceeds_launch ((sameFrame_endItem _ _ _).waits.after ⟨rfl, rfl, rfl, rfl, rfl⟩)
    · exact .refl s
  · exact .refl s

/-- A strike event leaves its queue. -/
theorem sameWaits_nextStrike {s u : State} {kind : StrikeKind} {k : Nat} (h : nextStrike s kind = some (k, u)) : SameWaits s u := by
  unfold nextStrike at h
  split at h
  · cases h
  · split at h
    · cases h
      exact ⟨rfl, rfl, rfl, rfl, rfl⟩
    · cases h

theorem proceeds_strikeDown (s : State) : Proceeds s (strikeDown s) := by
  unfold strikeDown
  split
  · exact .refl s
  · next k u h =>
    have hu := sameWaits_nextStrike h
    split
    · exact .quiet hu
    · exact proceeds_launch ((sameFrame_setFlag u k true).waits.after hu)

theorem proceeds_strikeUp (s : State) : Proceeds s (strikeUp s) := by
  unfold strikeUp
  split
  · exact .refl s
  · next k u h =>
    have hu := sameWaits_nextStrike h
    split
    · exact proceeds_launch ((sameFrame_setFlag u k false).waits.after hu)
    · exact .quiet hu

theorem proceeds_strikeRetire (s : State) : Proceeds s (strikeRetire s) := by
  unfold strikeRetire
  split
  · exact .refl s
  · next k u h => exact proceeds_launch (sameWaits_nextStrike h)

/-! ### All commands -/

theorem live_asserted {s : State} (h : s.inReset = true) (f : State → State) : live s f = .next s := by simp [live, h]

/-- Every command but the two of the reset pin is an effect of the released part, one that proceeds as above; only a transaction whose
address is not aligned has none. -/
theorem exec_live (c : Instr) (hassert : c ≠ .resetAsserted) (hrelease : ∀ straps, c ≠ .resetReleased straps) :
    (∃ f, (∀ s, Proceeds s (f s)) ∧ ∀ s, exec c s = live s f) ∨
      (c.wellFormed = false ∧ ∀ s, exec c s = .fault .unalignedAddress) := by
  cases c with
  | resetAsserted => exact absurd rfl hassert
  | resetReleased straps => exact absurd rfl (hrelease straps)
  | writeAccepted presented =>
    cases presented with
    | none => exact .inl ⟨_, proceeds_acceptHead, fun _ => rfl⟩
    | some w =>
      cases ha : Addr.aligned w.addr with
      | true =>
        exact .inl ⟨fun s => acceptHead (present s w), fun _ => (proceeds_acceptHead _).after ⟨rfl, rfl, rfl, rfl, rfl⟩,
          fun _ => if_pos ha⟩
      | false => exact .inr ⟨ha, fun _ => if_neg (by simp [ha])⟩
  | readAccepted a tag =>
    cases ha : Addr.aligned a with
    | true => exact .inl ⟨fun s => acceptRead s a tag, fun s => proceeds_acceptRead s a tag, fun _ => if_pos ha⟩
    | false => exact .inr ⟨ha, fun _ => if_neg (by simp [ha])⟩
  | readResponse tag answer => exact .inl ⟨_, fun s => proceeds_returnResponse s tag answer, fun _ => rfl⟩
  | holdDeadline entry => exact .inl ⟨_, fun s => proceeds_releaseDue s entry, fun _ => rfl⟩
  | writeBackIssue => exact .inl ⟨_, proceeds_issueOldest, fun _ => rfl⟩
  | writeBackRoom => exact .inl ⟨_, proceeds_giveRoom, fun _ => rfl⟩
  | responseWrite => exact .inl ⟨_, proceeds_giveResponseRoom, fun _ => rfl⟩
  | strikeQueueRoom => exact .inl ⟨_, proceeds_giveStrikeRoom, fun _ => rfl⟩
  | unknownCommand => exact .inl ⟨_, proceeds_onRecord _ fun r s => proceeds_finishRecord s r _, fun _ => rfl⟩
  | setWindows => exact .inl ⟨_, proceeds_onRecord _ proceeds_runSetWindows, fun _ => rfl⟩
  | loadProfile => exact .inl ⟨_, proceeds_onRecord _ proceeds_runLoadProfile, fun _ => rfl⟩
  | profileReadResponse answer => exact .inl ⟨_, proceeds_answerProfileRead answer, fun _ => rfl⟩
  | profileInstallation => exact .inl ⟨_, proceeds_installWaiting, fun _ => rfl⟩
  | profileReconversion => exact .inl ⟨_, proceeds_reconvert, fun _ => rfl⟩
  | loadClasses => exact .inl ⟨_, proceeds_onRecord _ proceeds_runLoadClasses, fun _ => rfl⟩
  | setTiming => exact .inl ⟨_, proceeds_onRecord _ proceeds_runSetTiming, fun _ => rfl⟩
  | setReporting => exact .inl ⟨_, proceeds_onRecord _ proceeds_runSetReporting, fun _ => rfl⟩
  | start => exact .inl ⟨_, proceeds_onRecord _ proceeds_runStart, fun _ => rfl⟩
  | stop => exact .inl ⟨_, proceeds_onRecord _ proceeds_runStop, fun _ => rfl⟩
  | drainEnd => exact .inl ⟨_, proceeds_endDrain, fun _ => rfl⟩
  | clearTopology => exact .inl ⟨_, proceeds_onRecord _ proceeds_runClearTopology, fun _ => rfl⟩
  | clearTopologyOperation => exact .inl ⟨_, proceeds_clearTopology, fun _ => rfl⟩
  | clearPaths => exact .inl ⟨_, proceeds_onRecord _ proceeds_runClearPaths, fun _ => rfl⟩
  | restart => exact .inl ⟨_, proceeds_onRecord _ proceeds_runRestart, fun _ => rfl⟩
  | acknowledgement => exact .inl ⟨_, proceeds_acknowledgeNext, fun _ => rfl⟩
  | intakeRecordTaking => exact .inl ⟨_, proceeds_takeRecord, fun _ => rfl⟩
  | topologyRequest => exact .inl ⟨_, proceeds_requestTopology, fun _ => rfl⟩
  | looseRecordApplication => exact .inl ⟨_, proceeds_applyLoose, fun _ => rfl⟩
  | batchApplication => exact .inl ⟨_, proceeds_applyBatch, fun _ => rfl⟩
  | entryDue entry => exact .inl ⟨_, proceeds_noteDue entry, fun _ => rfl⟩
  | expiry => exact .inl ⟨_, proceeds_expireNext, fun _ => rfl⟩
  | linkIdRelease => exact .inl ⟨_, proceeds_releaseLink, fun _ => rfl⟩
  | requestTaking => exact .inl ⟨_, proceeds_takeRequest, fun _ => rfl⟩
  | selection => exact .inl ⟨_, proceeds_selectNext, fun _ => rfl⟩
  | grantTakeUp => exact .inl ⟨_, proceeds_takeUpGrant, fun _ => rfl⟩
  | computationEnd => exact .inl ⟨_, proceeds_endComputation, fun _ => rfl⟩
  | downEvent => exact .inl ⟨_, proceeds_strikeDown, fun _ => rfl⟩
  | upEvent => exact .inl ⟨_, proceeds_strikeUp, fun _ => rfl⟩
  | retireEvent => exact .inl ⟨_, proceeds_strikeRetire, fun _ => rfl⟩

/-- Where a command leads: the pin is asserted, or released, or stays asserted with nothing changed, or the released part proceeds. -/
theorem exec_cases {c : Instr} {s t : State} (h : exec c s = .next t) :
    t = assertReset s ∨ (s.inReset = true ∧ ∃ straps, t = releaseReset straps s) ∨ (s.inReset = true ∧ t = s) ∨
      (s.inReset = false ∧ Proceeds s t) := by
  by_cases hassert : c = .resetAsserted
  · subst hassert
    cases h
    exact .inl rfl
  by_cases hrelease : ∃ straps, c = .resetReleased straps
  · obtain ⟨straps, rfl⟩ := hrelease
    simp only [exec, execResetReleased] at h
    cases h
    split
    · next hr => exact .inr (.inl ⟨hr, straps, rfl⟩)
    · next hr => exact .inr (.inr (.inr ⟨Bool.eq_false_of_not_eq_true hr, .refl s⟩))
  rcases exec_live c hassert (not_exists.1 hrelease) with ⟨f, hf, he⟩ | ⟨-, he⟩
  · rw [he] at h
    rcases Bool.eq_false_or_eq_true s.inReset with hr | hr
    · rw [live_asserted hr] at h
      cases h
      exact .inr (.inr (.inl ⟨hr, rfl⟩))
    · rw [live_released hr] at h
      cases h
      exact .inr (.inr (.inr ⟨hr, hf s⟩))
  · rw [he] at h
    cases h

/-- Every step keeps what each command keeps, when it does not look at the host's queue and a tick keeps it too. -/
theorem keeps_of_exec {P : State → Prop} (hpending : ∀ s rest, P s → P { s with pending := rest })
    (htick : ∀ s, P s → P (tick s)) (hexec : ∀ c s t, P s → exec c s = .next t → P t) : Keeps P := by
  intro s t hs h
  unfold step at h
  split at h
  · cases h
    exact htick s hs
  · exact hexec _ _ t (hpending s _ hs) h

theorem sameWaits_tick (s : State) : SameWaits s (tick s) := by
  unfold tick
  split <;> exact ⟨rfl, rfl, rfl, rfl, rfl⟩

/-! ### The write-back queue's law and quiescence, kept by every step -/

theorem SameWaits.queueLaw {s t : State} (h : SameWaits s t) (hs : QueueLaw s) : QueueLaw t := by
  unfold QueueLaw
  rwa [h.writeBack, h.inReset]

theorem exec_queueLaw {c : Instr} {s t : State} (hs : QueueLaw s) (h : exec c s = .next t) : QueueLaw t := by
  obtain ⟨hlen, hrefs, hempty⟩ := hs
  rcases exec_cases h with rfl | ⟨hr, straps, rfl⟩ | ⟨-, rfl⟩ | ⟨hr, hst⟩
  · exact ⟨Nat.zero_le _, List.nodup_nil, fun _ => rfl⟩
  · simp [QueueLaw, releaseReset, hempty hr, queuedRefs]
  · exact ⟨hlen, hrefs, hempty⟩
  · exact (queueLaw_iff_queueSound (hst.inReset.trans hr)).2 (hst.queueSound ⟨hlen, hrefs⟩)

theorem exec_quiescent {c : Instr} {s t : State} (hs : quiescent s = true) (h : exec c s = .next t) : quiescent t = true := by
  rcases exec_cases h with rfl | ⟨-, straps, rfl⟩ | ⟨-, rfl⟩ | ⟨-, hst⟩
  · exact quiescent_congr (s := State.reset) (by decide) rfl (fun _ => Iff.rfl) rfl rfl
  · exact quiescent_congr hs rfl (fun _ => Iff.rfl) rfl rfl
  · exact hs
  · exact hst.quiescent hs

/-- Settles O6: what joins the queue finds a place there, and no reference joins it twice. -/
theorem writeBackQueueLawKept : Obligations.WriteBackQueueLawKept :=
  keeps_of_exec (fun _ _ hs => hs) (fun s hs => (sameWaits_tick s).queueLaw hs) fun _ _ _ => exec_queueLaw

/-- Settles O10: each command leaves every operation as it was, or ends by settling the part. -/
theorem quiescenceKept : Obligations.QuiescenceKept :=
  keeps_of_exec (fun _ _ hs => hs) (fun s hs => (Proceeds.quiet (sameWaits_tick s)).quiescent hs) fun _ _ _ => exec_quiescent

/-- Settles O13: every other command is an effect of the released part. -/
theorem assertedPinStopsThePart : Obligations.AssertedPinStopsThePart := by
  intro c s hr hwf hassert hrelease
  rcases exec_live c hassert hrelease with ⟨f, -, he⟩ | ⟨hunaligned, -⟩
  · rw [he, live_asserted hr]
  · rw [hwf] at hunaligned
    cases hunaligned

end Sys2Proof.Machine

/-!
PROOFS. The ports, the windows and the write-back queue's commands (O15 to O25, O29, O30).
-/

namespace Sys2Proof.Machine

/-! ### The classes of lines (R5, R6) -/

/-- A line of one of two windows that share no line lies outside the other. -/
theorem not_inWindow_of_apart {a n b m x : Nat} (h : windowsApart (a, n) (b, m) = true) (hx : inWindow b m x = true) :
    inWindow a n x = false := by
  simp only [windowsApart, inWindow, Bool.or_eq_true, Bool.and_eq_true, decide_eq_true_eq, Bool.and_eq_false_iff,
    decide_eq_false_iff_not] at h hx ⊢
  omega

theorem windowsApart_comm (x y : Nat × Nat) : windowsApart x y = windowsApart y x := Bool.or_comm _ _

theorem inWindow_add {b m o : Nat} (h : o < m) : inWindow b m (b + o) = true := by
  simp only [inWindow, Bool.and_eq_true, decide_eq_true_eq]
  omega

/-- The class of a line of the anchor page. -/
theorem addressClass_anchor {s : State} {a i : Nat} (ha : s.decoder.anchor = some a) (hi : i < 64) :
    addressClass s (a + i) = anchorClass i := by
  simp [addressClass, ha, inWindow, hi]

/-- Outside the anchor page the windows decide. -/
theorem addressClass_window {s : State} {a n : Nat} {w : Windows} (ha : s.decoder.anchor = some a) (hw : s.decoder.windows = some w)
    (h : inWindow a 64 n = false) : addressClass s n = windowClass w n := by
  simp [addressClass, ha, hw, h]

/-- Settles O15: a line of a window lies in none of the windows looked at before it. -/
theorem lineClasses : Obligations.LineClasses := by
  intro s a w ha hw hapart
  simp only [allApart, List.all_cons, List.all_nil, Bool.and_true, Bool.and_eq_true] at hapart
  obtain ⟨⟨hir, hie, hin, hia⟩, ⟨hre, hrn, hra⟩, ⟨hen, hea⟩, hna⟩ := hapart
  have anchorApart : ∀ {b m n : Nat}, windowsApart (b, m) (a, 64) = true → inWindow b m n = true → inWindow a 64 n = false :=
    fun h => not_inWindow_of_apart ((windowsApart_comm _ _).trans h)
  have apart : ∀ {b m c k n : Nat}, windowsApart (b, m) (c, k) = true → inWindow c k n = true → inWindow b m n = false :=
    not_inWindow_of_apart
  have slotLine : ∀ i l, i < w.requestSlots → l < 3 → addressClass s (w.requestBase + 3 * i + l) =
      if l = 0 then .requestLine i else .resultLine i l := by
    intro i l hi hl
    have hslot : inWindow w.requestBase (3 * w.requestSlots) (w.requestBase + 3 * i + l) = true := by
      rw [Nat.add_assoc]
      exact inWindow_add (by omega)
    have hsub : w.requestBase + 3 * i + l - w.requestBase = 3 * i + l := by omega
    have hmod : (3 * i + l) % 3 = l := by omega
    have hdiv : (3 * i + l) / 3 = i := by omega
    rw [addressClass_window ha hw (anchorApart hra hslot)]
    simp only [windowClass, apart hir hslot, hslot, hsub, hmod, hdiv, Bool.false_eq_true, if_true, if_false]
  refine ⟨⟨addressClass_anchor ha (by omega : 0 < 64), addressClass_anchor ha (by omega), addressClass_anchor ha (by omega),
    addressClass_anchor ha (by omega), fun i h4 h64 => ?_⟩, fun o ho => ?_, fun i hi => ?_, fun o ho => ?_, fun o ho => ?_⟩
  · rw [addressClass_anchor ha h64]
    match i, h4 with
    | i + 4, _ => rfl
  · have h := inWindow_add (b := w.intakeBase) ho
    rw [addressClass_window ha hw (anchorApart hia h)]
    simp [windowClass, h]
  · exact ⟨slotLine i 0 hi (by omega), slotLine i 1 hi (by omega), slotLine i 2 hi (by omega)⟩
  · have h := inWindow_add (b := w.exportBase) ho
    rw [addressClass_window ha hw (anchorApart hea h)]
    simp [windowClass, apart hie h, apart hre h, h]
  · have h := inWindow_add (b := w.noticeBase) ho
    rw [addressClass_window ha hw (anchorApart hna h)]
    simp [windowClass, apart hin h, apart hrn h, apart hen h, h]

/-! ### WRITE_ACCEPTED (R1, R6 to R11) -/

/-- The class of a write is that of its line, but that intake records and request lines 0 are ordinary outside RUN (R6). -/
theorem writeClass_run {s : State} (h : s.control.mode = .run) (n : Nat) : writeClass s n = addressClass s n := by
  unfold writeClass
  split <;> simp [*]

theorem writeClass_unobserved {s : State} {n : Nat}
    (h : (∀ o, addressClass s n ≠ .intakeRecord o) ∧ (∀ i, addressClass s n ≠ .requestLine i) ∨ s.control.mode ≠ .run)
    (hcmd : addressClass s n ≠ .anchorCommand) (hack : addressClass s n ≠ .anchorAcknowledgement) :
    (writeClass s n).observed = none := by
  unfold writeClass
  cases hc : addressClass s n with
  | anchorCommand => exact absurd hc hcmd
  | anchorAcknowledgement => exact absurd hc hack
  | intakeRecord o =>
    have hm : s.control.mode ≠ .run := h.resolve_left fun k => k.1 o hc
    simp [hm, LineClass.observed]
  | requestLine i =>
    have hm : s.control.mode ≠ .run := h.resolve_left fun k => k.2 i hc
    simp [hm, LineClass.observed]
  | anchorAnswer | resultLine | exportLine | noticeLine | ordinary => rfl

/-- Only intake records and request lines 0 can be held back, and only by a full queue (R10). -/
theorem backpressure_intake {s : State} {w : LineWrite} {o : Nat} (hw : w.enables = BitVec.allOnes 64)
    (h : writeClass s (lineNumber w.addr) = .intakeRecord o) : backpressure s w = (intakeCount s == 64) := by
  simp [backpressure, fullLine, hw, h]

theorem backpressure_request {s : State} {w : LineWrite} {i : Nat} (hw : w.enables = BitVec.allOnes 64)
    (h : writeClass s (lineNumber w.addr) = .requestLine i) : backpressure s w = (requestCount s == 16) := by
  simp [backpressure, fullLine, hw, h]

theorem backpressure_partial {s : State} {w : LineWrite} (hw : w.enables ≠ BitVec.allOnes 64) : backpressure s w = false := by
  simp [backpressure, show fullLine w = false from beq_false_of_ne hw]

theorem backpressure_unobserved {s : State} {w : LineWrite} (h : (writeClass s (lineNumber w.addr)).observed = none) :
    backpressure s w = false := by
  unfold backpressure
  generalize writeClass s (lineNumber w.addr) = c at h
  match c, h with
  | .anchorAnswer, _ | .resultLine _ _, _ | .exportLine, _ | .noticeLine, _ | .ordinary, _ => exact Bool.and_false _

/-- No block takes a write of no observed class. -/
theorem handOver_unobserved (s : State) (w : LineWrite) : ∀ {c : LineClass}, c.observed = none → handOver s w c = s
  | .anchorAnswer, _ | .resultLine _ _, _ | .exportLine, _ | .noticeLine, _ | .ordinary, _ => rfl

/-- WRITE_ACCEPTED acts on the head of the channel with the presented write behind the others (R1). -/
theorem exec_writeAccepted {s : State} {presented : Option LineWrite} {w : LineWrite} {rest : List LineWrite}
    (h : AtHead s presented w rest) : exec (.writeAccepted presented) s = .next (acceptHead (withChannel s (w :: rest))) := by
  obtain ⟨hr, haligned, hchannel⟩ := h
  rw [← hchannel]
  cases presented with
  | none =>
    rw [Option.toList_none, List.append_nil]
    exact live_released hr _
  | some x =>
    have hx : Addr.aligned x.addr = true := by simp [Addr.aligned, haligned x rfl]
    exact (if_pos hx).trans (live_released hr _)

/-- The head waits, or is forwarded and decoded. -/
theorem acceptHead_withChannel (s : State) (w : LineWrite) (rest : List LineWrite) :
    acceptHead (withChannel s (w :: rest)) =
      if postPending s || backpressure s w then withChannel s (w :: rest)
      else decodeWrite (forwarded s w rest) w (writeClass s (lineNumber w.addr)) := rfl

theorem exec_writeAccepted_held {s : State} {presented : Option LineWrite} {w : LineWrite} {rest : List LineWrite}
    (h : AtHead s presented w rest) (hb : postPending s = true ∨ backpressure s w = true) :
    exec (.writeAccepted presented) s = .next (withChannel s (w :: rest)) := by
  rw [exec_writeAccepted h, acceptHead_withChannel, if_pos (by simpa using hb)]

theorem exec_writeAccepted_taken {s : State} {presented : Option LineWrite} {w : LineWrite} {rest : List LineWrite}
    (h : AtHead s presented w rest) (hp : postPending s = false) (hb : backpressure s w = false) :
    exec (.writeAccepted presented) s = .next (decodeWrite (forwarded s w rest) w (writeClass s (lineNumber w.addr))) := by
  rw [exec_writeAccepted h, acceptHead_withChannel, if_neg (by simp [hp, hb])]

/-- Settles O16: a write of no observed class is decoded to nothing. -/
theorem unobservedWriteForwarded : Obligations.UnobservedWriteForwarded := by
  intro s presented w rest h hp hclass hcmd hack
  have hnone := writeClass_unobserved hclass hcmd hack
  have hdecode : decodeWrite (forwarded s w rest) w (writeClass s (lineNumber w.addr)) = forwarded s w rest := by
    simp only [decodeWrite, hnone, handOver_unobserved _ w hnone, ite_self]
  rw [exec_writeAccepted_taken h hp (backpressure_unobserved hnone), hdecode]

/-- A full-line write is handed over to the block that owns its line. -/
theorem exec_writeAccepted_full {s : State} {presented : Option LineWrite} {w : LineWrite} {rest : List LineWrite} {c : LineClass}
    (h : AtHead s presented w rest) (hp : postPending s = false) (hw : w.enables = BitVec.allOnes 64)
    (hb : backpressure s w = false) (hc : writeClass s (lineNumber w.addr) = c) :
    exec (.writeAccepted presented) s = .next (handOver (forwarded s w rest) w c) := by
  rw [exec_writeAccepted_taken h hp hb, hc]
  simp [decodeWrite, fullLine, hw]

/-- A record of code 0 is ignored by a control unit that has no other to deal with (R21). -/
theorem handCommand_ignored {s : State} {r : Line} (hh : s.control.handed = []) (hr : (cmdCode r).toNat = 0) :
    handCommand s r = s := by
  have hr' : cmdCode r = 0 := BitVec.eq_of_toNat_eq hr
  simp only [handCommand, hh, List.nil_append, judgeCommands, hr', if_true]
  rw [← hh]

/-- A record that is not refused waits for the step of its own command (R21; log 15). -/
theorem handCommand_kept {s : State} {r : Line} (hh : s.control.handed = []) (hr : (cmdCode r).toNat ≠ 0)
    (hfree : isRefused s r = false) : handCommand s r = { s with control := { s.control with handed := [r] } } := by
  have hr' : cmdCode r ≠ 0 := fun h => hr (by rw [h]; rfl)
  simp only [handCommand, hh, List.nil_append, judgeCommands, hr', hfree, if_false, Bool.false_eq_true]

/-- Settles O17: the head is forwarded, and the block that owns its line takes its data. -/
theorem fullLineWriteHandedOver : Obligations.FullLineWriteHandedOver := by
  intro s presented w rest h hp hw
  have notHeld : ∀ {c : LineClass}, writeClass s (lineNumber w.addr) = c → (∀ o, c ≠ .intakeRecord o) →
      (∀ i, c ≠ .requestLine i) → backpressure s w = false := by
    intro c hc hi hr
    unfold backpressure
    rw [hc]
    split
    · exact absurd rfl (hi _)
    · exact absurd rfl (hr _)
    · exact Bool.and_false _
  have command : addressClass s (lineNumber w.addr) = .anchorCommand →
      exec (.writeAccepted presented) s = .next (handCommand (forwarded s w rest) w.data) := by
    intro hc
    have hcw : writeClass s (lineNumber w.addr) = .anchorCommand := by simp [writeClass, hc]
    exact exec_writeAccepted_full h hp hw (notHeld hcw nofun nofun) hcw
  refine ⟨fun hc => ?_, fun o hc hm hn => ?_, fun i hc hm hn => ?_, fun hc hh _ hr => ?_, fun hc hh hr => ?_⟩
  · have hcw : writeClass s (lineNumber w.addr) = .anchorAcknowledgement := by simp [writeClass, hc]
    exact exec_writeAccepted_full h hp hw (notHeld hcw nofun nofun) hcw
  · have hcw := (writeClass_run hm _).trans hc
    exact exec_writeAccepted_full h hp hw (by simpa [backpressure_intake hw hcw] using hn) hcw
  · have hcw := (writeClass_run hm _).trans hc
    exact exec_writeAccepted_full h hp hw (by simpa [backpressure_request hw hcw] using hn) hcw
  · rw [command hc, handCommand_ignored (s := forwarded s w rest) hh hr]
  · have hfree : isRefused s w.data = false := by
      rw [← Bool.not_eq_true, isRefused_iff]
      rintro ⟨c, hc, hcode⟩
      rcases hr with ⟨hn, -⟩ | ⟨c', hc', h10, hc10⟩
      · simp [hc] at hn
      · cases hc.symm.trans hc'
        exact hcode.elim (· h10) hc10
    have hne : (cmdCode w.data).toNat ≠ 0 := by
      rcases hr with ⟨-, hne⟩ | ⟨-, -, h10, -⟩
      · exact hne
      · omega
    rw [command hc, handCommand_kept (s := forwarded s w rest) hh hne hfree]
    rfl

/-- Settles O19: a full queue, or a post that has not ended, holds the head back. -/
theorem fullQueueHoldsTheWrite : Obligations.FullQueueHoldsTheWrite := by
  refine ⟨fun s presented w rest h => ⟨fun hw hm hfull => ?_, fun hp => exec_writeAccepted_held h (.inl hp)⟩, fun s hr hnil => ?_⟩
  · refine exec_writeAccepted_held h (.inr ?_)
    rcases hfull with ⟨o, hc, hn⟩ | ⟨i, hc, hn⟩
    · simp [backpressure_intake hw ((writeClass_run hm _).trans hc), hn]
    · simp [backpressure_request hw ((writeClass_run hm _).trans hc), hn]
  · have hnone : acceptHead s = s := by simp [acceptHead, hnil]
    exact (live_released hr _).trans (by rw [hnone])

/-! ### PARTIAL_WRITE (R8, R175) -/

theorem Calm.forwarded {s : State} {n : Nat} (h : Calm s n) (w : LineWrite) (rest : List LineWrite) :
    Calm (forwarded s w rest) n :=
  ⟨h.released, h.threads, h.waiters, h.turn, h.strikeWait, h.room⟩

/-- A partial write to an observed line is forwarded, and its notice posted. -/
theorem exec_writeAccepted_partial {s : State} {presented : Option LineWrite} {w : LineWrite} {rest : List LineWrite} {o : Observed}
    (hcalm : Calm s 2) (h : AtHead s presented w rest) (hw : w.enables ≠ BitVec.allOnes 64)
    (ho : (writeClass s (lineNumber w.addr)).observed = some o) :
    exec (.writeAccepted presented) s =
      .next (posted (forwarded s w rest) (.partialWrite w.addr o (enablesSet w.enables))) := by
  have hp : postPending s = false := by simp [postPending, hcalm.threads, Threads.none]
  have hfull : fullLine w = false := beq_false_of_ne hw
  have hcalm' : Calm (forwarded s w rest)
      (0 + Said.places (forwarded s w rest) (.post (.partialWrite w.addr o (enablesSet w.enables)))) := by
    refine (hcalm.forwarded w rest).fewer ?_
    unfold Said.places
    dsimp only
    split <;> omega
  rw [exec_writeAccepted_taken h hp (backpressure_partial hw)]
  simp only [decodeWrite, hfull, ho, Bool.false_eq_true, if_false]
  rw [launch_calm hcalm', settled_post hcalm', settled_calm hcalm'.posted]

/-- An enabled notice is written while the windows are set, the ring has room and no path notice is deferred (R175). -/
theorem posted_written {s : State} {x : Notice} {d : Windows} (hen : noticeEnabled s x = true) (hwin : s.decoder.windows = some d)
    (hroom : ringUsed s < d.noticeLines ∧ ∀ y ∈ s.notices.records, y.2.deferred = false) :
    posted s x = noticeWritten s d (noticeLine x s.notices.producer s.control.time) := by
  rw [posted, if_neg (by simp [hen]), hwin]
  exact if_pos hroom

/-- An enabled notice is discarded when one of these fails (R175). -/
theorem posted_lost {s : State} {x : Notice} (hen : noticeEnabled s x = true)
    (hshut : ∀ d, s.decoder.windows = some d → ¬ (ringUsed s < d.noticeLines ∧ ∀ y ∈ s.notices.records, y.2.deferred = false)) :
    posted s x = noticeLost s := by
  rw [posted, if_neg (by simp [hen])]
  split
  · rfl
  · next d hd => exact if_neg (hshut d hd)

/-- While the ring has room and is no longer than R23 lets it be, one more notice leaves the counts different (R176). -/
theorem producer_succ_ne_consumer {s : State} {d : Windows} (hused : ringUsed s < d.noticeLines) (hlines : d.noticeLines ≤ 4096) :
    s.notices.producer + 1 ≠ s.notices.consumer := by
  intro heq
  have hfull : ringUsed s = 2 ^ 32 - 1 := by
    rw [ringUsed, ← heq, show s.notices.producer - (s.notices.producer + 1) = -1 by ring]
    rfl
  omega

/-- Settles O20: what the ring and the enables make of the post. -/
theorem partialWritePosts : Obligations.PartialWritePosts := by
  intro s presented w rest o d hcalm h hw ho
  have hexec := exec_writeAccepted_partial hcalm h hw ho
  have hen : noticeEnabled (forwarded s w rest) (.partialWrite w.addr o (enablesSet w.enables)) = s.control.enables.intakeFault := rfl
  refine ⟨fun hoff => ?_, fun hon hwin hused hdef => ⟨?_, fun hlines => ?_⟩, fun hon hlost => ?_⟩
  · rw [hexec, posted, if_pos (hen.trans hoff)]
  · rw [hexec, posted_written (hen.trans hon) hwin ⟨hused, hdef⟩]
    rfl
  · rw [State.attention, withRef_notices]
    exact decide_eq_true (producer_succ_ne_consumer hused hlines)
  · rw [hexec, posted_lost (hen.trans hon) fun d' hd' hroom => ?_]
    · rfl
    · rcases hlost with hnone | ⟨hd, hfull⟩ | ⟨y, hy, hdeferred⟩
      · cases hnone.symm.trans hd'
      · cases hd.symm.trans hd'
        exact absurd hroom.1 (Nat.not_lt.2 hfull)
      · cases (hroom.2 y hy).symm.trans hdeferred

/-! ### READ_ACCEPTED, READ_RESPONSE and HOLD_DEADLINE (R3, R12, R14) -/

theorem exec_readAccepted {s : State} {a : Addr} {tag : Nat} (hr : s.inReset = false) (ha : a.toNat % 64 = 0) :
    exec (.readAccepted a tag) s = .next (acceptRead s a tag) := by
  have ha' : Addr.aligned a = true := by simp [Addr.aligned, ha]
  exact (if_pos ha').trans (live_released hr _)

theorem readResultLine_pending {s : State} {n i l : Nat} {p : PendingSlot} (hc : addressClass s n = .resultLine i l)
    (hp : s.paths.pendingSlots.get? i = some p) : readResultLine s n = some (i, l) := by
  simp [readResultLine, hc, Table.has, hp]

/-- A read meets a result line of a pending slot only. -/
theorem readResultLine_eq_some {s : State} {n i l : Nat} (h : readResultLine s n = some (i, l)) :
    addressClass s n = .resultLine i l ∧ ∃ p, s.paths.pendingSlots.get? i = some p := by
  unfold readResultLine at h
  split at h
  · next i' l' hc =>
    split at h
    · next hp =>
      cases h
      exact ⟨hc, Option.isSome_iff_exists.1 hp⟩
    · cases h
  · cases h

/-- A read is held while the line is still to be written, the timeout is not 0 and an entry is free (R12). -/
theorem holds_iff {s : State} {i l : Nat} {p : PendingSlot} (hp : s.paths.pendingSlots.get? i = some p) :
    holds s i l = true ↔
      (l = 1 ∨ l = 2 ∧ p.line2Issued = false) ∧ s.control.holdTimeout ≠ 0 ∧
        s.system.holds.length < Config.holdEntries := by
  simp [holds, resultAwaited, hp, and_assoc, -Config.holdEntries]

/-- Settles O21: `holds` decides, and only a result line of a pending slot comes to it. -/
theorem readHeldOrForwarded : Obligations.ReadHeldOrForwarded := by
  intro s a tag hr ha
  refine ⟨fun i l p hc hp hline htime hroom => ?_, fun hnot => ?_⟩
  · rw [exec_readAccepted hr ha]
    simp only [acceptRead, readResultLine_pending hc hp, (holds_iff hp).2 ⟨hline, htime, hroom⟩, if_true]
    rfl
  · rw [exec_readAccepted hr ha]
    have hforward : acceptRead s a tag = forwardRead s a tag := by
      unfold acceptRead
      split
      · next i l hres =>
        obtain ⟨hc, p, hp⟩ := readResultLine_eq_some hres
        refine if_neg fun hh => ?_
        obtain ⟨hline, htime, hroom⟩ := (holds_iff hp).1 hh
        rcases hnot i l p hc hp with ⟨h1, h2⟩ | h0 | h8
        · rcases hline with rfl | ⟨rfl, hissued⟩
          · exact h1 rfl
          · cases hissued.symm.trans (h2 rfl)
        · exact htime h0
        · exact absurd hroom (Nat.not_lt.2 h8)
      · rfl
    rw [hforward]
    rfl

/-- The oldest read of a tag leaves the reads in flight. -/
theorem removeRead_append {tag : Nat} {a : Addr} (before after : List (Nat × Addr)) (h : ∀ r ∈ before, r.1 ≠ tag) :
    removeRead tag (before ++ (tag, a) :: after) = before ++ after := by
  induction before with
  | nil => simp [removeRead]
  | cons r before ih =>
    obtain ⟨hr, hbefore⟩ := List.forall_mem_cons.1 h
    simp [removeRead, hr, ih hbefore]

/-- Settles O22: the read leaves the reads in flight, or the hold its entry once its deadline is reached. -/
theorem readsAnsweredAndReleased : Obligations.ReadsAnsweredAndReleased := by
  refine ⟨fun s tag answer before after a hr hreads hbefore => ?_,
    fun s before after h hr hholds => ⟨fun hdue => ?_, fun hearly => ?_⟩⟩
  · refine (live_released hr (fun s => returnResponse s tag answer)).trans ?_
    simp [returnResponse, hreads, removeRead_append before after hbefore]
  all_goals
    refine (live_released hr (fun s => releaseDue s before.length)).trans ?_
    have hget : s.system.holds[before.length]? = some h := by simp [hholds]
    simp only [releaseDue, hget]
  · rw [if_pos hdue]
    simp [forwardRead, hholds, List.eraseIdx_append_of_length_le]
  · rw [if_neg (Nat.not_le.2 hearly)]

/-! ### WRITE_BACK_ISSUE (R13, R16) -/

theorem exec_writeBackIssue {s : State} {x : WbItem} {rest : List WbItem} (hr : s.inReset = false)
    (hq : s.writeBack.queue = x :: rest) :
    exec .writeBackIssue s = .next (issueItem { s with writeBack := { s.writeBack with queue := rest } } x) := by
  refine (live_released hr issueOldest).trans ?_
  simp only [issueOldest, hq]

/-- Settles O23: a reference's line and data are those that `refTarget` and `refLine` gather at its issue. -/
theorem oldestItemIssued : Obligations.OldestItemIssued := by
  refine fun s rest hr => ⟨fun target data hq => exec_writeBackIssue hr hq, fun r line data hq hgathered => ?_⟩
  have hgathered' : (line, data) = (refTarget s r, refLine s r) := by
    rw [hgathered]
    cases r <;> rfl
  cases hgathered'
  rw [exec_writeBackIssue hr hq]
  cases r <;> rfl

/-- What the issue of a result line does to the pending set (R12, R139). -/
def slotsIssued (slots : Table PendingSlot) (m : ResultMark) : Table PendingSlot :=
  match slots.get? m.slot with
  | none => slots
  | some p =>
    if p.serial ≠ m.serial then slots
    else if m.line = 1 then slots.erase m.slot
    else slots.set m.slot { p with line2Issued := true }

/-- The issue of a result line releases the reads held on it, in their order, and changes the pending set. -/
theorem resultIssued_eq (s : State) (m : ResultMark) :
    let onLine := fun h : Hold => h.slot == m.slot && h.line == m.line
    resultIssued s m = { s with
      memory := { s.memory with
        sequence := s.memory.sequence ++ (s.system.holds.filter onLine).map (fun h => .read h.addr h.tag)
        reads := s.memory.reads ++ (s.system.holds.filter onLine).map (fun h => (h.tag, h.addr)) }
      system := { s.system with holds := s.system.holds.filter (fun h => !onLine h) }
      paths := { s.paths with pendingSlots := slotsIssued s.paths.pendingSlots m } } := by
  simp only [resultIssued, forwardHolds_eq, slotsIssued]
  cases s.paths.pendingSlots.get? m.slot with
  | none => rfl
  | some p =>
    dsimp only
    split
    · rfl
    · split <;> rfl

/-- Settles O24: the line's write, the reads held on it, and the pending set. -/
theorem resultIssueReleasesHolds : Obligations.ResultIssueReleasesHolds := by
  intro s target data m rest hr hq onLine issued
  have hexec : exec .writeBackIssue s = .next (issued (slotsIssued s.paths.pendingSlots m)) := by
    rw [exec_writeBackIssue hr hq]
    exact congrArg Host.Outcome.next (resultIssued_eq _ m)
  refine ⟨fun p hp hserial => ?_, fun hother => ?_⟩
  · rw [hexec]
    simp only [slotsIssued, hp, hserial, ne_eq, not_true_eq_false, if_false]
  · have hslots : slotsIssued s.paths.pendingSlots m = s.paths.pendingSlots := by
      unfold slotsIssued
      split
      · rfl
      · next p hp => exact if_pos (hother p hp)
    rw [hexec, hslots]

/-! ### WRITE_BACK_ROOM, RESPONSE_WRITE and STRIKE_QUEUE_ROOM (R18, R22, R104) -/

theorem notFull_of_lt {s : State} (h : s.writeBack.queue.length < 64) : notFull s = true := decide_eq_true h

theorem notFull_of_ge {s : State} (h : 64 ≤ s.writeBack.queue.length) : notFull s = false := decide_eq_false (Nat.not_lt.2 h)

/-- A reference adds nothing while it is idle. -/
theorem withRef_of_idle {s : State} {r : Ref} (h : refIdle s r = true) : withRef s r = s := by
  rw [refIdle_eq, decide_eq_true_eq] at h
  exact if_pos h

/-- A reference that is not idle joins the queue. -/
theorem withRef_of_not_idle {s : State} {r : Ref} (h : refIdle s r = false) : withRef s r = enqueue s (.ref r) := by
  rw [refIdle_eq, decide_eq_false_iff_not] at h
  exact if_neg h

/-- With a place given to it, a reference is queued unless it is idle (R16, R17). -/
theorem queueRef_given {s : State} (t : Thread) (r : Ref) (h : notFull s = true) : queueRef true t r s = .done (withRef s r) [] := by
  rcases queueRef_cases true t r s with ⟨hi, e⟩ | ⟨hi, -, e⟩ | ⟨-, hfull, -⟩
  · rw [e, withRef_of_idle hi]
  · rw [e, withRef_of_not_idle hi]
  · cases h.symm.trans hfull

theorem withRef_putOps (s : State) (r : Ref) (t : Thread) (ops : List Op) :
    withRef (s.putOps t ops) r = (withRef s r).putOps t ops := by
  cases h : refIdle s r with
  | true => rw [withRef_of_idle h, withRef_of_idle (s := s.putOps t ops) h]
  | false =>
    rw [withRef_of_not_idle h, withRef_of_not_idle (s := s.putOps t ops) h]
    rfl

theorem Threads.none_put_nil (t : Thread) : Threads.none.put t [] = Threads.none := by
  rw [← Threads.get_none t, Threads.put_get]

/-- A part without steps to come is settled. -/
theorem settleAll_idle {s : State} (h : s.threads = Threads.none) : settleAll s = s := by
  refine settleAll_of_quiescent (List.find?_eq_none.2 fun t _ => ?_)
  simp [canRun, h]

theorem withRef_threads (s : State) (r : Ref) : (withRef s r).threads = s.threads := by
  unfold withRef
  split <;> rfl

/-- An operation whose last step is a reference item, with the freed place given to it: the reference is queued, and nothing more is
to be done (R18). -/
theorem settleAll_micro_ref {s : State} {t : Thread} {r : Ref} (hthreads : s.threads = Threads.none.put t [.ref r])
    (hroom : notFull s = true) : settleAll (micro true t s) = withRef { s with threads := Threads.none } r := by
  have hmicro : micro true t s = withRef { s with threads := Threads.none } r := by
    have hrun : runOp true t (.ref r) s = .done (withRef s r) [] := queueRef_given t r hroom
    have hnone : s.putOps t [] = { s with threads := Threads.none } := by
      rw [State.putOps, hthreads, Threads.put_put, Threads.none_put_nil]
    simp only [micro, hthreads, Threads.get_put_self, hrun, List.nil_append]
    rw [← withRef_putOps, hnone]
  rw [hmicro, settleAll_idle (withRef_threads _ r)]

/-- A topology operation whose last step is a strike event sends it once it waits no more and the strike queue has room (R104). -/
theorem settleAll_event {s : State} {e : Strike} (hthreads : s.threads = Threads.none) (hwait : s.writeBack.waiters = [])
    (hturn : s.notices.turn = []) (hstrike : s.topology.strikeWait = false) (hroom : s.paths.strikes.length < 32) :
    settleAll (s.putOps .topology [.event e]) = { s with paths := { s.paths with strikes := s.paths.strikes ++ [e] } } := by
  have halone : Alone .topology s :=
    ⟨fun u _ => by rw [hthreads, Threads.get_none], fun u => by simp [hwait], .inl hturn, hstrike⟩
  have hrun : runOp false .topology (.event e) (s.putOps .topology [.event e]) =
      .done (({ s with paths := { s.paths with strikes := s.paths.strikes ++ [e] } } : State).putOps .topology [.event e]) [] :=
    if_pos hroom
  rw [settled_step halone hrun, List.nil_append, State.putOps]
  have hnone : s.threads.put .topology [] = s.threads := by rw [hthreads, Threads.none_put_nil]
  rw [hnone]
  exact settleAll_idle hthreads

/-- Settles O25: the first in line takes the freed place, or the suspended operation the place of an event, and goes on. -/
theorem waitersResume : Obligations.WaitersResume := by
  refine ⟨fun s t r others hr hwait _ _ _ hthreads => ?_, fun s others hr hwait => ?_, fun s others hr hwait => ?_,
    fun s e hr hstrike hwait hturn hthreads => ?_⟩
  · have hexec : exec .writeBackRoom s = .next (if notFull s then settleAll (micro true t (dropWaiter s)) else s) := by
      refine (live_released hr giveRoom).trans ?_
      simp only [giveRoom, hwait]
    refine ⟨fun hfull => ?_, fun hroom => ?_⟩
    · rw [hexec, notFull_of_ge hfull, if_neg Bool.false_ne_true]
    · rw [hexec, notFull_of_lt hroom, if_pos rfl, settleAll_micro_ref (s := dropWaiter s) hthreads (notFull_of_lt hroom)]
      simp only [dropWaiter, hwait, List.tail_cons]
  · have hexec : exec .writeBackRoom s = .next (if notFull s then
        (if refQueued s .status then dropWaiter s else enqueue (dropWaiter s) (.ref .status)) else s) := by
      refine (live_released hr giveRoom).trans ?_
      simp only [giveRoom, hwait]
    refine ⟨fun hfull => ?_, fun hroom => ?_⟩
    · rw [hexec, notFull_of_ge hfull, if_neg Bool.false_ne_true]
    · rw [hexec, notFull_of_lt hroom, if_pos rfl]
      simp [withRef, refQueued, dropWaiter, enqueue, hwait]
  · have hexec : exec .responseWrite s = .next (if notFull s then
        enqueue (dropWaiter s) (.content (anchorBase s + 1) (responseLine s) none) else s) := by
      refine (live_released hr giveResponseRoom).trans ?_
      simp only [giveResponseRoom, hwait]
    refine ⟨fun hfull => ?_, fun hroom => ?_⟩
    · rw [hexec, notFull_of_ge hfull, if_neg Bool.false_ne_true]
    · rw [hexec, notFull_of_lt hroom, if_pos rfl]
      simp only [enqueue, dropWaiter, hwait, List.tail_cons]
  · refine ⟨fun hfull => ?_, fun hroom => ?_⟩
    · refine (live_released hr giveStrikeRoom).trans (congrArg Host.Outcome.next (if_neg fun h => ?_))
      exact Nat.not_lt.2 hfull h.2
    · have hlast : ({ s with topology := { s.topology with strikeWait := false } } : State) =
          ({ s with threads := Threads.none, topology := { s.topology with strikeWait := false } } : State).putOps .topology
            [.event e] := by
        rw [State.putOps, ← hthreads]
      refine (live_released hr giveStrikeRoom).trans (congrArg Host.Outcome.next ((if_pos ⟨hstrike, hroom⟩).trans ?_))
      rw [hlast]
      exact settleAll_event rfl hwait hturn rfl hroom

/-! ### LOAD_PROFILE and the answer to its read (R4, R24, R25, R35) -/

/-- Settles O29: both checks are passed, and the read enters the memory sequence. -/
theorem loadProfileStartsItsRead : Obligations.LoadProfileStartsItsRead := by
  intro s r hr hc hdomain haddr hempty
  have hrun : runLoadProfile r (dealtWith s) =
      startOwnRead (begin (dealtWith s) r (.readInFlight (profileDomainArg r))) (profileAddrArg r) := by
    have harg : ¬ (Config.domains ≤ profileDomainArg r ∨ Addr.aligned (profileAddrArg r) = false) := by
      simpa [Addr.aligned, haddr] using hdomain
    have hfree : ¬ ((dealtWith s).control.mode = .run ∧ domainInUse (dealtWith s) (profileDomainArg r) = true) := by
      rintro ⟨hm, hin⟩
      obtain ⟨x, hx, hxd⟩ := List.any_eq_true.1 hin
      exact hempty hm x hx (by simpa using hxd)
    rw [runLoadProfile, if_neg harg, if_neg hfree]
  have hcode : hasCode codeLoadProfile r = true := by simp [hasCode, hc.code]
  refine (live_released hr (onRecord (hasCode codeLoadProfile) runLoadProfile)).trans ?_
  rw [onRecord_commanded hc hcode hrun rfl]
  rfl

/-- The record of a profile passes its checks when each field lies in its range (R42). -/
theorem profileOk_iff (l : Line) : profileOk l = true ↔
    (fieldNat l 1 1 = 1 ∨ fieldNat l 1 1 = 2 ∨ fieldNat l 1 1 = 4) ∧ fieldNat l 0 1 ≤ 79 ∧ 1 ≤ fieldNat l 2 1 ∧
      fieldNat l 2 1 ≤ 128 ∧ fieldNat l 4 2 ≠ 0 ∧ fieldNat l 3 1 ≤ 31 ∧ fieldNat l 6 2 ≠ 65535 := by
  simp [profileOk, and_assoc, or_assoc, Nat.one_le_iff_ne_zero]

/-- The part's own read is no longer in flight (R4). -/
def ownReadAnswered (s : State) : State := { s with memory := { s.memory with ownRead := none } }

theorem Calm.ownReadAnswered {s : State} {n : Nat} (h : Calm s n) : Calm (ownReadAnswered s) n :=
  ⟨h.released, h.threads, h.waiters, h.turn, h.strikeWait, h.room⟩

section
variable {s : State} {a : Addr} {r : Line} (hread : s.memory.ownRead = some a)
include hread

theorem answerProfileRead_error {d : Nat} (hp : s.control.inProgress = some { record := r, phase := .readInFlight d }) :
    answerProfileRead .error s = completeCommand (ownReadAnswered s) .memoryFault := by
  simp only [answerProfileRead, hread, hp, Option.isNone_some, Bool.false_eq_true, if_false]
  rfl

theorem answerProfileRead_line {d : Nat} (hp : s.control.inProgress = some { record := r, phase := .readInFlight d }) (l : Line) :
    answerProfileRead (.line l) s =
      if profileOk l then setPhase (ownReadAnswered s) (.awaitInstall d (profileOf l))
      else completeCommand (ownReadAnswered s) .badArgument := by
  simp only [answerProfileRead, hread, hp, Option.isNone_some, Bool.false_eq_true, if_false]
  rfl

theorem answerProfileRead_abandoned (hp : s.control.inProgress = some { record := r, phase := .awaitRead }) (answer : ReadData) :
    answerProfileRead answer s = completeCommand (ownReadAnswered s) .done := by
  simp only [answerProfileRead, hread, hp, Option.isNone_some, Bool.false_eq_true, if_false]
  rfl

end

/-- Settles O30: the phase of the command in progress decides what the answer is for. -/
theorem profileReadAnswered : Obligations.ProfileReadAnswered := by
  intro s r a d hcalm hread
  have hexec : ∀ answer, exec (.profileReadResponse answer) s = .next (answerProfileRead answer s) :=
    fun answer => live_released hcalm.released (answerProfileRead answer)
  have hcomplete : ∀ phase o, s.control.inProgress = some { record := r, phase } →
      completeCommand (ownReadAnswered s) o = answered (ownReadAnswered s) r o :=
    fun _ o hp => completeCommand_calm hcalm.ownReadAnswered hp o
  refine ⟨fun hp => ⟨?_, fun l => ⟨fun hbad => ?_, fun hok => ?_⟩⟩, fun hp answer => ?_⟩
  · rw [hexec, answerProfileRead_error hread hp, hcomplete _ _ hp]
    rfl
  · rw [hexec, answerProfileRead_line hread hp, if_neg (mt (profileOk_iff l).1 hbad), hcomplete _ _ hp]
    rfl
  · rw [hexec, answerProfileRead_line hread hp, if_pos hok, setPhase, show (ownReadAnswered s).control.inProgress = _ from hp]
    rfl
  · rw [hexec, answerProfileRead_abandoned hread hp, hcomplete _ _ hp]
    rfl

end Sys2Proof.Machine

/-!
PROOFS. The anchor page: the commands of the control unit, the operating modes and the lines the part writes (O2, O11, O18, O26 to
O28, O31 to O39, O60).
-/

namespace Sys2Proof.Machine

/-! ### The time base (R38) -/

/-- Settles O2: the step on an empty queue is a tick. -/
theorem tickCountsMicroseconds : Obligations.TickCountsMicroseconds := by
  intro s hs
  have hstep : step s = .next (tick s) := by simp only [step, hs]
  refine ⟨fun hr => ?_, fun hr => ?_⟩ <;> rw [hstep, tick, hr]
  · rw [if_pos rfl]
  · rw [if_neg Bool.false_ne_true]

/-! ### A command that is carried out at once (R21, R22) -/

theorem Commanded.hasCode {s : State} {r : Line} {code : Nat} (h : Commanded s r code) : hasCode code r = true := by
  simp [Machine.hasCode, h.code]

/-- A command's step on its record, which is the only one handed over. -/
theorem exec_commanded {s t : State} {r : Line} {code : Nat} {c : Instr} {p : Line → Bool} {f : Line → State → State}
    (hexec : exec c s = live s (onRecord p f)) (hr : s.inReset = false) (hc : Commanded s r code) (hp : p r = true)
    (ht : f r (dealtWith s) = t) (hh : t.control.handed = []) : exec c s = .next t := by
  rw [hexec, live_released hr, onRecord_commanded hc hp ht hh]

/-- A command that queues nothing but its outcome. -/
theorem exec_finished {s u : State} {r : Line} {code n : Nat} {c : Instr} {p : Line → Bool} {f : Line → State → State} {o : CmdOutcome}
    (hexec : exec c s = live s (onRecord p f)) (hr : s.inReset = false) (hc : Commanded s r code) (hp : p r = true)
    (ht : f r (dealtWith s) = finishRecord u r o) (hu : Calm u (n + 1)) (hh : u.control.handed = []) :
    exec c s = .next (answered u r o) :=
  exec_commanded hexec hr hc hp (ht.trans (finishRecord_calm hu r o)) hh

/-- A command that fails a check has no effect but its outcome. -/
theorem exec_failed {s : State} {r : Line} {code n : Nat} {c : Instr} {p : Line → Bool} {f : Line → State → State} {o : CmdOutcome}
    (hexec : exec c s = live s (onRecord p f)) (hcalm : Calm s (n + 1)) (hc : Commanded s r code) (hp : p r = true)
    (ht : f r (dealtWith s) = finishRecord (dealtWith s) r o) : exec c s = .next (answered (dealtWith s) r o) :=
  exec_finished hexec hcalm.released hc hp ht hcalm.dealtWith rfl

/-- A command whose items are references. -/
theorem exec_performed {s u : State} {r : Line} {code n : Nat} {c : Instr} {p : Line → Bool} {f : Line → State → State}
    (rs : List Ref) (hexec : exec c s = live s (onRecord p f)) (hr : s.inReset = false) (hc : Commanded s r code) (hp : p r = true)
    (ht : f r (dealtWith s) = performing u r (rs.map Op.ref)) (hu : Calm u (n + 1 + rs.length)) (hh : u.control.handed = []) :
    exec c s = .next (answered (withRefs u rs) r .done) :=
  exec_commanded hexec hr hc hp (ht.trans (performing_refs r rs hu)) (by simpa [answered, withContent] using hh)

/-! ### UNKNOWN_COMMAND, LOAD_CLASSES, SET_TIMING (R21, R26, R27) -/

theorem unknownCode_iff (r : Line) : unknownCode r = true ↔ 10 < (cmdCode r).toNat := by
  have h0 : cmdCode r = 0 ↔ (cmdCode r).toNat = 0 := (BitVec.toNat_inj (y := 0)).symm
  simp only [unknownCode, cmdKnown, Bool.and_eq_true, decide_eq_true_eq, Bool.not_eq_true', Bool.and_eq_false_iff,
    decide_eq_false_iff_not, ne_eq, h0]
  omega

theorem classArgOk_iff (e : ClassEntry) :
    classArgOk e = true ↔ (e.width = 1 ∨ e.width = 2) ∧ 1 ≤ e.budget ∧ e.budget ≤ 65534 := by simp [classArgOk]

/-- Settles O26: each of the three queues nothing but its outcome. -/
theorem classesTimingAndUnknownResults : Obligations.ClassesTimingAndUnknownResults := by
  refine ⟨fun s r hcalm hc _ hcode => ?_, fun s r hcalm hc hm hp hok => ?_, fun s r hcalm hc => ?_⟩
  · exact exec_failed rfl hcalm hc ((unknownCode_iff r).2 hcode) rfl
  · have hclasses : (classArgs r).all classArgOk = true := List.all_eq_true.2 fun e he => (classArgOk_iff e).2 (hok e he)
    have hrun : runLoadClasses r (dealtWith s) =
        finishRecord { dealtWith s with profiles := { s.profiles with classes := classArgs r } } r .done := by
      have hm' : (dealtWith s).control.mode = .off := hm
      have hp' : (dealtWith s).paths.entries = [] := hp
      simp only [runLoadClasses, hm', hp', hclasses, ne_eq, not_true_eq_false, Bool.not_true, Bool.false_eq_true, if_false]
      rfl
    exact exec_finished (n := 0) rfl hcalm.released hc hc.hasCode hrun
      ⟨hcalm.released, hcalm.threads, hcalm.waiters, hcalm.turn, hcalm.strikeWait, hcalm.room⟩ rfl
  · exact exec_finished (n := 0) (u := { dealtWith s with control := { (dealtWith s).control with holdTimeout := timingArg r } })
      rfl hcalm.released hc hc.hasCode rfl
      ⟨hcalm.released, hcalm.threads, hcalm.waiters, hcalm.turn, hcalm.strikeWait, hcalm.room⟩ rfl

/-! ### START (R30) -/

/-- Settles O34: both checks are passed, and the status line reference is the only item. -/
theorem startResult : Obligations.StartResult := by
  intro s r w hcalm hc hm hw
  have hrun : runStart r (dealtWith s) = performing (setMode (refreshAll (dealtWith s)) .run) r ([Ref.status].map Op.ref) := by
    refine if_neg ?_
    rw [show (dealtWith s).control.mode = .off from hm, show (dealtWith s).decoder.windows = some w from hw]
    simp
  exact exec_performed (n := 0) [.status] rfl hcalm.released hc hc.hasCode hrun
    ⟨hcalm.released, hcalm.threads, hcalm.waiters, hcalm.turn, hcalm.strikeWait, hcalm.room⟩ rfl

/-! ### SET_REPORTING and CLEAR_PATHS (R28, R34, R182) -/

theorem Table.get?_eq_none_of_lt {α : Type} {t : Table α} {i : Nat} (h : ∀ x ∈ t, i < x.1) : t.get? i = none := by
  induction t with
  | nil => rfl
  | cons x t ih =>
    obtain ⟨hx, ht⟩ := List.forall_mem_cons.1 h
    rw [Table.get?, if_neg (Nat.ne_of_gt hx), ih ht]

/-- In a table in canonical form the indices behind the first entry lie above it. -/
theorem Table.ascending_cons {α : Type} {x : Nat × α} {t : Table α} :
    Table.ascending (x :: t) ↔ (∀ y ∈ t, x.1 < y.1) ∧ t.ascending := by
  simp [Table.ascending, Table.keys, List.pairwise_cons]

theorem Table.getD_cons {α : Type} (x : Nat × α) (t : Table α) (i : Nat) (d : α) :
    Table.getD (x :: t) i d = if x.1 = i then x.2 else Table.getD t i d := by
  rw [Table.getD, Table.get?]
  split <;> rfl

/-- With every path notice record idled, the record of each path is its old one idled. -/
theorem getD_idleRecords {t : Table NoticeRecord} (h : t.ascending) (p : Nat) :
    (idleRecords t).getD p NoticeRecord.idle = (t.getD p NoticeRecord.idle).toIdle := by
  induction t with
  | nil => rfl
  | cons x t ih =>
    obtain ⟨hx, ht⟩ := Table.ascending_cons.1 h
    rw [Table.getD_cons]
    by_cases hi : x.2.toIdle = NoticeRecord.idle
    · rw [show idleRecords (x :: t) = idleRecords t by simp [idleRecords, hi]]
      split
      · next hp =>
        have hnone : (idleRecords t).get? p = none := by
          refine Table.get?_eq_none_of_lt fun y hy => ?_
          obtain ⟨z, hz, rfl⟩ := List.mem_map.1 (List.mem_of_mem_filter hy)
          exact hp ▸ hx z hz
        rw [hi, Table.getD, hnone, Option.getD_none]
      · exact ih ht
    · rw [show idleRecords (x :: t) = (x.1, x.2.toIdle) :: idleRecords t by simp [idleRecords, hi], Table.getD_cons]
      split
      · rfl
      · exact ih ht

/-- Settles O33: the records are kept or idled, and a set NOTICES_LOST brings the status line reference. -/
theorem setReportingResult : Obligations.SetReportingResult := by
  intro s r hcalm hc
  refine ⟨if flagBit r 4 2 then s.notices.records else idleRecords s.notices.records, fun h => if_pos h, fun h hasc p => ?_, ?_⟩
  · rw [if_neg (by simp [h]), getD_idleRecords hasc]
    rfl
  · have hu : Calm (setReporting (dealtWith s) (enablesArg r)) 2 :=
      ⟨hcalm.released, hcalm.threads, hcalm.waiters, hcalm.turn, hcalm.strikeWait, hcalm.room⟩
    cases hl : s.notices.lost with
    | true =>
      have hrun : runSetReporting r (dealtWith s) =
          performing (setReporting (dealtWith s) (enablesArg r)) r ([Ref.status].map Op.ref) := if_pos hl
      exact exec_performed (n := 0) [.status] rfl hcalm.released hc hc.hasCode hrun hu rfl
    | false =>
      have hrun : runSetReporting r (dealtWith s) = finishRecord (setReporting (dealtWith s) (enablesArg r)) r .done :=
        if_neg (by simp [dealtWith, hl])
      exact exec_finished rfl hcalm.released hc hc.hasCode hrun hu rfl

/-- Settles O38: the paths' references and the status line's are the items, and the records are idled. -/
theorem clearPathsResult : Obligations.ClearPathsResult := by
  intro s r hcalm hc hm
  refine ⟨idleRecords s.notices.records, fun hasc p => getD_idleRecords hasc p, ?_⟩
  have hrun : runClearPaths r (dealtWith s) = performing (clearPaths (dealtWith s)) r
      ((List.map (fun x => Ref.path x.1) s.paths.entries ++ [Ref.status]).map Op.ref) := by
    have hrefs : pathRefs s ++ [.ref .status] = (List.map (fun x => Ref.path x.1) s.paths.entries ++ [Ref.status]).map Op.ref := by
      simp [pathRefs, Table.keys]
    exact (if_neg (by simp [dealtWith, hm])).trans (congrArg (performing _ r) hrefs)
  refine exec_performed (n := 0) _ rfl hcalm.released hc hc.hasCode hrun ?_ rfl
  have h := hcalm.fewer (m := 0 + 1 + (List.map (fun x => Ref.path x.1) s.paths.entries ++ [Ref.status]).length)
    (by simp only [List.length_append, List.length_map, List.length_singleton]; omega)
  exact ⟨h.released, h.threads, h.waiters, h.turn, h.strikeWait, h.room⟩

/-! ### A record that meets a command in progress (R21, R22) -/

/-- Settles O18: the record is ignored or refused, and the image is queued at once. -/
theorem commandInProgressRefusesOthers : Obligations.CommandInProgressRefusesOthers := by
  intro s presented w rest c h hp hw hc hh hrun hwait hroom
  have hcw : writeClass s (lineNumber w.addr) = .anchorCommand := by simp [writeClass, hc]
  have hb : backpressure s w = false := by simp [backpressure, hcw]
  have hexec : exec (.writeAccepted presented) s = .next (handCommand (forwarded s w rest) w.data) :=
    exec_writeAccepted_full h hp hw hb hcw
  refine ⟨fun h0 => ?_, fun ⟨hne, hcode⟩ => ?_⟩
  · rw [hexec, handCommand_ignored (s := forwarded s w rest) hh h0]
  · have hne' : cmdCode w.data ≠ 0 := fun e => hne (by rw [e]; rfl)
    have hrefused : isRefused (forwarded s w rest) w.data = true := (isRefused_iff _ _).2 ⟨c, hrun, hcode⟩
    have himage : ∀ u : State, u.writeBack = s.writeBack →
        imageWrite u = withContent u (anchorBase u + 1) (responseLine u) none := by
      intro u hu
      simp only [imageWrite, placeFree, hu, hwait]
      simp [hroom, withContent, enqueue]
    intro s1
    have hhand : handCommand (forwarded s w rest) w.data = withContent s1 (anchorBase s1 + 1) (responseLine s1) none := by
      have hfh : (forwarded s w rest).control.handed = [] := hh
      have hs1 : refuseRecord (forwarded s w rest) w.data = withContent s1 (anchorBase s1 + 1) (responseLine s1) none :=
        himage s1 rfl
      have hkeep : ∀ u : State, u.control.handed = [] → judgeCommands [] u = u := by
        intro u hu
        simp only [judgeCommands]
        rw [← hu]
      simp only [handCommand, hfh, List.nil_append, judgeCommands, hne', hrefused, if_false, if_true]
      rw [hs1]
      exact hkeep _ hh
    rw [hexec, hhand]
    rfl

end Sys2Proof.Machine

namespace Sys2Proof.Machine

/-! ### The checks of SET_WINDOWS (R23) -/

theorem allApart_iff (ws : List (Nat × Nat)) : allApart ws = true ↔ ws.Pairwise (fun x y => windowsApart x y = true) := by
  induction ws with
  | nil => simp [allApart]
  | cons w ws ih => simp [allApart, ih]

/-- Two windows of at least one line, given by their base byte addresses, share no line exactly when they share no byte. -/
theorem windowsApart_iff_bytes {x y : Nat × Nat} (hx : x.1 % 64 = 0) (hy : y.1 % 64 = 0) (hx' : 1 ≤ x.2) (hy' : 1 ≤ y.2) :
    windowsApart (x.1 / 64, x.2) (y.1 / 64, y.2) = true ↔
      ∀ b, ¬ (x.1 ≤ b ∧ b < x.1 + 64 * x.2 ∧ y.1 ≤ b ∧ b < y.1 + 64 * y.2) := by
  simp only [windowsApart, Bool.or_eq_true, decide_eq_true_eq]
  constructor
  · intro h b
    omega
  · intro h
    have hmax := h (max x.1 y.1)
    omega

/-- A notice window's number of lines is a power of two, as far as R23 lets it reach. -/
theorem powerOfTwo_iff {n : Nat} (h : n ≤ 4096) : powerOfTwo n = true ↔ ∃ k, n = 2 ^ k := by
  simp only [powerOfTwo, List.any_eq_true, List.mem_range, beq_iff_eq]
  refine ⟨fun ⟨k, _, hk⟩ => ⟨k, hk⟩, fun ⟨k, hk⟩ => ⟨k, ?_, hk⟩⟩
  have hlt : 2 ^ k < 2 ^ 64 := by omega
  exact (Nat.pow_lt_pow_iff_right (by omega)).1 hlt

/-- What `windowArgsOk` checks, in bytes and numbers. -/
theorem windowArgsOk_iff {s : State} {a : Nat} (ha : s.decoder.anchor = some a) (w : WindowArgs) :
    let windows := [(w.intakeBase, w.intakeLines), (w.requestBase, 3 * w.requestSlots), (w.exportBase, 3840),
      (w.noticeBase, w.noticeLines)]
    windowArgsOk s w = true ↔
      (∀ x ∈ windows, x.1 % 64 = 0 ∧ x.1 + 64 * x.2 ≤ 2 ^ 64) ∧ (1 ≤ w.intakeLines ∧ w.intakeLines ≤ 4096) ∧
      (1 ≤ w.requestSlots ∧ w.requestSlots ≤ 256) ∧ (16 ≤ w.noticeLines ∧ w.noticeLines ≤ 4096 ∧ ∃ n, w.noticeLines = 2 ^ n) ∧
      (windows ++ [(64 * a, 64)]).Pairwise (fun (x y : Nat × Nat) =>
        ∀ b, ¬ (x.1 ≤ b ∧ b < x.1 + 64 * x.2 ∧ y.1 ≤ b ∧ b < y.1 + 64 * y.2)) := by
  intro windows
  have hanchor : anchorBase s = 64 * a / 64 := by
    rw [Nat.mul_div_cancel_left a (by omega)]
    simp [anchorBase, ha]
  have hlines : allApart [(w.intakeBase / 64, w.intakeLines), (w.requestBase / 64, 3 * w.requestSlots),
        (w.exportBase / 64, Config.exportLines), (w.noticeBase / 64, w.noticeLines), (anchorBase s, Config.anchorLines)] = true ↔
      (windows ++ [(64 * a, 64)]).Pairwise (fun (x y : Nat × Nat) => windowsApart (x.1 / 64, x.2) (y.1 / 64, y.2) = true) := by
    rw [hanchor, allApart_iff, ← List.pairwise_map (f := fun x : Nat × Nat => (x.1 / 64, x.2))
      (R := fun x y => windowsApart x y = true)]
    rfl
  have hbytes : (∀ x ∈ windows, x.1 % 64 = 0) → 1 ≤ w.intakeLines → 1 ≤ w.requestSlots → 16 ≤ w.noticeLines →
      ((windows ++ [(64 * a, 64)]).Pairwise (fun (x y : Nat × Nat) => windowsApart (x.1 / 64, x.2) (y.1 / 64, y.2) = true) ↔
        (windows ++ [(64 * a, 64)]).Pairwise (fun (x y : Nat × Nat) =>
          ∀ b, ¬ (x.1 ≤ b ∧ b < x.1 + 64 * x.2 ∧ y.1 ≤ b ∧ b < y.1 + 64 * y.2))) := by
    intro hbases hi hr hn
    have hbase : ∀ x ∈ windows ++ [(64 * a, 64)], x.1 % 64 = 0 := by
      intro x hx
      rcases List.mem_append.1 hx with hx | hx
      · exact hbases x hx
      · rw [List.mem_singleton.1 hx]
        exact Nat.mul_mod_right 64 a
    have hcount : ∀ x ∈ windows ++ [(64 * a, 64)], 1 ≤ x.2 := by
      simp only [windows, List.cons_append, List.nil_append, List.forall_mem_cons, List.not_mem_nil, false_imp_iff, implies_true,
        and_true]
      omega
    exact List.Pairwise.iff_of_mem fun hx hy => windowsApart_iff_bytes (hbase _ hx) (hbase _ hy) (hcount _ hx) (hcount _ hy)
  have hnotice : w.noticeLines ≤ 4096 → (powerOfTwo w.noticeLines = true ↔ ∃ n, w.noticeLines = 2 ^ n) := powerOfTwo_iff
  simp only [windowArgsOk, Bool.and_eq_true, beq_iff_eq, decide_eq_true_eq, windowFits, hlines]
  have hwindows : (∀ x ∈ windows, x.1 % 64 = 0 ∧ x.1 + 64 * x.2 ≤ 2 ^ 64) ↔
      (w.intakeBase % 64 = 0 ∧ w.intakeBase + 64 * w.intakeLines ≤ 2 ^ 64) ∧
      (w.requestBase % 64 = 0 ∧ w.requestBase + 64 * (3 * w.requestSlots) ≤ 2 ^ 64) ∧
      (w.exportBase % 64 = 0 ∧ w.exportBase + 64 * 3840 ≤ 2 ^ 64) ∧
      (w.noticeBase % 64 = 0 ∧ w.noticeBase + 64 * w.noticeLines ≤ 2 ^ 64) := by
    simp only [windows, List.forall_mem_cons, List.not_mem_nil, false_imp_iff, implies_true, and_true]
  have hbases : (∀ x ∈ windows, x.1 % 64 = 0) ↔
      w.intakeBase % 64 = 0 ∧ w.requestBase % 64 = 0 ∧ w.exportBase % 64 = 0 ∧ w.noticeBase % 64 = 0 := by
    simp only [windows, List.forall_mem_cons, List.not_mem_nil, false_imp_iff, implies_true, and_true]
  constructor
  · rintro ⟨⟨⟨⟨⟨⟨⟨⟨⟨⟨⟨⟨hib, hrb⟩, heb⟩, hnb⟩, hi⟩, hr⟩, hn⟩, hpow⟩, hif⟩, hrf⟩, hef⟩, hnf⟩, hap⟩
    exact ⟨hwindows.2 ⟨⟨hib, hif⟩, ⟨hrb, hrf⟩, ⟨heb, hef⟩, hnb, hnf⟩, hi, hr, ⟨hn.1, hn.2, (hnotice hn.2).1 hpow⟩,
      (hbytes (hbases.2 ⟨hib, hrb, heb, hnb⟩) hi.1 hr.1 hn.1).1 hap⟩
  · rintro ⟨hw, hi, hr, ⟨hn16, hn, hpow⟩, hap⟩
    obtain ⟨⟨hib, hif⟩, ⟨hrb, hrf⟩, ⟨heb, hef⟩, hnb, hnf⟩ := hwindows.1 hw
    exact ⟨⟨⟨⟨⟨⟨⟨⟨⟨⟨⟨⟨hib, hrb⟩, heb⟩, hnb⟩, hi⟩, hr⟩, hn16, hn⟩, (hnotice hn).2 hpow⟩, hif⟩, hrf⟩, hef⟩, hnf⟩,
      (hbytes (hbases.2 ⟨hib, hrb, heb, hnb⟩) hi.1 hr.1 hn16).2 hap⟩

/-! ### A command that fails a check (R21, R23, R24, R26, R30, R31, R33, R34) -/

theorem runSetWindows_failed {s : State} {r : Line} {o : CmdOutcome} (ho : o = if s.control.mode ≠ .off then .wrongMode
    else if windowArgsOk s (windowArgs r) = false then .badArgument
    else if s.paths.pendingSlots ≠ [] then .notEmpty else .done) (hne : o ≠ .done) :
    runSetWindows r s = finishRecord s r o := by
  simp only [runSetWindows, Bool.not_eq_true']
  subst ho
  split_ifs at hne ⊢
  exacts [rfl, rfl, rfl, absurd rfl hne, absurd rfl hne]

theorem domainInUse_iff (s : State) (d : Nat) : domainInUse s d = true ↔ ∃ x ∈ s.topology.nodes, x.2.domain = d := by
  simp [domainInUse]

theorem runLoadProfile_failed {s : State} {r : Line} {o : CmdOutcome}
    (ho : o = if 16 ≤ profileDomainArg r ∨ (profileAddrArg r).toNat % 64 ≠ 0 then .badArgument
      else if s.control.mode = .run ∧ ∃ x ∈ s.topology.nodes, x.2.domain = profileDomainArg r then .notEmpty else .done)
    (hne : o ≠ .done) : runLoadProfile r s = finishRecord s r o := by
  have haligned : Addr.aligned (profileAddrArg r) = false ↔ (profileAddrArg r).toNat % 64 ≠ 0 := by simp [Addr.aligned]
  simp only [runLoadProfile, domainInUse_iff, haligned, Config.domains]
  subst ho
  split_ifs at hne ⊢
  exacts [rfl, rfl, absurd rfl hne]

theorem classArgs_bad_iff (r : Line) : (!(classArgs r).all classArgOk) = true ↔
    ∃ e ∈ classArgs r, (e.width ≠ 1 ∧ e.width ≠ 2) ∨ e.budget < 1 ∨ 65534 < e.budget := by
  rw [Bool.not_eq_true', List.all_eq_false]
  refine exists_congr fun e => and_congr_right fun _ => ?_
  rw [classArgOk_iff]
  omega

theorem runLoadClasses_failed {s : State} {r : Line} {o : CmdOutcome} (ho : o = if s.control.mode ≠ .off then .wrongMode
    else if ∃ e ∈ classArgs r, (e.width ≠ 1 ∧ e.width ≠ 2) ∨ e.budget < 1 ∨ 65534 < e.budget then .badArgument
    else if s.paths.entries ≠ [] then .notEmpty else .done) (hne : o ≠ .done) :
    runLoadClasses r s = finishRecord s r o := by
  simp only [runLoadClasses, classArgs_bad_iff]
  subst ho
  split_ifs at hne ⊢
  exacts [rfl, rfl, rfl, absurd rfl hne]

theorem runClearTopology_failed {s : State} {r : Line} {o : CmdOutcome} (ho : o = if s.control.mode ≠ .off then .wrongMode
    else if s.paths.entries ≠ [] then .notEmpty else .done) (hne : o ≠ .done) :
    runClearTopology r s = finishRecord s r o := by
  unfold runClearTopology
  subst ho
  split_ifs at hne ⊢
  exacts [rfl, rfl, absurd rfl hne]

/-- Settles O27: the checks come in their order, and the first that fails gives the outcome. -/
theorem failedCheckHasNoEffect : Obligations.FailedCheckHasNoEffect := by
  refine ⟨fun s r hcalm => ⟨fun hc o ho hne => ?_, fun hc o ho hne => ?_, fun hc o ho hne => ?_, fun hc hm => ?_, fun hc hm => ?_,
    fun hc o ho hne => ?_, fun hc hm => ?_⟩, fun s r a ha => windowArgsOk_iff ha (windowArgs r)⟩
  · exact exec_failed rfl hcalm hc hc.hasCode (runSetWindows_failed (s := dealtWith s) ho hne)
  · exact exec_failed rfl hcalm hc hc.hasCode (runLoadProfile_failed (s := dealtWith s) ho hne)
  · exact exec_failed rfl hcalm hc hc.hasCode (runLoadClasses_failed (s := dealtWith s) ho hne)
  · exact exec_failed rfl hcalm hc hc.hasCode (if_pos hm)
  · exact exec_failed rfl hcalm hc hc.hasCode (if_pos hm)
  · exact exec_failed rfl hcalm hc hc.hasCode (runClearTopology_failed (s := dealtWith s) ho hne)
  · exact exec_failed rfl hcalm hc hc.hasCode (if_pos hm)

/-! ### PROFILE_INSTALLATION, CLEAR_TOPOLOGY and the database (R25, R33, R109, R110) -/

/-- The idle topology unit asks a free arbiter for the database, for the command in progress. -/
theorem requestTopology_command {s : State} {c : Running} (hc : s.control.inProgress = some c)
    (hphase : c.phase = .clearing ∨ ∃ d, c.phase = .reconversion d) (hcode : (cmdCode c.record).toNat ≠ 10)
    (harb : ArbiterFree s) (hidle : s.topology.work = none) :
    requestTopology s = { s with topology := { s.topology with work := some .command }, arbiter := heldBy s .topology } := by
  obtain ⟨hholder, hwaitTopology, hwaitPath⟩ := harb
  have hrestart : restarting s = false := by simpa [restarting, hc] using hcode
  have hwork : commandWork s = true := by
    obtain ⟨record, phase⟩ := c
    rcases hphase with rfl | ⟨d, rfl⟩ <;> simp [commandWork, hc]
  have hready : readyWork s = some .command := if_pos hwork
  simp only [requestTopology, hidle, hrestart, hready, Option.isSome_none, Bool.or_self, Bool.false_eq_true, if_false]
  simp [requestGrant, grantTo, heldBy, hholder, hwaitTopology, hwaitPath]

/-- Settles O31: the topology unit's grant, the domain's nodes and the mode decide. -/
theorem profileInstalled : Obligations.ProfileInstalled := by
  intro s r d p hcalm hp
  have hexec : exec .profileInstallation s = .next (installWaiting s) := live_released hcalm.released installWaiting
  have hunused : (∀ x ∈ s.topology.nodes, x.2.domain ≠ d) → domainInUse s d = false := by
    intro h
    rw [← Bool.not_eq_true, domainInUse_iff]
    rintro ⟨x, hx, hd⟩
    exact h x hx hd
  refine ⟨fun hheld => ?_, fun hfree hnone => ?_, fun hfree hm hsome => ?_, fun harb hidle hm hcode hsome => ?_⟩ <;>
    rw [hexec] <;> simp only [installWaiting, hp]
  · rw [if_pos hheld]
  · have hcalm' : Calm (installProfile s d p) 1 :=
      ⟨hcalm.released, hcalm.threads, hcalm.waiters, hcalm.turn, hcalm.strikeWait, hcalm.room⟩
    rw [if_neg hfree, if_neg (by simp [hunused hnone]), completeCommand_calm hcalm' hp]
    rfl
  · rw [if_neg hfree, if_pos ((domainInUse_iff s d).2 hsome), if_neg hm, completeCommand_calm hcalm hp]
  · have hfree : s.arbiter.holder ≠ some .topology := by rw [harb.1]; nofun
    have hphase : setPhase (installProfile s d p) (.reconversion d) = { s with
        profiles := { s.profiles with domains := s.profiles.domains.set d p }
        control := { s.control with inProgress := some { record := r, phase := .reconversion d } } } := by
      simp only [setPhase, show (installProfile s d p).control.inProgress = _ from hp]
      rfl
    have hask := requestTopology_command (s := setPhase (installProfile s d p) (.reconversion d))
      (c := { record := r, phase := .reconversion d }) (by rw [hphase]) (.inr ⟨d, rfl⟩) (by simp [hcode])
      (by rw [hphase]; exact harb) (by rw [hphase]; exact hidle)
    rw [if_neg hfree, if_pos ((domainInUse_iff s d).2 hsome), if_pos hm, hask, hphase]
    rfl

theorem granted_of_topologyGranted {s : State} {w : Work} {n : Nat} (h : TopologyGranted s w) (hcalm : Calm s n) :
    granted s w = true := by
  obtain ⟨hholder, -, -, hwork⟩ := h
  simp [granted, hholder, hwork, hcalm.threads, Threads.none]

theorem withRef_arbiter (s : State) (r : Ref) : (withRef s r).arbiter = s.arbiter := by
  unfold withRef
  split <;> rfl

theorem withRefs_arbiter (rs : List Ref) (s : State) : (withRefs s rs).arbiter = s.arbiter := by
  induction rs generalizing s with
  | nil => rfl
  | cons r rs ih => exact (ih _).trans (withRef_arbiter s r)

/-- The end of a command's operation: DONE is answered and the grant released (R25, R111). -/
theorem settled_commandEnd {s : State} {n : Nat} {c : Running} (h : Calm s (n + 1)) (hc : s.control.inProgress = some c)
    (hwaitTopology : s.arbiter.waitTopology = false) (hwaitPath : s.arbiter.waitPath = false) :
    settleAll (s.putOps .topology [.complete .done, .topologyEnd]) = topologyIdle (answered s c.record .done) := by
  have hanswered := h.answered c.record .done
  have hidle : Calm (topologyIdle (answered s c.record .done)) n :=
    ⟨hanswered.released, hanswered.threads, hanswered.waiters, hanswered.turn, hanswered.strikeWait, hanswered.room⟩
  rw [settled_complete h hc, settled_topologyEnd (hanswered.alone _) _ hwaitTopology hwaitPath, settled_calm hidle]

/-- A database operation of a command that ends with references: they are queued, DONE is answered and the grant released. -/
theorem launch_command_refs {s : State} {n : Nat} {c : Running} (rs : List Ref) (hcalm : Calm s (n + 1 + rs.length))
    (hc : s.control.inProgress = some c) (hwaitTopology : s.arbiter.waitTopology = false) (hwaitPath : s.arbiter.waitPath = false) :
    launch s .topology (rs.map Op.ref ++ [.complete .done, .topologyEnd]) =
      topologyIdle (answered (withRefs s rs) c.record .done) := by
  have hrefs : Calm (withRefs s rs) (n + 1) := hcalm.withRefs rs
  have harb := withRefs_arbiter rs s
  rw [launch_calm hcalm, settled_refs _ _ _ hcalm,
    settled_commandEnd hrefs (by rw [withRefs_control, hc]) (by rw [harb, hwaitTopology]) (by rw [harb, hwaitPath])]

/-- Settles O37: the command asks for the database, and its operation waits for the strike queue. -/
theorem clearTopologyResults : Obligations.ClearTopologyResults := by
  refine ⟨fun s r hr hc hm hentries harb hidle => ?_, fun s r hcalm hgrant hentries hp => ⟨fun hstrikes => ?_, fun hstrikes => ?_⟩⟩
  · have hrun : runClearTopology r (dealtWith s) = requestTopology (begin (dealtWith s) r .clearing) := by
      refine (if_neg (not_not_intro hm)).trans (if_neg (not_not_intro hentries))
    have hask := requestTopology_command (s := begin (dealtWith s) r .clearing) rfl (.inl rfl) (by simp [hc.code]) harb hidle
    exact exec_commanded rfl hr hc hc.hasCode (hrun.trans hask) rfl
  all_goals
    have hexec : exec .clearTopologyOperation s = .next (clearTopology s) := live_released hcalm.released clearTopology
    rw [hexec]
    simp only [clearTopology, hp, granted_of_topologyGranted hgrant hcalm, Bool.true_and]
  · rw [if_neg (by simp [strikesIdle, hstrikes])]
  · have hidle : strikesIdle s = true := by simp [strikesIdle, hstrikes, hcalm.threads, Threads.none]
    have hrefs : topologyRefs s ++ [.ref .status, .complete .done, .topologyEnd] =
        (usedRefs s ++ [Ref.status]).map Op.ref ++ [.complete .done, .topologyEnd] := by
      rw [List.map_append, ← usedRefs_ops]
      simp [pathRefs, Table.keys, hentries]
    have hcleared : Calm (clearTopologyTables s) (0 + 1 + (usedRefs s ++ [Ref.status]).length) := by
      have h := hcalm.fewer (m := 0 + 1 + (usedRefs s ++ [Ref.status]).length)
        (by simp only [List.length_append, List.length_singleton]; omega)
      exact ⟨h.released, h.threads, h.waiters, h.turn, h.strikeWait, h.room⟩
    obtain ⟨-, hwaitTopology, hwaitPath, -⟩ := hgrant
    rw [if_pos hidle, hrefs, launch_command_refs _ hcleared hp hwaitTopology hwaitPath]
    rfl

end Sys2Proof.Machine

namespace Sys2Proof.Machine

/-! ### DRAIN_END (R32) -/

/-- A command in progress whose last items are references: they are queued, and its outcome is answered. -/
theorem launch_refs_complete {s : State} {n : Nat} {c : Running} (t : Thread) (rs : List Ref) (o : CmdOutcome)
    (hcalm : Calm s (n + 1 + rs.length)) (hc : s.control.inProgress = some c) :
    launch s t (rs.map Op.ref ++ [.complete o]) = answered (withRefs s rs) c.record o := by
  have hrefs : Calm (withRefs s rs) (n + 1) := hcalm.withRefs rs
  have hc' : (withRefs s rs).control.inProgress = some c := by rw [withRefs_control, hc]
  rw [launch_calm hcalm, settled_refs _ _ _ hcalm, settled_complete hrefs hc', settled_calm (hrefs.answered c.record o)]

/-- What `drainDone` decides. -/
theorem drainDone_iff (s : State) : drainDone s = true ↔
    (intakeCount s = 0 ∧ s.threads.intake = []) ∧ requestCount s = 0 ∧ s.paths.strikes = [] ∧ s.paths.restoration = [] ∧
      ¬ (s.arbiter.holder = some .topology ∧ (s.topology.work = some .intake ∨ s.topology.work = some .expiry)) ∧
      s.paths.slot = none ∧ s.threads.strike = [] := by
  simp only [drainDone, Bool.and_eq_true, beq_iff_eq, List.isEmpty_iff, Bool.not_eq_true', ← Bool.not_eq_true, Bool.or_eq_true,
    Option.isNone_iff_eq_none, and_assoc]

theorem endDrain_of_not {s : State} (h : ¬ drainDone s = true) : endDrain s = s := if_neg fun k => h k.2.1

/-- Settles O36: the conditions of the drain's end, one by one. -/
theorem drainEndResult : Obligations.DrainEndResult := by
  refine ⟨fun s hs => ?_, fun s c hcalm hm hc hcode => ?_⟩
  · have hend : endDrain s = s := endDrain_of_not fun h => hs ((drainDone_iff s).1 h).1.2
    cases hr : s.inReset with
    | true => exact live_asserted hr endDrain
    | false => exact (live_released hr endDrain).trans (by rw [hend])
  · have hexec : exec .drainEnd s = .next (endDrain s) := live_released hcalm.released endDrain
    refine ⟨fun hintake hrequest hstrikes hrestoration hslot hgrant => ?_, fun hnot => ?_⟩ <;> rw [hexec]
    · have hdone : drainDone s = true := by
        refine (drainDone_iff s).2 ⟨⟨hintake, by rw [hcalm.threads]; rfl⟩, hrequest, hstrikes, hrestoration, ?_, hslot,
          by rw [hcalm.threads]; rfl⟩
        rintro ⟨hheld, hwork⟩
        exact hwork.elim (hgrant hheld).1 (hgrant hheld).2
      have hrestart : restarting s = false := by simp [restarting, hc, hcode]
      have hoff : Calm (setMode s .off) (0 + 1 + [Ref.status].length) :=
        ⟨hcalm.released, hcalm.threads, hcalm.waiters, hcalm.turn, hcalm.strikeWait, hcalm.room⟩
      exact congrArg Host.Outcome.next ((if_pos ⟨hm, hdone, hrestart⟩).trans (launch_refs_complete _ [.status] .done hoff hc))
    · refine congrArg Host.Outcome.next (endDrain_of_not fun h => ?_)
      obtain ⟨⟨hintake, -⟩, hrequest, hstrikes, hrestoration, hgrant, hslot, -⟩ := (drainDone_iff s).1 h
      rcases hnot with h | h | h | h | h | h
      exacts [h hintake, h hrequest, h hstrikes, h hrestoration, h hslot, hgrant h]

/-! ### STOP (R31, R63, R72) -/

/-- Read from its tail, a queue loses the members and the marker of its open batch, and keeps the loose records among them (R63). -/
theorem removeOpen_append {marker : QueuedRecord} (hm : marker.role = .opening) (rest : List QueuedRecord) {xs : List QueuedRecord}
    (hxs : ∀ x ∈ xs, x.role = .member ∨ x.role = .loose) :
    removeOpen (xs ++ marker :: rest) = (looseOf xs ++ rest, 1 + (membersOf xs).length, marker.offset) := by
  induction xs with
  | nil => simp [removeOpen, hm, looseOf, membersOf]
  | cons x xs ih =>
    obtain ⟨hx, hxs⟩ := List.forall_mem_cons.1 hxs
    rcases hx with hx | hx
    · simp [removeOpen, hx, ih hxs, looseOf, membersOf]
      omega
    · simp [removeOpen, hx, ih hxs, looseOf, membersOf]

theorem removeOpen_openBatch {q before behind : List QueuedRecord} {marker : QueuedRecord} (h : OpenBatchIn q before marker behind) :
    removeOpen q.reverse = ((before ++ looseOf behind).reverse, 1 + (membersOf behind).length, marker.offset) := by
  have hrev : q.reverse = behind.reverse ++ marker :: before.reverse := by simp [h.queue]
  rw [hrev, removeOpen_append h.marker _ fun x hx => h.behind x (List.mem_reverse.1 hx)]
  simp [looseOf, membersOf, List.filter_reverse]

/-- The queue of the write-back unit with a reference item, unless one for the entry is queued already or has no window (R16, R17). -/
def refJoined (w : Option Windows) (q : List WbItem) (r : Ref) : List WbItem :=
  if (r ≠ .status ∧ w = none) ∨ .ref r ∈ q then q else q ++ [.ref r]

/-- A reference changes the write-back queue alone. -/
theorem withRef_eq (s : State) (r : Ref) :
    withRef s r = { s with writeBack := { s.writeBack with queue := refJoined s.decoder.windows s.writeBack.queue r } } := by
  unfold withRef refJoined
  split <;> rfl

theorem withRefs_eq (rs : List Ref) (s : State) : withRefs s rs =
    { s with writeBack := { s.writeBack with queue := rs.foldl (refJoined s.decoder.windows) s.writeBack.queue } } := by
  induction rs generalizing s with
  | nil => rfl
  | cons r rs ih =>
    rw [withRefs, List.foldl_cons, ← withRefs, ih, withRef_eq]
    rfl

/-- The state with the intake queue and the batch state replaced. -/
def withBatch (s : State) (q : List QueuedRecord) (b : BatchState) : State :=
  { s with intake := { s.intake with queue := q, batch := b } }

theorem Calm.withBatch {s : State} {n : Nat} (h : Calm s n) (q : List QueuedRecord) (b : BatchState) : Calm (withBatch s q b) n :=
  ⟨h.released, h.threads, h.waiters, h.turn, h.strikeWait, h.room⟩

theorem withRef_withBatch (s : State) (q : List QueuedRecord) (b : BatchState) (r : Ref) :
    withRef (withBatch s q b) r = withBatch (withRef s r) q b := by
  simp only [withRef_eq, withBatch]

section
variable {s : State} {n : Nat} (hm : s.control.mode ≠ .run) (hh : s.intake.handed = []) (hcalm : Calm s (n + 3))
include hm hh hcalm

/-- With no open batch STOP's abort ends DISCARDING (R72). -/
theorem settled_stopCheck_closed (hb : ∀ t, s.intake.batch ≠ .opened t) :
    settleAll (s.putOps .intake [.stopCheck]) = withBatch s s.intake.queue .closed := by
  have hrun : runOp false .intake .stopCheck (s.putOps .intake [.stopCheck]) =
      .done ((withBatch s s.intake.queue .closed).putOps .intake [.stopCheck]) [] := by
    refine (if_pos ⟨hm, hh⟩).trans ?_
    simp only [State.putOps_intake]
    split
    · next t ht => exact absurd ht (hb t)
    · rfl
    · next ht =>
      rw [withBatch, ← ht]
  rw [settled_step (hcalm.alone _) hrun]
  exact settled_calm (hcalm.withBatch _ _) _

/-- The open batch leaves the queue, and BATCH_FAULT STOPPED and a status line reference follow (R63, R72). -/
theorem settled_stopCheck_open {t : BitVec 16} {before behind : List QueuedRecord} {marker : QueuedRecord}
    (ht : s.intake.batch = .opened t) (hq : OpenBatchIn s.intake.queue before marker behind) :
    settleAll (s.putOps .intake [.stopCheck]) = withSaid (withBatch s (before ++ looseOf behind) .closed)
      [.post (.batchFault .stopped 6 t 0 marker.offset (1 + (membersOf behind).length)), .ref .status] := by
  generalize hxs : [Said.post (.batchFault .stopped 6 t 0 marker.offset (1 + (membersOf behind).length)), .ref .status] = xs
  have hremoved := removeOpen_openBatch hq
  have hrun : runOp false .intake .stopCheck (s.putOps .intake [.stopCheck]) =
      .done ((withBatch s (before ++ looseOf behind) .closed).putOps .intake [.stopCheck]) (xs.map Said.op) := by
    refine (if_pos ⟨hm, hh⟩).trans ?_
    simp only [State.putOps_intake, ht, abortBatch, abortCount, openMarkerOffset, hremoved, List.reverse_reverse, ← hxs]
    rfl
  have hplaces : places (withBatch s (before ++ looseOf behind) .closed) xs ≤ 3 := by
    rw [← hxs]
    simp only [places, List.map_cons, List.map_nil, Said.places, List.sum_cons, List.sum_nil]
    split <;> omega
  have hcalm' := (hcalm.withBatch (before ++ looseOf behind) .closed).fewer (Nat.add_le_add_left hplaces n)
  rw [settled_step (hcalm.alone _) hrun, settled_said _ _ _ hcalm']
  exact settled_calm (hcalm'.withSaid xs) _

end

/-- Settles O35: the status line reference, and then the abort of the open batch. -/
theorem stopResult : Obligations.StopResult := by
  intro s r hcalm hc hm hh draining
  have hdraining : Calm draining (3 + 1) :=
    ⟨hcalm.released, hcalm.threads, hcalm.waiters, hcalm.turn, hcalm.strikeWait, hcalm.room⟩
  have href : Calm (withRef draining .status) (0 + 3) := hdraining.withRef .status
  have hkept : withRef draining .status = { draining with writeBack := (withRef draining .status).writeBack } := by
    rw [withRef_eq]
  have hmode : (withRef draining .status).control.mode ≠ .run := by
    rw [withRef_control]
    nofun
  have hhanded : (withRef draining .status).intake.handed = [] := by
    rw [hkept]
    exact hh
  have hrun : runStop r (dealtWith s) = settleAll ((withRef draining .status).putOps .intake [.stopCheck]) := by
    have hlaunch : launch draining .control [.ref .status] = withRef draining .status := by
      rw [launch_calm hdraining, settled_ref hdraining, settled_calm href]
    have hthreads : (withRef draining .status).threads.intake = [] := by rw [href.threads]; rfl
    refine (if_neg (not_not_intro hm)).trans ?_
    change stopIntake (launch draining .control [.ref .status]) = _
    rw [hlaunch, stopIntake, if_pos ⟨hthreads, hhanded⟩, launch_calm href]
  refine ⟨fun hb => ?_, fun t before behind marker ht hq => ?_⟩
  · have hb' : ∀ t, (withRef draining .status).intake.batch ≠ .opened t := by
      rw [hkept]
      exact hb
    rw [settled_stopCheck_closed hmode hhanded href hb', ← withRef_withBatch] at hrun
    refine exec_commanded rfl hcalm.released hc hc.hasCode (hrun.trans ?_) ?_
    · rw [hkept]
      rfl
    · rw [withRef_control]
  · have ht' : (withRef draining .status).intake.batch = .opened t := by
      rw [hkept]
      exact ht
    have hq' : OpenBatchIn (withRef draining .status).intake.queue before marker behind := by
      rw [hkept]
      exact hq
    rw [settled_stopCheck_open hmode hhanded href ht' hq', ← withRef_withBatch] at hrun
    exact exec_commanded rfl hcalm.released hc hc.hasCode hrun (by rw [withSaid_control])

end Sys2Proof.Machine

namespace Sys2Proof.Machine

/-! ### RESTART (R35, R36) -/

/-- The ABORTED lines of a list of pending slots, line 2 and then line 1 of each (R36). -/
def abortedOf (s : State) (slots : Table PendingSlot) : State :=
  slots.foldl (fun u x =>
    withResult u x.1 x.2.serial (bareFirst x.2.tag .aborted) (bareSecond x.2.tag .aborted)) s

/-- The items of those lines. -/
def abortedItems (w : Option Windows) (x : Nat × PendingSlot) : List WbItem :=
  [.content ((w.map (·.requestBase)).getD 0 + 3 * x.1 + 2) (bareSecond x.2.tag .aborted) (some ⟨x.1, 2, x.2.serial⟩),
   .content ((w.map (·.requestBase)).getD 0 + 3 * x.1 + 1) (bareFirst x.2.tag .aborted) (some ⟨x.1, 1, x.2.serial⟩)]

/-- The ABORTED lines change the write-back queue alone. -/
theorem abortedOf_eq (slots : Table PendingSlot) (s : State) : abortedOf s slots = { s with writeBack :=
    { s.writeBack with queue := s.writeBack.queue ++ slots.flatMap (abortedItems s.decoder.windows) } } := by
  induction slots generalizing s with
  | nil => simp [abortedOf]
  | cons x slots ih =>
    rw [abortedOf, List.foldl_cons, ← abortedOf, ih]
    simp [withResult, withContent, resultTarget, abortedItems]

/-- The results of the pending slots, one after another. -/
theorem settled_aborted {n : Nat} (t : Thread) (rest : List Op) (slots : Table PendingSlot) {s : State}
    (h : Calm s (n + 2 * slots.length)) :
    settleAll (s.putOps t (slots.flatMap abortedResult ++ rest)) = settleAll ((abortedOf s slots).putOps t rest) ∧
      Calm (abortedOf s slots) n := by
  induction slots generalizing s with
  | nil => exact ⟨rfl, h⟩
  | cons x slots ih =>
    have h2 : Calm s (n + 2 * slots.length + 1 + 1) := h.fewer (by simp only [List.length_cons]; omega)
    have h1 := h2.withContent (resultTarget s ⟨x.1, 2, x.2.serial⟩) (bareSecond x.2.tag .aborted) (some ⟨x.1, 2, x.2.serial⟩)
    have h0 := h1.withContent (resultTarget s ⟨x.1, 1, x.2.serial⟩) (bareFirst x.2.tag .aborted) (some ⟨x.1, 1, x.2.serial⟩)
    obtain ⟨hsettled, hcalm⟩ := ih h0
    refine ⟨Eq.trans ?_ hsettled, hcalm⟩
    rw [List.flatMap_cons, List.append_assoc]
    exact (settled_result h2 t _ (.second x.2.tag .aborted .absent) _).trans
      (settled_result h1 t _ (.first x.2.tag .aborted none none .absent) _)

/-- A step that cannot wait and looks at no thread. -/
theorem settled_restartTables {s : State} {n : Nat} (h : Calm s n) (t : Thread) (rest : List Op) :
    settleAll (s.putOps t (.restartTables :: rest)) = settleAll ((restartTables s).putOps t rest) ∧ Calm (restartTables s) n :=
  ⟨settled_step (s' := restartTables s) (push := []) (h.alone t) rfl, h.released, h.threads, h.waiters, h.turn, h.strikeWait, h.room⟩

theorem settled_restartCounts {s : State} {n : Nat} (h : Calm s n) (t : Thread) (rest : List Op) :
    settleAll (s.putOps t (.restartCounts :: rest)) = settleAll ((restartCounts s).putOps t rest) ∧ Calm (restartCounts s) n :=
  ⟨settled_step (s' := restartCounts s) (push := []) (h.alone t) rfl, h.released, h.threads, h.waiters, h.turn, h.strikeWait, h.room⟩

/-- With no profile read in flight RESTART answers DONE at its last step (R36 step 9). -/
theorem settled_restartDone {s : State} {n : Nat} (h : Calm s (n + 1)) {c : Running} (hc : s.control.inProgress = some c)
    (hread : s.memory.ownRead = none) (t : Thread) (rest : List Op) :
    settleAll (s.putOps t (.restartDone :: rest)) = settleAll ((answered s c.record .done).putOps t rest) := by
  refine settled_step (push := []) (h.alone t) (congrArg (OpResult.done · []) ?_)
  have hplace : placeFree (s.putOps t (.restartDone :: rest)) = true := h.placeFree
  have hwaiters : (s.putOps t (.restartDone :: rest)).writeBack.waiters = [] := h.waiters
  simp only [restartDone, State.putOps_control, hc, State.putOps_memory, hread, Option.isSome_none, Bool.false_eq_true, if_false,
    completeCommand, finishRecord]
  exact (if_neg (by simp [h.waiters])).trans (if_pos hplace)

/-- The steps of RESTART in a part that they find calm (R36). -/
theorem launch_restart {s : State} {slots : Table PendingSlot} (refs : List Ref) {c : Running}
    (hcalm : Calm s (2 * slots.length + refs.length + 2)) (hc : s.control.inProgress = some c) (hread : s.memory.ownRead = none) :
    launch s .control (slots.flatMap abortedResult ++ [.restartTables] ++ refs.map Op.ref ++
        [.restartCounts, .ref .status, .restartDone]) =
      answered (withRefs (restartCounts (restartTables (abortedOf s slots))) (refs ++ [.status])) c.record .done := by
  obtain ⟨haborted, h1⟩ := settled_aborted .control
    ([.restartTables] ++ (refs.map Op.ref ++ [.restartCounts, .ref .status, .restartDone])) slots
    (hcalm.fewer (m := refs.length + 2 + 2 * slots.length) (by omega))
  obtain ⟨htables, h2⟩ := settled_restartTables h1 .control (refs.map Op.ref ++ [.restartCounts, .ref .status, .restartDone])
  have h3 : Calm (restartTables (abortedOf s slots)) (2 + refs.length) := h2.fewer (by omega)
  obtain ⟨hcounts, h4⟩ := settled_restartCounts (h3.withRefs refs) .control [.ref .status, .restartDone]
  have hcomm : restartCounts (withRefs (restartTables (abortedOf s slots)) refs) =
      withRefs (restartCounts (restartTables (abortedOf s slots))) refs := by
    simp only [withRefs_eq, restartCounts]
  rw [hcomm] at hcounts h4
  have h5 : Calm (withRefs (restartCounts (restartTables (abortedOf s slots))) (refs ++ [.status])) 1 := by
    rw [withRefs, List.foldl_append]
    exact h4.withRef .status
  have hstatus : settleAll ((withRefs (restartCounts (restartTables (abortedOf s slots))) refs).putOps .control
      [.ref .status, .restartDone]) =
      settleAll ((withRefs (restartCounts (restartTables (abortedOf s slots))) (refs ++ [.status])).putOps .control
        [.restartDone]) := by
    rw [settled_ref h4, withRefs, withRefs, List.foldl_append]
    rfl
  have hc' : (withRefs (restartCounts (restartTables (abortedOf s slots))) (refs ++ [.status])).control.inProgress = some c := by
    rw [withRefs_control, abortedOf_eq]
    exact hc
  have hread' : (withRefs (restartCounts (restartTables (abortedOf s slots))) (refs ++ [.status])).memory.ownRead = none := by
    rw [withRefs_eq, abortedOf_eq]
    exact hread
  rw [launch_calm hcalm, List.append_assoc, List.append_assoc, haborted]
  refine htables.trans ?_
  rw [settled_refs _ _ _ h3, hcounts, hstatus, settled_restartDone h5 hc' hread', settled_calm (h5.answered c.record .done)]

/-- A record that is not refused is dealt with by its own step, and none is left to judge (R21, R35). -/
theorem onRecord_only {s t : State} {r : Line} (hh : s.control.handed = [r]) (hfree : isRefused s r = false) {p : Line → Bool}
    {f : Line → State → State} (hp : p r = true) (ht : f r (dealtWith s) = t) (hh' : t.control.handed = []) : onRecord p f s = t := by
  simp only [onRecord, hh, hp, hfree, Bool.not_false, Bool.and_true, if_true]
  change judgeCommands (f r (dealtWith s)).control.handed (f r (dealtWith s)) = t
  rw [ht, hh']
  simp only [judgeCommands]
  rw [← hh']

/-- Settles O39: every operation is abandoned, and RESTART's own steps find the part calm. -/
theorem restartResult : Obligations.RestartResult := by
  intro s r hr hh hcode hother hread hresponse hroom t
  have hfree : isRefused s r = false := by
    rw [← Bool.not_eq_true, isRefused_iff]
    rintro ⟨c, hc, h⟩
    exact h.elim (· hcode) (hother c hc)
  have hwaiters : s.writeBack.waiters.filter (· == .response) = [] := by
    rw [List.filter_eq_nil_iff]
    intro w hw hresp
    exact hresponse (beq_iff_eq.1 hresp ▸ hw)
  have hcalm : Calm (begin (abandonAll (dealtWith s)) r .effects)
      (2 * s.paths.pendingSlots.length + (usedRefs s).length + 2) :=
    ⟨hr, rfl, hwaiters, rfl, rfl, by
      change s.writeBack.queue.length + _ ≤ 64
      omega⟩
  have hops : restartOps (dealtWith s) = s.paths.pendingSlots.flatMap abortedResult ++ [.restartTables] ++ (usedRefs s).map Op.ref ++
      [.restartCounts, .ref .status, .restartDone] := by
    rw [← usedRefs_ops]
    simp only [restartOps, List.append_assoc]
    rfl
  have hrun : runRestart r (dealtWith s) = t := by
    rw [runRestart, hops, launch_restart (usedRefs s) hcalm rfl hread]
    have habandoned : restartCounts (restartTables (abortedOf (begin (abandonAll (dealtWith s)) r .effects) s.paths.pendingSlots)) =
        { abortedLines s with
          control := { s.control with handed := [], mode := .off, inProgress := some { record := r, phase := .effects } }
          threads := Threads.none
          writeBack := { (abortedLines s).writeBack with waiters := [] }
          intake := { queue := [], batch := .closed, handed := [], taking := none }
          topology := { nodes := [], ports := [], links := [], work := none, strikeWait := false }
          arbiter := { s.arbiter with holder := none, waitTopology := false, waitPath := false }
          engine := Engine.idle
          paths := { s.paths with
            handed := [], taking := false, queue := [], slot := none, runCount := 0, entries := [], reserved := [],
            view := [], strikes := [], restoration := [] }
          notices := { s.notices with producer := 0, consumer := 0, lost := false, records := [], turn := [] } } := by
      rw [show abortedLines s = abortedOf s s.paths.pendingSlots from rfl, abortedOf_eq, abortedOf_eq, ← hwaiters]
      rfl
    rw [habandoned]
    simp only [t, answered, withRefs_eq]
  have hexec : exec .restart s = .next t := by
    refine (live_released hr (onRecord (hasCode codeRestart) runRestart)).trans (congrArg Host.Outcome.next ?_)
    refine onRecord_only hh hfree (by simp [hasCode, hcode]) hrun ?_
    simp only [t, answered, withContent, withRefs_control]
  refine ⟨hexec, ?_⟩
  simp only [t, State.attention, answered, withContent, withRefs_eq]
  simp

end Sys2Proof.Machine

namespace Sys2Proof.Machine

/-! ### The deferred path notices (R181) -/

/-- Path `p` or one above it has a deferred notice (R181). -/
def deferredFrom (p : Nat) (x : Nat × NoticeRecord) : Bool :=
  decide (p ≤ x.1) && decide (x.1 < Config.pathEntries) && x.2.deferred

theorem Table.get?_of_mem {α : Type} {t : Table α} (h : t.ascending) {x : Nat × α} (hx : x ∈ t) : t.get? x.1 = some x.2 := by
  induction t with
  | nil => cases hx
  | cons y t ih =>
    obtain ⟨hy, ht⟩ := Table.ascending_cons.1 h
    rw [Table.get?]
    rcases List.mem_cons.1 hx with rfl | hx
    · exact if_pos rfl
    · rw [if_neg (Nat.ne_of_lt (hy x hx)), ih ht hx]

/-- An entry stored at an index that a filter leaves out leaves the filtered table as it is. -/
theorem Table.filter_setD {α : Type} [DecidableEq α] (t : Table α) {i : Nat} (d a : α) {f : Nat × α → Bool}
    (hf : ∀ b, f (i, b) = false) : List.filter f (t.setD i d a) = List.filter f t := by
  have herase : List.filter f (t.erase i) = List.filter f t := by
    induction t with
    | nil => rfl
    | cons x t ih =>
      by_cases hx : x.1 = i
      · subst hx
        simp [Table.erase, ih, hf]
      · simp [Table.erase, hx, ih, List.filter_cons]
  have hset : List.filter f (t.set i a) = List.filter f t := by
    clear herase
    induction t with
    | nil => simp [Table.set, hf]
    | cons x t ih =>
      unfold Table.set
      split
      · simp [List.filter_cons, hf]
      · split
        · next hx =>
          subst hx
          simp [hf]
        · simp [List.filter_cons, ih]
  unfold Table.setD
  split
  · exact herase
  · exact hset

/-- In a table in canonical form the deferred notices behind the lowest are those of the paths above it. -/
theorem filter_deferredFrom_succ {t : Table NoticeRecord} (h : t.ascending) {p : Nat} {x : Nat × NoticeRecord}
    {rest : Table NoticeRecord} (hx : t.filter (deferredFrom p) = x :: rest) : t.filter (deferredFrom (x.1 + 1)) = rest := by
  have hp : p ≤ x.1 := by
    have := (List.mem_filter.1 (hx ▸ List.mem_cons_self : x ∈ t.filter (deferredFrom p))).2
    simp only [deferredFrom, Bool.and_eq_true, decide_eq_true_eq] at this
    exact this.1.1
  have hrefine : t.filter (deferredFrom (x.1 + 1)) = (t.filter (deferredFrom p)).filter (fun y => decide (x.1 + 1 ≤ y.1)) := by
    rw [List.filter_filter]
    refine List.filter_congr fun y _ => ?_
    by_cases hy : x.1 + 1 ≤ y.1
    · simp [deferredFrom, hy, show p ≤ y.1 by omega]
    · simp [deferredFrom, hy]
  obtain ⟨habove, -⟩ := Table.ascending_cons.1 (hx ▸ Table.ascending_filter h (deferredFrom p))
  rw [hrefine, hx, List.filter_cons_of_neg (by simp)]
  exact List.filter_eq_self.2 fun y hy => decide_eq_true (habove y hy)

/-- The ring holds one notice more, unless its count passes the counts' width. -/
theorem ringUsed_pathNotified (w : Windows) (s : State) (p : Nat) (h : ringUsed s + 1 < 2 ^ 32) :
    ringUsed (pathNotified w s p) = ringUsed s + 1 := by
  have hcounts : (pathNotified w s p).notices.producer = s.notices.producer + 1 ∧
      (pathNotified w s p).notices.consumer = s.notices.consumer := by
    simp [pathNotified, withContent]
  unfold ringUsed at h ⊢
  rw [hcounts.1, hcounts.2]
  bv_omega

theorem turned_pathNotified (w : Windows) (t : Thread) (s : State) (p : Nat) :
    pathNotified w (turned t s) p = turned t (pathNotified w s p) := by
  simp only [pathNotified, withRef_eq]
  rfl

@[simp] theorem pathNotified_windows (w : Windows) (s : State) (p : Nat) :
    (pathNotified w s p).decoder = s.decoder := by
  simp [pathNotified, withContent]

theorem pathNotified_records (w : Windows) (s : State) (p : Nat) : (pathNotified w s p).notices.records =
    s.notices.records.setD p NoticeRecord.idle ((noticeRecord s p).written (generationOf s p)) := by
  simp [pathNotified, withContent, NoticeRecord.written]

/-- While the notice unit has the turn, a PATH_STATE that has something to report is written (R181). -/
theorem settled_writePath {s : State} {n p : Nat} {w : Windows} (h : Calm s (n + 2)) (t : Thread) (hw : s.decoder.windows = some w)
    (hcount : (noticeRecord s p).count ≠ 0) (rest : List Op) :
    settleAll ((turned t s).putOps t (.writePath p false :: rest)) = settleAll ((turned t (pathNotified w s p)).putOps t rest) := by
  refine settled_step (push := []) (h.turned_alone t) ?_
  generalize hu : (turned t s).putOps t (.writePath p false :: rest) = u
  have hrecord : noticeRecord u p = noticeRecord s p := by rw [← hu]; rfl
  have hwindows : u.decoder.windows = some w := by rw [← hu]; exact hw
  have hplace : Machine.hasPlace false u = true := by rw [← hu]; exact (h.fewer (m := n + 1) (by omega)).hasPlace
  have hwritten : runOp false t (.writePath p false) u =
      .done (setRecord (noteStatus (writeRing u w (pathStateLine u p (noticeRecord u p)))) p
        ((noticeRecord u p).written (generationOf u p))) [] := by
    simp only [runOp, writePathState, hwindows, hrecord, hcount, hplace, if_true, if_false, Bool.false_eq_true]
  have hnote : noteStatus (writeRing u w (pathStateLine u p (noticeRecord u p))) =
      withRef (writeRing u w (pathStateLine u p (noticeRecord u p))) .status := by
    have hroom := h.room
    simp only [Config.writeBackItems] at hroom
    refine noteStatus_room ?_ ?_ <;> rw [← hu]
    · exact h.waiters
    · simp only [writeRing, enqueue, State.putOps, turned, List.length_append, List.length_singleton]
      omega
  rw [hwritten, hnote, ← turned_pathNotified, ← hu, pathNotified, withRef_eq, withRef_eq]
  rfl

/-- The notice unit goes on with the thread whose turn it is, and takes up a post when no turn is taken (R175). -/
theorem withTurn_turned (t : Thread) (s : State) (ops : List Op) (f : State → OpResult) :
    withTurn t ((turned t s).putOps t ops) f = f ((turned t s).putOps t ops) := by simp [withTurn, turned]

theorem withTurn_free {t : Thread} {s : State} (h : s.notices.turn = []) (ops : List Op) (f : State → OpResult) :
    withTurn t (s.putOps t ops) f = f ((turned t s).putOps t ops) := by
  simp only [withTurn, State.putOps_notices, h]
  rfl

/-- The first step of a drain takes the turn. -/
theorem settled_drain_turned {s : State} {n : Nat} (h : Calm s n) (t : Thread) (p : Nat) (rest : List Op) :
    settleAll (s.putOps t (.drain p :: rest)) = settleAll ((turned t s).putOps t (.drain p :: rest)) := by
  have hrun : runOp false t (.drain p) (s.putOps t (.drain p :: rest)) =
      runOp false t (.drain p) ((turned t s).putOps t (.drain p :: rest)) := by
    simp only [runOp, drainDeferred, withTurn_free h.turn, withTurn_turned]
  rw [settleAll_step ((h.alone t).nextThread _ rest), settleAll_step ((h.turned_alone t).nextThread _ rest)]
  simp only [micro, State.putOps_threads, Threads.get_put_self, hrun, turned]

/-- The deferred path notices from path `p` upward are written, in ascending path ID, as far as the ring has room (R181). -/
theorem settled_drain_list {w : Windows} (hlines : w.noticeLines ≤ 4096) (t : Thread) (rest : List Op) (xs : Table NoticeRecord)
    {s : State} {n p : Nat} (h : Calm s (n + 2 * xs.length)) (hw : s.decoder.windows = some w) (hasc : s.notices.records.ascending)
    (hxs : s.notices.records.filter (deferredFrom p) = xs) (hcount : ∀ x ∈ xs, 1 ≤ x.2.count) :
    settleAll ((turned t s).putOps t (.drain p :: rest)) =
        settleAll (((xs.keys.take (w.noticeLines - ringUsed s)).foldl (pathNotified w) s).putOps t rest) ∧
      Calm ((xs.keys.take (w.noticeLines - ringUsed s)).foldl (pathNotified w) s) n := by
  have hnext : (turned t s).notices.records.nextFrom p Config.pathEntries (fun _ r => r.deferred) = xs.head? := by
    rw [← hxs, List.head?_filter]
    rfl
  have hend : ∀ ops, endTurn ((turned t s).putOps t ops) = s.putOps t ops :=
    fun ops => congrArg (State.putOps · t ops) (endTurn_turned t h.turn)
  induction xs generalizing s p n with
  | nil =>
    have hrun : runOp false t (.drain p) ((turned t s).putOps t (.drain p :: rest)) = .done (s.putOps t (.drain p :: rest)) [] := by
      simp only [runOp, drainDeferred, withTurn_turned, State.putOps_notices, hnext, List.head?_nil, hend]
    rw [settled_step (h.turned_alone t) hrun, Table.keys_nil, List.take_nil]
    exact ⟨rfl, h⟩
  | cons x xs ih =>
    have hroom : ringRoom ((turned t s).putOps t (.drain p :: rest)) = decide (ringUsed s < w.noticeLines) := by
      simp only [ringRoom, State.putOps_decoder, show (turned t s).decoder.windows = some w from hw]
      rfl
    by_cases hring : ringUsed s < w.noticeLines
    · have hrun : runOp false t (.drain p) ((turned t s).putOps t (.drain p :: rest)) =
          .done ((turned t s).putOps t (.drain p :: rest)) [.writePath x.1 false, .drain (x.1 + 1)] := by
        simp only [runOp, drainDeferred, withTurn_turned, State.putOps_notices, hnext, List.head?_cons, hroom, hring, decide_true,
          if_true]
      have hx : x ∈ s.notices.records.filter (deferredFrom p) := hxs ▸ List.mem_cons_self
      have hrecord : noticeRecord s x.1 = x.2 := by
        rw [noticeRecord, Table.getD, Table.get?_of_mem hasc (List.mem_filter.1 hx).1, Option.getD_some]
      have hcount' : (noticeRecord s x.1).count ≠ 0 := by
        have := hcount x List.mem_cons_self
        rw [hrecord]
        omega
      have hcalm : Calm s (n + 2 * xs.length + 2) := h.fewer (by simp only [List.length_cons]; omega)
      have hused : ringUsed (pathNotified w s x.1) = ringUsed s + 1 := ringUsed_pathNotified w s x.1 (by omega)
      have hrest : (pathNotified w s x.1).notices.records.filter (deferredFrom (x.1 + 1)) = xs := by
        rw [pathNotified_records, Table.filter_setD _ _ _ (fun b => by simp [deferredFrom])]
        exact filter_deferredFrom_succ hasc hxs
      have htake : (Table.keys (x :: xs)).take (w.noticeLines - ringUsed s) =
          x.1 :: (Table.keys xs).take (w.noticeLines - ringUsed (pathNotified w s x.1)) := by
        rw [hused, Table.keys_cons, show w.noticeLines - ringUsed s = w.noticeLines - (ringUsed s + 1) + 1 by omega,
          List.take_succ_cons]
      have hnotified := hcalm.pathNotified w x.1
      obtain ⟨hsettled, hcalm'⟩ := ih hnotified (by rw [pathNotified_windows, hw])
        (by rw [pathNotified_records]; exact Table.ascending_setD hasc _ _ _) hrest (fun y hy => hcount y (List.mem_cons_of_mem _ hy))
        (by rw [← hrest, List.head?_filter]; rfl) (fun ops => congrArg (State.putOps · t ops) (endTurn_turned t hnotified.turn))
      rw [htake, List.foldl_cons]
      refine ⟨?_, hcalm'⟩
      rw [settled_step (h.turned_alone t) hrun]
      exact (settled_writePath hcalm t hw hcount' _).trans hsettled
    · have hrun : runOp false t (.drain p) ((turned t s).putOps t (.drain p :: rest)) =
          .done (s.putOps t (.drain p :: rest)) [] := by
        simp only [runOp, drainDeferred, withTurn_turned, State.putOps_notices, hnext, List.head?_cons, hroom, hring, decide_false,
          Bool.false_eq_true, if_false, hend]
      have htake : (Table.keys (x :: xs)).take (w.noticeLines - ringUsed s) = [] := by
        rw [show w.noticeLines - ringUsed s = 0 by omega, List.take_zero]
      rw [settled_step (h.turned_alone t) hrun, htake]
      exact ⟨rfl, h.fewer (by omega)⟩

/-- A drain from path 0: the deferred notices are written, as many as the ring has room for (R181). -/
theorem settled_drain {s : State} {n : Nat} {w : Windows} (hlines : w.noticeLines ≤ 4096)
    (h : Calm s (n + 2 * (deferredPaths s).length)) (hw : s.decoder.windows = some w) (hasc : s.notices.records.ascending)
    (hcount : ∀ x ∈ s.notices.records, x.2.deferred = true → 1 ≤ x.2.count) (t : Thread) (rest : List Op) :
    settleAll (s.putOps t (.drain 0 :: rest)) = settleAll ((drainedTo w (w.noticeLines - ringUsed s) s).putOps t rest) ∧
      Calm (drainedTo w (w.noticeLines - ringUsed s) s) n := by
  have hpaths : deferredPaths s = Table.keys (s.notices.records.filter (deferredFrom 0)) := by
    have hfilter : s.notices.records.filter (fun x => x.2.deferred && decide (x.1 < Config.pathEntries)) =
        s.notices.records.filter (deferredFrom 0) :=
      List.filter_congr fun x _ => by simp [deferredFrom, Bool.and_comm]
    rw [deferredPaths, hfilter]
    rfl
  rw [drainedTo, hpaths, settled_drain_turned h]
  refine settled_drain_list hlines t rest _ (h.fewer ?_) hw hasc rfl fun x hx => ?_
  · rw [hpaths, Table.keys, List.length_map]
  · have hx' := List.mem_filter.1 hx
    simp only [deferredFrom, Bool.and_eq_true] at hx'
    exact hcount x hx'.1 hx'.2.2

/-! ### SET_WINDOWS (R23, R176, R181) -/

theorem pathNotified_inProgress (w : Windows) (c : Option Running) (s : State) (p : Nat) :
    pathNotified w { s with control := { s.control with inProgress := c } } p =
      { pathNotified w s p with control := { (pathNotified w s p).control with inProgress := c } } := by
  simp only [pathNotified, withRef_eq]
  rfl

theorem foldl_pathNotified_inProgress (w : Windows) (c : Option Running) (ps : List Nat) (s : State) :
    ps.foldl (pathNotified w) { s with control := { s.control with inProgress := c } } =
      { ps.foldl (pathNotified w) s with control := { (ps.foldl (pathNotified w) s).control with inProgress := c } } := by
  induction ps generalizing s with
  | nil => rfl
  | cons p ps ih => rw [List.foldl_cons, List.foldl_cons, pathNotified_inProgress, ih]

theorem foldl_pathNotified_counts (w : Windows) (ps : List Nat) (s : State) :
    (ps.foldl (pathNotified w) s).notices.producer = s.notices.producer + BitVec.ofNat 32 ps.length ∧
      (ps.foldl (pathNotified w) s).notices.consumer = s.notices.consumer ∧
      (ps.foldl (pathNotified w) s).control = s.control := by
  induction ps generalizing s with
  | nil => simp
  | cons p ps ih =>
    obtain ⟨hproducer, hconsumer, hcontrol⟩ := ih (pathNotified w s p)
    rw [List.foldl_cons, hproducer, hconsumer, hcontrol]
    simp only [pathNotified, withContent, withRef_notices, withRef_control, List.length_cons, and_self, and_true]
    bv_omega

/-- The items of SET_WINDOWS: the references, the deferred notices, the status line reference and the outcome. -/
theorem performing_setWindows {u : State} {r : Line} {w : Windows} (rs : List Ref) (hlines : w.noticeLines ≤ 4096)
    (h : Calm u (rs.length + 2 * (deferredPaths u).length + 2)) (hw : u.decoder.windows = some w)
    (hempty : ringUsed u = 0) (hasc : u.notices.records.ascending)
    (hcount : ∀ x ∈ u.notices.records, x.2.deferred = true → 1 ≤ x.2.count) :
    performing u r (rs.map Op.ref ++ (if anyDeferred u then [.drain 0] else []) ++ [.ref .status]) =
      answered (withRef (drainedTo w w.noticeLines (withRefs u rs)) .status) r .done := by
  generalize hv : withRefs (begin u r .effects) rs = v
  have hbegin : Calm (begin u r .effects) (2 * (deferredPaths u).length + 2 + rs.length) :=
    ⟨h.released, h.threads, h.waiters, h.turn, h.strikeWait, by have := h.room; simp only [begin_writeBack]; omega⟩
  have hcalm : Calm v (2 * (deferredPaths u).length + 2) := hv ▸ hbegin.withRefs rs
  have hnotices : v.notices = u.notices := by rw [← hv, withRefs_eq]; rfl
  have hdrain : settleAll (v.putOps .control ((if anyDeferred u then [.drain 0] else []) ++ [.ref .status, .complete .done])) =
      settleAll ((drainedTo w w.noticeLines v).putOps .control [.ref .status, .complete .done]) ∧
      Calm (drainedTo w w.noticeLines v) 2 := by
    have hdeferred : deferredPaths v = deferredPaths u := by rw [deferredPaths, hnotices]; rfl
    cases hany : anyDeferred u with
    | true =>
      have hringUsed : ringUsed v = 0 := by rw [← hempty, ringUsed, hnotices]; rfl
      have := settled_drain hlines (hcalm.fewer (m := 2 + 2 * (deferredPaths v).length) (by rw [hdeferred]; omega))
        (by rw [← hv, withRefs_eq]; exact hw) (hnotices ▸ hasc) (hnotices ▸ hcount) .control [.ref .status, .complete .done]
      rwa [hringUsed, Nat.sub_zero] at this
    | false =>
      have hnone : deferredPaths u = [] := by
        rw [anyDeferred, List.any_eq_false] at hany
        rw [deferredPaths, List.filter_eq_nil_iff.2 fun x hx => by simp [hany x hx]]
        rfl
      rw [drainedTo, hdeferred, hnone, List.take_nil]
      exact ⟨rfl, hcalm.fewer (by omega)⟩
  obtain ⟨hsettled, hcalm'⟩ := hdrain
  have hrunning : (withRef (drainedTo w w.noticeLines v) .status).control.inProgress = some { record := r, phase := .effects } := by
    rw [withRef_control, drainedTo, (foldl_pathNotified_counts w _ v).2.2, ← hv, withRefs_control]
    rfl
  have hsettles : performing u r (rs.map Op.ref ++ (if anyDeferred u then [.drain 0] else []) ++ [.ref .status]) =
      answered (withRef (drainedTo w w.noticeLines v) .status) r .done := by
    have hops : rs.map Op.ref ++ (if anyDeferred u then [.drain 0] else []) ++ [.ref .status] ++ [.complete .done] =
        rs.map Op.ref ++ ((if anyDeferred u then [.drain 0] else []) ++ [.ref .status, .complete .done]) := by simp
    rw [performing, launch_calm hbegin, hops, settled_refs _ _ _ hbegin, hv, hsettled, settled_ref hcalm',
      settled_complete (hcalm'.withRef .status) hrunning, settled_calm ((hcalm'.withRef .status).answered r .done)]
  have hvu : v = { withRefs u rs with control := { (withRefs u rs).control with
      inProgress := some { record := r, phase := .effects } } } := by
    rw [← hv]
    exact withRefs_inProgress rs u _
  rw [hsettles, hvu, drainedTo, foldl_pathNotified_inProgress, withRef_inProgress, answered_inProgress]
  rfl

/-- Settles O28: the checks are passed, and the deferred notices find the ring empty. -/
theorem setWindowsResult : Obligations.SetWindowsResult := by
  intro s r w hcalm hc hm hok hslots hw hasc hcount t
  subst hw
  have hnotice : 16 ≤ fieldNat r 40 2 ∧ fieldNat r 40 2 ≤ 4096 := by
    simp only [windowArgsOk, Bool.and_eq_true, decide_eq_true_eq] at hok
    obtain ⟨⟨⟨⟨⟨⟨⟨-, hlines⟩, -⟩, -⟩, -⟩, -⟩, -⟩, -⟩ := hok
    exact hlines
  have hrun : runSetWindows r (dealtWith s) = t := by
    have hpassed : runSetWindows r (dealtWith s) = performing (setWindows (dealtWith s) (windowsOf (windowArgs r))) r
        ((usedRefs s).map Op.ref ++ (if anyDeferred s then [.drain 0] else []) ++ [.ref .status]) := by
      rw [← usedRefs_ops]
      refine (if_neg (not_not_intro hm)).trans ((if_neg ?_).trans (if_neg (not_not_intro hslots)))
      rw [show windowArgsOk (dealtWith s) (windowArgs r) = true from hok]
      exact Bool.false_ne_true
    rw [hpassed]
    exact performing_setWindows (u := setWindows (dealtWith s) (windowsOf (windowArgs r))) (usedRefs s) hnotice.2
      ⟨hcalm.released, hcalm.threads, hcalm.waiters, hcalm.turn, hcalm.strikeWait, hcalm.room⟩ rfl
      (by simp [ringUsed, setWindows]) hasc hcount
  refine ⟨exec_commanded rfl hcalm.released hc hc.hasCode hrun ?_, ?_⟩
  · simp only [t, answered, withContent, withRef_control, drainedTo, (foldl_pathNotified_counts _ _ _).2.2, withRefs_control]
    rfl
  · have hcounts := foldl_pathNotified_counts (windowsOf (windowArgs r)) ((deferredPaths s).take (fieldNat r 40 2))
      (withRefs (setWindows (dealtWith s) (windowsOf (windowArgs r))) (usedRefs s))
    have hproducer : t.notices.producer = BitVec.ofNat 32 ((deferredPaths s).take (fieldNat r 40 2)).length ∧
        t.notices.consumer = 0 := by
      simp only [withRefs_eq] at hcounts
      simp only [t, answered, withContent, withRef_notices, drainedTo, withRefs_eq]
      exact ⟨hcounts.1.trans (BitVec.zero_add _), hcounts.2.1⟩
    have hlength : ((deferredPaths s).take (fieldNat r 40 2)).length = min (fieldNat r 40 2) (deferredPaths s).length :=
      List.length_take
    rw [State.attention, hproducer.1, hproducer.2, decide_eq_true_eq, ← List.length_pos_iff, hlength]
    rw [Ne, ← BitVec.toNat_inj, BitVec.toNat_ofNat, show BitVec.toNat (0 : BitVec 32) = 0 from rfl]
    omega

end Sys2Proof.Machine

namespace Sys2Proof.Machine

/-! ### Lines built from fields (R183, R185) -/

/-- The line of a list of fields, each given by its offset, its bytes and its value. -/
def lineShowing (xs : List (Nat × Nat × Nat)) : Line := lineOf (xs.map fun x => fld x.1 x.2.1 x.2.2)

/-- The fields of a layout stand one behind another from a byte on, and end with the line at the latest. -/
def layoutFrom : Nat → List (Nat × Nat × Nat) → Bool
  | b, [] => Nat.ble b 64
  | b, x :: xs => Nat.ble b x.1 && layoutFrom (x.1 + x.2.1) xs

/-- Each value fits the bytes of its field. -/
def valuesFit (xs : List (Nat × Nat × Nat)) : Prop := ∀ x ∈ xs, x.2.2 < 2 ^ (8 * x.2.1)

@[simp] theorem valuesFit_nil : valuesFit [] := fun _ hx => by cases hx

@[simp] theorem valuesFit_cons (x : Nat × Nat × Nat) (xs : List (Nat × Nat × Nat)) :
    valuesFit (x :: xs) ↔ x.2.2 < 2 ^ (8 * x.2.1) ∧ valuesFit xs := List.forall_mem_cons

@[simp] theorem valuesFit_append (xs ys : List (Nat × Nat × Nat)) : valuesFit (xs ++ ys) ↔ valuesFit xs ∧ valuesFit ys :=
  List.forall_mem_append

theorem layoutFrom_bounds {xs : List (Nat × Nat × Nat)} {b : Nat} (h : layoutFrom b xs = true) :
    b ≤ 64 ∧ ∀ x ∈ xs, b ≤ x.1 ∧ x.1 + x.2.1 ≤ 64 := by
  induction xs generalizing b with
  | nil => exact ⟨Nat.le_of_ble_eq_true h, fun _ hx => by cases hx⟩
  | cons x xs ih =>
    simp only [layoutFrom, Bool.and_eq_true, Nat.ble_eq] at h
    obtain ⟨hx64, hxs⟩ := ih h.2
    refine ⟨by omega, List.forall_mem_cons.2 ⟨⟨h.1, hx64⟩, fun y hy => ?_⟩⟩
    have := hxs y hy
    omega

theorem layoutFrom_apart {xs : List (Nat × Nat × Nat)} {b : Nat} (h : layoutFrom b xs = true) :
    xs.Pairwise (fun x y => x.1 + x.2.1 ≤ y.1 ∨ y.1 + y.2.1 ≤ x.1) := by
  induction xs generalizing b with
  | nil => exact List.Pairwise.nil
  | cons x xs ih =>
    simp only [layoutFrom, Bool.and_eq_true] at h
    exact List.pairwise_cons.2 ⟨fun y hy => .inl ((layoutFrom_bounds h.2).2 y hy).1, ih h.2⟩

/-- A line of fields that stand one behind another and whose values fit shows them. -/
theorem shows_lineShowing {xs : List (Nat × Nat × Nat)} (hlayout : layoutFrom 0 xs = true) (hfit : valuesFit xs) :
    Shows (lineShowing xs) xs := by
  have hmap : (xs.map fun x => fld x.1 x.2.1 x.2.2).map (fun f => (f.off, f.bytes, f.value)) = xs := by
    rw [List.map_map]
    exact List.map_id xs
  have hshows := lineOf_shows (fs := xs.map fun x => fld x.1 x.2.1 x.2.2) ?_ ?_
  · rwa [hmap] at hshows
  · intro f hf
    obtain ⟨x, hx, rfl⟩ := List.mem_map.1 hf
    exact ⟨((layoutFrom_bounds hlayout).2 x hx).2, hfit x hx⟩
  · exact List.pairwise_map.2 (layoutFrom_apart hlayout)

/-- A line shows a layout when it is the line of that layout. -/
theorem shows_of_eq {l : Line} {xs : List (Nat × Nat × Nat)} (hl : l = lineShowing xs) (hlayout : layoutFrom 0 xs = true)
    (hfit : valuesFit xs) : Shows l xs := hl ▸ shows_lineShowing hlayout hfit

theorem lineOf_append (fs gs : List Field) : lineOf (fs ++ gs) = lineOf fs ||| lineOf gs :=
  BitVec.eq_of_getLsbD_eq fun b _ => by simp [getLsbD_lineOf]

theorem lineShowing_append (xs ys : List (Nat × Nat × Nat)) : lineShowing (xs ++ ys) = lineShowing xs ||| lineShowing ys := by
  simp only [lineShowing, List.map_append, lineOf_append]

/-- A line has no more than the bits of its fields: a value counts modulo its width. -/
theorem lineOf_congr {fs gs : List Field} (h : fs.map Field.bits = gs.map Field.bits) : lineOf fs = lineOf gs := by
  have hfold : ∀ fs : List Field, lineOf fs = (fs.map Field.bits).foldl (· ||| ·) 0 := fun fs => by
    rw [lineOf, List.foldl_map]
  rw [hfold, hfold, h]

theorem fld_bits_mod (off bytes value : Nat) : (fld off bytes (value % 2 ^ (8 * bytes))).bits = (fld off bytes value).bits := by
  simp only [Field.bits, fld, Nat.mod_mod]

theorem fld_bits_zero (off bytes : Nat) : (fld off bytes 0).bits = 0 := by simp [Field.bits, fld]

/-- Fields of value zero leave a line zero. -/
theorem lineOf_zeros {fs : List Field} (h : ∀ f ∈ fs, f.bits = 0) : lineOf fs = 0 := by
  refine BitVec.eq_of_getLsbD_eq fun b _ => ?_
  rw [getLsbD_lineOf]
  refine (List.any_eq_false.2 fun f hf => ?_).trans BitVec.getLsbD_zero.symm
  simp [h f hf]

/-- A run of equal fields, filled up with zero entries (R185). -/
theorem lineOf_fldList {off bytes n : Nat} {vs : List Nat} (h : vs.length ≤ n) :
    lineOf (fldList off bytes vs) = lineShowing ((List.range n).map fun i => (off + bytes * i, bytes, vs.getD i 0)) := by
  obtain ⟨k, rfl⟩ := Nat.exists_eq_add_of_le h
  have hlisted : (List.range vs.length).map (fun i => (off + bytes * i, bytes, vs.getD i 0)) =
      vs.zipIdx.map (fun x => (off + bytes * x.2, bytes, x.1)) := by
    refine List.ext_getElem (by simp) fun i hi _ => ?_
    simp only [List.length_map, List.length_range] at hi
    simp [hi]
  have hzero : lineShowing (((List.range k).map (vs.length + ·)).map fun i => (off + bytes * i, bytes, vs.getD i 0)) = 0 := by
    refine lineOf_zeros fun f hf => ?_
    simp only [List.map_map, List.mem_map, Function.comp_apply] at hf
    obtain ⟨i, -, rfl⟩ := hf
    rw [List.getD_eq_default _ _ (Nat.le_add_right _ _), fld_bits_zero]
  have hfields : lineShowing (vs.zipIdx.map (fun x => (off + bytes * x.2, bytes, x.1))) = lineOf (fldList off bytes vs) := by
    simp [lineShowing, fldList, List.map_map, Function.comp_def]
  rw [List.range_add, List.map_append, lineShowing_append, hzero, hlisted, hfields]
  exact (BitVec.or_zero).symm

theorem bit_eq_toNat (b : Bool) : bit b = b.toNat := by cases b <;> rfl

@[simp] theorem flags_nil : flags [] = 0 := rfl

/-- Bit 0 of a flag byte stands first. -/
@[simp] theorem flags_cons (b : Bool) (bs : List Bool) : flags (b :: bs) = b.toNat + 2 * flags bs := by
  have hfold : ∀ (bs : List Bool) (k acc : Nat), (bs.zipIdx k).foldl (fun acc x => acc + bit x.1 * 2 ^ x.2) acc =
      acc + 2 ^ k * flags bs := by
    intro bs
    induction bs with
    | nil => simp
    | cons b bs ih =>
      intro k acc
      have hflags : flags (b :: bs) = bit b + 2 * flags bs := by
        have := ih 1 (0 + bit b * 2 ^ 0)
        rw [flags, List.zipIdx_cons, List.foldl_cons, this]
        omega
      rw [List.zipIdx_cons, List.foldl_cons, ih, hflags]
      ring
  have := hfold bs 1 (0 + bit b * 2 ^ 0)
  rw [flags, List.zipIdx_cons, List.foldl_cons, this, bit_eq_toNat]
  omega

/-! ### Link IDs in ten-bit fields (R186) -/

@[simp] theorem packLinks_nil : packLinks [] = 0 := rfl

theorem packLinks_cons (k : Nat) (ks : List Nat) : packLinks (k :: ks) = k % 1024 + 1024 * packLinks ks := by
  have hfold : ∀ (ks : List Nat) (i acc : Nat), (ks.zipIdx i).foldl (fun acc x => acc + x.1 % 1024 * 2 ^ (10 * x.2)) acc =
      acc + 1024 ^ i * packLinks ks := by
    intro ks
    induction ks with
    | nil => simp
    | cons k ks ih =>
      intro i acc
      have hpack : packLinks (k :: ks) = k % 1024 + 1024 * packLinks ks := by
        have := ih 1 (0 + k % 1024 * 2 ^ (10 * 0))
        rw [packLinks, List.zipIdx_cons, List.foldl_cons, this]
        omega
      rw [List.zipIdx_cons, List.foldl_cons, ih, hpack, show 2 ^ (10 * i) = 1024 ^ i by rw [Nat.pow_mul]]
      ring
  have := hfold ks 1 (0 + k % 1024 * 2 ^ (10 * 0))
  rw [packLinks, List.zipIdx_cons, List.foldl_cons, this]
  omega

theorem packLinks_lt (ks : List Nat) : packLinks ks < 2 ^ (10 * ks.length) := by
  induction ks with
  | nil => simp
  | cons k ks ih =>
    have hmod : k % 1024 < 1024 := Nat.mod_lt _ (by omega)
    rw [packLinks_cons, List.length_cons, show 2 ^ (10 * (ks.length + 1)) = 1024 * 2 ^ (10 * ks.length) by
      rw [Nat.mul_add, Nat.pow_add]
      ring]
    omega

/-- Entry `n` of packed link IDs. -/
theorem packLinks_entry {ks : List Nat} (h : ∀ k ∈ ks, k < 1024) (n : Nat) : packLinks ks / 2 ^ (10 * n) % 2 ^ 10 = ks.getD n 0 := by
  induction ks generalizing n with
  | nil => simp
  | cons k ks ih =>
    obtain ⟨hk, hks⟩ := List.forall_mem_cons.1 h
    rw [packLinks_cons, Nat.mod_eq_of_lt hk]
    cases n with
    | zero =>
      simp only [Nat.mul_zero, Nat.pow_zero, Nat.div_one, List.getD_cons_zero]
      omega
    | succ n =>
      rw [List.getD_cons_succ, ← ih hks n, show 2 ^ (10 * (n + 1)) = 1024 * 2 ^ (10 * n) by rw [Nat.mul_add, Nat.pow_add]; ring,
        ← Nat.div_div_eq_div_mul, show (k + 1024 * packLinks ks) / 1024 = packLinks ks by omega]

/-! ### The lines of the entries (R95, R113, R172, R186, R191) -/

theorem nodeLine_shows {s : State} {i : Nat} {e : NodeEntry} (he : s.topology.nodes.get? i = some e) (hfit : e.Fits) :
    Shows (nodeLine s i) [(0, 1, 1), (1, 1, e.domain), (2, 1, e.transit.toNat), (4, 4, e.netId.toNat), (8, 2, e.rawPenalty),
      (10, 2, e.penalty), (12, 2, e.portCount)] := by
  obtain ⟨hdomain, hraw, hpenalty, hports⟩ := hfit
  have htransit := e.transit.toNat_lt
  refine shows_of_eq ?_ rfl ?_
  · simp only [nodeLine, he, bit_eq_toNat]
    rfl
  · simp only [valuesFit_cons, valuesFit_nil, and_true]
    omega

theorem pairingCode_lt (x : Option Pairing) : pairingCode x < 5 := by
  match x with
  | none | some .unanswered | some .contradicted | some .paired | some .waiting => decide

theorem getD_lt {x : Option Nat} {d n : Nat} (hd : d < n) (hx : ∀ k, x = some k → k < n) : x.getD d < n := by
  cases x with
  | none => exact hd
  | some k => exact hx k rfl

/-- The SRLG entries of a line, zero behind the last (R185). -/
theorem lineOf_srlgs {srlgs : List Id32} (h : srlgs.length ≤ 6) (off : Nat) : lineOf (fldList off 4 (srlgs.map (·.toNat))) =
    lineShowing ((List.range 6).map fun n => (off + 4 * n, 4, (srlgs.getD n 0).toNat)) := by
  rw [lineOf_fldList (n := 6) (by simpa using h)]
  congr 1
  refine List.map_congr_left fun n _ => ?_
  rw [← List.getD_map (f := fun x : Id32 => x.toNat)]
  rfl

theorem valuesFit_srlgs (srlgs : List Id32) (off : Nat) :
    valuesFit ((List.range 6).map fun n => (off + 4 * n, 4, (srlgs.getD n 0).toNat)) := by
  intro x hx
  obtain ⟨n, -, rfl⟩ := List.mem_map.1 hx
  exact (srlgs.getD n 0).isLt

theorem portLine_shows {s : State} {j : Nat} {e : PortEntry} (he : s.topology.ports.get? j = some e) (hfit : e.Fits) :
    Shows (portLine s j) ([(0, 1, 1), (1, 1, pairingCode (some e.pairing)), (2, 1, e.number), (3, 1, e.reported.farPort),
      (4, 1, e.node), (5, 1, if e.reported.up then 1 else 2), (6, 2, e.link.getD 65535),
      (8, 4, ((s.topology.nodes.get? e.node).map (·.netId.toNat)).getD 0), (12, 4, e.reported.farId.toNat),
      (16, 2, e.reported.cost), (18, 2, e.reported.raw), (20, 2, e.nu), (22, 1, e.clipped.toNat), (24, 10, e.foreign.toNat)] ++
      (List.range 6).map (fun n => (34 + 4 * n, 4, (e.reported.srlgs.getD n 0).toNat))) := by
  obtain ⟨hnode, hnumber, hfar, hcost, hraw, hnu, hsrlgs, hlink⟩ := hfit
  have hid : ((s.topology.nodes.get? e.node).map (·.netId.toNat)).getD 0 = (portNetId s e).toNat := by
    unfold portNetId
    cases s.topology.nodes.get? e.node <;> rfl
  have hpairing := pairingCode_lt (some e.pairing)
  have hclipped := e.clipped.toNat_lt
  have hup : (if e.reported.up then 1 else 2) < 256 := by split <;> omega
  have hlink' : e.link.getD 65535 < 65536 := getD_lt (by omega) fun k hk => by have := hlink k hk; omega
  rw [hid]
  refine shows_of_eq ?_ rfl ?_
  · simp only [portLine, he, flags_cons, flags_nil, lineOf_append, lineShowing_append, lineOf_srlgs hsrlgs]
    rfl
  · rw [valuesFit_append]
    refine ⟨?_, valuesFit_srlgs _ _⟩
    simp only [valuesFit_cons, valuesFit_nil, and_true]
    omega

theorem linkStateCode_lt (x : LinkState) : x.code < 4 := by cases x <;> decide

theorem linkLine_shows {s : State} {k : Nat} {e : LinkEntry} (he : s.topology.links.get? k = some e) (hfit : e.Fits) :
    Shows (linkLine s k) ([(0, 1, e.state.code),
      (1, 1, e.attrs.interDomain.toNat + 2 * e.attrs.truncated.toNat + 4 * e.answered.toNat), (2, 1, e.endA.number),
      (3, 1, e.endB.number), (4, 2, e.endA.port.getD 65535), (6, 2, e.endB.port.getD 65535), (8, 4, e.endA.netId.toNat),
      (12, 4, e.endB.netId.toNat), (16, 2, e.attrs.cost), (18, 2, e.attrs.nu), (20, 10, e.attrs.foreign.toNat)] ++
      (List.range 6).map (fun n => (30 + 4 * n, 4, (e.attrs.srlgs.getD n 0).toNat)) ++
      [(54, 5, e.created.toNat % 2 ^ 40), (59, 5, e.changed.toNat % 2 ^ 40)]) := by
  obtain ⟨hendA, hendB, hports, hcost, hnu, hsrlgs⟩ := hfit
  have hstate := linkStateCode_lt e.state
  have hinter := e.attrs.interDomain.toNat_lt
  have htruncated := e.attrs.truncated.toNat_lt
  have hanswered := e.answered.toNat_lt
  have hportA : e.endA.port.getD 65535 < 65536 := getD_lt (by omega) fun j hj => by have := hports j (.inl hj); omega
  have hportB : e.endB.port.getD 65535 < 65536 := getD_lt (by omega) fun j hj => by have := hports j (.inr hj); omega
  have hflags : flags [e.attrs.interDomain, e.attrs.truncated, e.answered] =
      e.attrs.interDomain.toNat + 2 * e.attrs.truncated.toNat + 4 * e.answered.toNat := by
    simp only [flags_cons, flags_nil]
    omega
  have htimes : lineOf [fld 54 5 e.created.toNat, fld 59 5 e.changed.toNat] =
      lineShowing [(54, 5, e.created.toNat % 2 ^ 40), (59, 5, e.changed.toNat % 2 ^ 40)] := by
    refine (lineOf_congr ?_).symm
    exact congrArg₂ (fun a b => [a, b]) (fld_bits_mod 54 5 _) (fld_bits_mod 59 5 _)
  refine shows_of_eq ?_ rfl ?_
  · simp only [linkLine, he, hflags, lineOf_append, lineShowing_append, lineOf_srlgs hsrlgs, htimes]
    rfl
  · rw [valuesFit_append, valuesFit_append]
    refine ⟨⟨?_, valuesFit_srlgs _ _⟩, ?_⟩ <;> simp only [valuesFit_cons, valuesFit_nil, and_true] <;> omega

end Sys2Proof.Machine

namespace Sys2Proof.Machine

/-! ### The path line (R172, R191) -/

theorem pathStateCode_lt (x : PathState) : x.code < 7 := by cases x <;> decide

theorem restoreCode_lt (x : RestoreMode) : x.code < 3 := by cases x <;> decide

/-- A route summary is that of the route, zero for an absent one (R185, R191). -/
theorem lineOf_summary (off : Nat) (h : Option HeldRoute) : lineOf (summaryFields off h) = lineShowing (summaryOf off h) := by
  cases h <;> rfl

theorem valuesFit_summary {h : Option HeldRoute} (hfit : ∀ x, h = some x → x.route.Fits ∧ x.struck ≤ 20) (off : Nat) :
    valuesFit (summaryOf off h) := by
  cases h with
  | none => exact valuesFit_nil
  | some x =>
    obtain ⟨⟨hstart, -, hhops, hcost, hnoise, -⟩, hstruck⟩ := hfit x rfl
    simp only [summaryOf, valuesFit_cons, valuesFit_nil, and_true]
    omega

/-- The link IDs of the route carrying traffic, in ten-bit fields (R172, R186). -/
def trafficLinks (e : PathEntry) : Nat := ((trafficRoute e).map fun h => packLinks h.route.links).getD 0

/-- The route carrying traffic is one of the path's routes. -/
theorem trafficRoute_held {e : PathEntry} {h : HeldRoute} (hh : trafficRoute e = some h) : e.primary = some h ∨ e.backup = some h := by
  unfold trafficRoute at hh
  split at hh
  · exact .inr hh
  · exact .inl hh
  · exact .inl hh
  · exact .inl hh
  all_goals cases hh

theorem trafficLinks_lt {e : PathEntry} (hfit : e.Fits) : trafficLinks e < 2 ^ 200 := by
  unfold trafficLinks
  cases hh : trafficRoute e with
  | none => simp
  | some h =>
    obtain ⟨-, -, -, -, -, hlength, -⟩ := (hfit.2.2.2 h (trafficRoute_held hh)).1
    exact Nat.lt_of_lt_of_le (packLinks_lt _) (Nat.pow_le_pow_right (by omega) (by omega))

/-- Each ten-bit field shows a link of the route carrying traffic. -/
theorem trafficLinks_entry {e : PathEntry} (hfit : e.Fits) (n : Nat) : trafficLinks e / 2 ^ (10 * n) % 2 ^ 10 =
    ((trafficRoute e).map (fun h => h.route.links.getD n 0)).getD 0 := by
  unfold trafficLinks
  cases hh : trafficRoute e with
  | none => simp
  | some h =>
    obtain ⟨-, -, -, -, -, -, hlinks⟩ := (hfit.2.2.2 h (trafficRoute_held hh)).1
    exact packLinks_entry hlinks n

theorem pathLine_shows {s : State} {p : Nat} {e : PathEntry} (he : s.paths.entries.get? p = some e) (hfit : e.Fits) :
    Shows (pathLine s p) ([(0, 1, 1), (1, 1, e.state.code), (2, 1, e.cls), (3, 1, e.restore.code),
        (4, 1, e.revertive.toNat + 2 * e.nodeDiverse.toNat + 4 * e.primary.isSome.toNat + 8 * e.backup.isSome.toNat),
        (5, 1, ((e.primary.or e.backup).map (·.route.width)).getD 0), (6, 1, e.srcIndex), (7, 1, e.dstIndex),
        (8, 2, (generationOf s p).toNat), (10, 4, e.originTag.toNat), (14, 4, e.srcId.toNat), (18, 4, e.dstId.toNat)] ++
        summaryOf 22 e.primary ++ summaryOf 30 e.backup ++ [(38, 25, trafficLinks e)]) := by
  obtain ⟨hcls, hsrc, hdst, hroutes⟩ := id hfit
  have hstate := pathStateCode_lt e.state
  have hrestore := restoreCode_lt e.restore
  have hrevertive := e.revertive.toNat_lt
  have hdiverse := e.nodeDiverse.toNat_lt
  have hprimary := e.primary.isSome.toNat_lt
  have hbackup := e.backup.isSome.toNat_lt
  have hflags : flags [e.revertive, e.nodeDiverse, e.primary.isSome, e.backup.isSome] =
      e.revertive.toNat + 2 * e.nodeDiverse.toNat + 4 * e.primary.isSome.toNat + 8 * e.backup.isSome.toNat := by
    simp only [flags_cons, flags_nil]
    omega
  have hwidth : ((e.primary.or e.backup).map (·.route.width)).getD 0 = pathWidth e := by
    unfold pathWidth
    cases e.primary <;> rfl
  have hwidth2 : pathWidth e ≤ 2 := by
    unfold pathWidth
    split
    · next h hh => exact (hroutes h (.inl hh)).1.2.1
    · cases hh : e.backup with
      | none => exact Nat.zero_le 2
      | some h => exact (hroutes h (.inr hh)).1.2.1
  have hlinks := trafficLinks_lt hfit
  rw [hwidth]
  refine shows_of_eq ?_ ?_ ?_
  · simp only [pathLine, he, hflags, lineOf_append, lineShowing_append, lineOf_summary]
    rfl
  · cases e.primary <;> cases e.backup <;> rfl
  · simp only [valuesFit_append]
    refine ⟨⟨⟨?_, valuesFit_summary (fun h hh => hroutes h (.inl hh)) _⟩, valuesFit_summary (fun h hh => hroutes h (.inr hh)) _⟩, ?_⟩
    · simp only [valuesFit_cons, valuesFit_nil, and_true]
      omega
    · simpa only [valuesFit_cons, valuesFit_nil, and_true] using hlinks

/-! ### The result lines (R152, R153, R189) -/

theorem reqOutcomeCode_lt (x : ReqOutcome) : x.code < 12 := by cases x <;> decide

theorem lineOf_routeFields {r : Option Route} (h : ∀ x, r = some x → x.Fits) :
    lineOf (routeFields r) = lineShowing (routeBlockOf r) := by
  cases r with
  | none => rfl
  | some x =>
    obtain ⟨-, -, -, -, -, hlength, -⟩ := h x rfl
    rw [routeFields, routeBlockOf, lineOf_append, lineShowing_append, lineOf_fldList hlength]
    rfl

theorem valuesFit_routeBlock {r : Option Route} (h : ∀ x, r = some x → x.Fits) : valuesFit (routeBlockOf r) := by
  cases r with
  | none => exact valuesFit_nil
  | some x =>
    obtain ⟨hstart, hwidth, hhops, hcost, hnoise, -, hlinks⟩ := h x rfl
    rw [routeBlockOf, valuesFit_append]
    constructor
    · simp only [valuesFit_cons, valuesFit_nil, and_true]
      omega
    · intro y hy
      obtain ⟨n, -, rfl⟩ := List.mem_map.1 hy
      have hlink : x.links.getD n 0 < 1024 := by
        by_cases hn : n < x.links.length
        · rw [List.getD_eq_getElem _ _ hn]
          exact hlinks _ (List.getElem_mem hn)
        · rw [List.getD_eq_default _ _ (Nat.le_of_not_lt hn)]
          omega
      exact Nat.lt_trans hlink (show 1024 < 2 ^ 16 by decide)

/-- A line of `head` and a route block, when the head ends at byte 8. -/
theorem shows_withRoute {r : Option Route} (hr : ∀ x, r = some x → x.Fits) {fs : List Field} {head : List (Nat × Nat × Nat)}
    (hfs : lineOf fs = lineShowing head) (hlayout : ∀ r : Option Route, layoutFrom 0 (head ++ routeBlockOf r) = true)
    (hfit : valuesFit head) : Shows (lineOf (fs ++ routeFields r)) (head ++ routeBlockOf r) :=
  shows_of_eq (by rw [lineOf_append, lineShowing_append, hfs, lineOf_routeFields hr]) (hlayout r)
    ((valuesFit_append _ _).2 ⟨hfit, valuesFit_routeBlock hr⟩)

theorem firstResult_shows {s : State} {tag : BitVec 32} {o : ReqOutcome} {cls path : Option Nat} {src : RouteSource}
    (hroute : ∀ r, sourceRoute s src = some r → r.Fits) (hcls : ∀ k, cls = some k → k < 256) (hpath : ∀ p, path = some p → p < 65536) :
    Shows (resultLine s (.first tag o cls path src))
      ([(0, 4, tag.toNat), (4, 1, o.code), (5, 1, cls.getD 255), (6, 2, path.getD 65535)] ++ routeBlockOf (sourceRoute s src)) := by
  have hcode := reqOutcomeCode_lt o
  have hcls' : cls.getD 255 < 256 := getD_lt (by omega) hcls
  have hpath' : path.getD 65535 < 65536 := getD_lt (by omega) hpath
  refine shows_withRoute hroute rfl (fun r => by cases r <;> rfl) ?_
  simp only [valuesFit_cons, valuesFit_nil, and_true]
  omega

theorem secondResult_shows {s : State} {tag : BitVec 32} {o : ReqOutcome} {src : RouteSource}
    (hroute : ∀ r, sourceRoute s src = some r → r.Fits) : Shows (resultLine s (.second tag o src))
      ([(0, 4, tag.toNat), (4, 1, (secondOutcome s o src).code)] ++ routeBlockOf (sourceRoute s src)) := by
  have hcode := reqOutcomeCode_lt (secondOutcome s o src)
  refine shows_withRoute hroute rfl (fun r => by cases r <;> rfl) ?_
  simp only [valuesFit_cons, valuesFit_nil, and_true]
  omega

/-- The backup outcome's code: for a RESUME or REROUTE, whether the path holds a backup (R153). -/
theorem secondOutcome_code (s : State) (o : ReqOutcome) (src : RouteSource) : (secondOutcome s o src).code =
    match src with
    | .backupOf _ => if (sourceRoute s src).isSome then 1 else 0
    | _ => o.code := by
  cases src with
  | backupOf p =>
    simp only [secondOutcome]
    split <;> rfl
  | absent | fixed r | primaryOf p => rfl

/-! ### The anchor page's lines (R20, R37, R192) -/

theorem cmdOutcomeCode_lt (x : CmdOutcome) : x.code < 8 := by cases x <;> decide

theorem responseLine_shows (s : State) :
    Shows (responseLine s) [(0, 2, s.control.completed.tag.toNat), (2, 2, s.control.completed.code.toNat),
      (4, 1, s.control.completed.outcome.code), (8, 2, s.control.refused.tag.toNat), (10, 2, s.control.refused.code.toNat),
      (12, 1, s.control.refused.outcome.code)] := by
  have hcompleted := cmdOutcomeCode_lt s.control.completed.outcome
  have hrefused := cmdOutcomeCode_lt s.control.refused.outcome
  refine shows_of_eq rfl rfl ?_
  simp only [valuesFit_cons, valuesFit_nil, and_true]
  omega

theorem modeCode_lt (x : Mode) : x.code < 3 := by cases x <;> decide

theorem openBatch_shown {s : State} {tag : BitVec 16} {isOpen : Bool} (h : s.intake.batch = .opened tag ∧ isOpen = true ∨
      (∀ t, s.intake.batch ≠ .opened t) ∧ isOpen = false ∧ tag = 0) : openBatchTag s = tag ∧ batchOpenFlag s = isOpen := by
  unfold openBatchTag batchOpenFlag
  rcases h with ⟨hb, rfl⟩ | ⟨hb, rfl, rfl⟩
  · simp [hb]
  · cases hbatch : s.intake.batch with
    | opened t => exact absurd hbatch (hb t)
    | closed | discarding t => exact ⟨rfl, rfl⟩

theorem statusLine_shows {s : State} (hnodes : s.topology.nodes.length < 65536) (hports : s.topology.ports.length < 65536)
    (hlinks : s.topology.links.length < 65536) (hpaths : s.paths.entries.length < 65536) (hqueue : s.paths.queue.length < 256) :
    Shows (statusLine s) [(0, 1, s.control.mode.code), (1, 1, s.notices.lost.toNat + 2 * (batchOpenFlag s).toNat),
      (2, 2, (openBatchTag s).toNat), (4, 4, s.notices.producer.toNat), (8, 4, s.notices.consumer.toNat),
      (12, 8, s.control.time.toNat), (20, 2, s.topology.nodes.length), (22, 2, s.topology.ports.length),
      (24, 2, s.topology.links.length), (26, 2, s.paths.entries.length), (28, 1, s.paths.queue.length)] := by
  have hmode := modeCode_lt s.control.mode
  have hlost := s.notices.lost.toNat_lt
  have hopen := (batchOpenFlag s).toNat_lt
  refine shows_of_eq ?_ rfl ?_
  · simp only [statusLine, flags_cons, flags_nil]
    rfl
  · simp only [valuesFit_cons, valuesFit_nil, and_true]
    omega

end Sys2Proof.Machine

namespace Sys2Proof.Machine

/-! ### The notice lines (R70, R71, R113, R114, R178, R190) -/

theorem fieldNat_lt (l : Line) (off bytes : Nat) : fieldNat l off bytes < 2 ^ (8 * bytes) := (l.extractLsb' _ _).isLt

/-- A notice line shows its kind, its class, its sequence number, its time and its contents. -/
theorem shows_notice {n : Notice} {seq : BitVec 32} {time : BitVec 64} {kind cls : Nat} {contents : List (Nat × Nat × Nat)}
    (hkind : n.kindClass = (kind, cls)) (hbytes : kind < 256 ∧ cls < 256) (hcontents : lineOf n.contents = lineShowing contents)
    (hlayout : layoutFrom 16 contents = true) (hfit : valuesFit contents) :
    Shows (noticeLine n seq time) ([(0, 1, kind), (1, 1, cls), (4, 4, seq.toNat), (8, 8, time.toNat)] ++ contents) := by
  refine shows_of_eq ?_ hlayout ?_
  · simp only [noticeLine, hkind, lineOf_append, lineShowing_append, hcontents]
    rfl
  · rw [valuesFit_append]
    refine ⟨?_, hfit⟩
    simp only [valuesFit_cons, valuesFit_nil, and_true]
    omega

section
variable (seq : BitVec 32) (time : BitVec 64)

/-- What a notice line shows before its contents. -/
def ShowsNotice (n : Notice) (kind cls : Nat) (contents : List (Nat × Nat × Nat)) : Prop :=
  Shows (noticeLine n seq time) ([(0, 1, kind), (1, 1, cls), (4, 4, seq.toNat), (8, 8, time.toNat)] ++ contents)

theorem nodeAdded_shows {i : Nat} {e : NodeEntry} (hi : i < 256) (hfit : e.Fits) : ShowsNotice seq time (.nodeAdded i e) 1 0
    [(16, 1, i), (17, 1, e.domain), (18, 1, e.transit.toNat), (20, 4, e.netId.toNat), (24, 2, e.penalty)] := by
  obtain ⟨hdomain, -, hpenalty, -⟩ := hfit
  have htransit := e.transit.toNat_lt
  refine shows_notice rfl (by decide) ?_ rfl ?_
  · simp only [Notice.contents, bit_eq_toNat]
    rfl
  · simp only [valuesFit_cons, valuesFit_nil, and_true]
    omega

theorem nodeChanged_shows {i : Nat} {e : NodeEntry} (hi : i < 256) (hfit : e.Fits) (domain penalty transit : Bool) :
    ShowsNotice seq time (.nodeChanged i e domain penalty transit) 2 0
      ([(16, 1, i), (17, 1, e.domain), (18, 1, e.transit.toNat), (20, 4, e.netId.toNat), (24, 2, e.penalty)] ++
        [(26, 1, domain.toNat + 2 * penalty.toNat + 4 * transit.toNat)]) := by
  obtain ⟨hdomain, -, hpenalty, -⟩ := hfit
  have htransit := e.transit.toNat_lt
  have h1 := domain.toNat_lt
  have h2 := penalty.toNat_lt
  have h3 := transit.toNat_lt
  have hflags : flags [domain, penalty, transit] = domain.toNat + 2 * penalty.toNat + 4 * transit.toNat := by
    simp only [flags_cons, flags_nil]
    omega
  refine shows_notice rfl (by decide) ?_ rfl ?_
  · simp only [Notice.contents, bit_eq_toNat, hflags]
    rfl
  · simp only [valuesFit_append, valuesFit_cons, valuesFit_nil, and_true]
    omega

theorem topoReasonCode_lt (x : TopoReason) : x.code < 6 := by cases x <;> decide

theorem nodeRemoved_shows {i ports : Nat} (hi : i < 256) (hports : ports ≤ 256) (id : Id32) (why : TopoReason) :
    ShowsNotice seq time (.nodeRemoved i id why ports) 3 0 [(16, 1, i), (17, 1, why.code), (18, 2, ports), (20, 4, id.toNat)] := by
  have hwhy := topoReasonCode_lt why
  refine shows_notice rfl (by decide) rfl rfl ?_
  simp only [valuesFit_cons, valuesFit_nil, and_true]
  omega

theorem portState_shows {j number farPort : Nat} {oldLink newLink : Option Nat} (hj : j < 2048) (hnumber : number < 256)
    (hfar : farPort < 256) (hlinks : ∀ k, oldLink = some k ∨ newLink = some k → k < 1024) (id farId : Id32)
    (old new : Option Pairing) (why : TopoReason) :
    ShowsNotice seq time (.portState j id number farId farPort old new oldLink newLink why) 4 0
      [(16, 2, j), (18, 1, number), (19, 1, farPort), (20, 4, id.toNat), (24, 4, farId.toNat), (28, 1, pairingCode old),
        (29, 1, pairingCode new), (30, 2, oldLink.getD 65535), (32, 2, newLink.getD 65535), (34, 1, why.code)] := by
  have hwhy := topoReasonCode_lt why
  have hold := pairingCode_lt old
  have hnew := pairingCode_lt new
  have holdLink : oldLink.getD 65535 < 65536 := getD_lt (by omega) fun k hk => by have := hlinks k (.inl hk); omega
  have hnewLink : newLink.getD 65535 < 65536 := getD_lt (by omega) fun k hk => by have := hlinks k (.inr hk); omega
  refine shows_notice rfl (by decide) rfl rfl ?_
  simp only [valuesFit_cons, valuesFit_nil, and_true]
  omega

theorem linkReasonCode_lt (x : LinkReason) : x.code < 4 := by cases x <;> decide

section
variable {k : Nat} {e : LinkEntry} (hk : k < 1024) (hfit : e.Fits)
include hk hfit

theorem linkUp_shows (why : LinkReason) : ShowsNotice seq time (.linkUp k why e) 5 0
    ([(16, 2, k), (18, 1, why.code)] ++ [(20, 4, e.endA.netId.toNat), (24, 4, e.endB.netId.toNat), (28, 1, e.endA.number),
      (29, 1, e.endB.number)] ++ [(30, 2, e.attrs.cost), (32, 2, e.attrs.nu), (34, 1, e.attrs.interDomain.toNat)]) := by
  obtain ⟨hendA, hendB, -, hcost, hnu, -⟩ := hfit
  have hwhy := linkReasonCode_lt why
  have hinter := e.attrs.interDomain.toNat_lt
  refine shows_notice rfl (by decide) ?_ rfl ?_
  · simp only [Notice.contents, flags_cons, flags_nil]
    rfl
  · simp only [valuesFit_append, valuesFit_cons, valuesFit_nil, and_true]
    omega

theorem linkDown_shows (why : LinkReason) (a b : Bool) : ShowsNotice seq time (.linkDown k why e a b) 6 0
    ([(16, 2, k), (18, 1, why.code), (19, 1, a.toNat + 2 * b.toNat)] ++ [(20, 4, e.endA.netId.toNat), (24, 4, e.endB.netId.toNat),
      (28, 1, e.endA.number), (29, 1, e.endB.number)]) := by
  obtain ⟨hendA, hendB, -⟩ := hfit
  have hwhy := linkReasonCode_lt why
  have ha := a.toNat_lt
  have hb := b.toNat_lt
  refine shows_notice rfl (by decide) ?_ rfl ?_
  · simp only [Notice.contents, flags_cons, flags_nil]
    rfl
  · simp only [valuesFit_append, valuesFit_cons, valuesFit_nil, and_true]
    omega

theorem linkChanged_shows (old : LinkAttrs) : ShowsNotice seq time (.linkChanged k old e.attrs) 7 0
    [(16, 2, k), (19, 1, (decide (old.cost ≠ e.attrs.cost)).toNat + 2 * (decide (old.nu ≠ e.attrs.nu)).toNat +
        4 * (decide (old.foreign ≠ e.attrs.foreign)).toNat +
        8 * (decide (old.srlgs ≠ e.attrs.srlgs ∨ old.truncated ≠ e.attrs.truncated)).toNat +
        16 * (decide (old.interDomain ≠ e.attrs.interDomain)).toNat),
      (30, 2, e.attrs.cost), (32, 2, e.attrs.nu), (34, 1, e.attrs.interDomain.toNat + 2 * e.attrs.truncated.toNat)] := by
  obtain ⟨-, -, -, hcost, hnu, -⟩ := hfit
  have hinter := e.attrs.interDomain.toNat_lt
  have htruncated := e.attrs.truncated.toNat_lt
  have h1 := (decide (old.cost ≠ e.attrs.cost)).toNat_lt
  have h2 := (decide (old.nu ≠ e.attrs.nu)).toNat_lt
  have h3 := (decide (old.foreign ≠ e.attrs.foreign)).toNat_lt
  have h4 := (decide (old.srlgs ≠ e.attrs.srlgs ∨ old.truncated ≠ e.attrs.truncated)).toNat_lt
  have h5 := (decide (old.interDomain ≠ e.attrs.interDomain)).toNat_lt
  have hchanged : changedItems old e.attrs =
      (decide (old.cost ≠ e.attrs.cost)).toNat + 2 * (decide (old.nu ≠ e.attrs.nu)).toNat +
        4 * (decide (old.foreign ≠ e.attrs.foreign)).toNat +
        8 * (decide (old.srlgs ≠ e.attrs.srlgs ∨ old.truncated ≠ e.attrs.truncated)).toNat +
        16 * (decide (old.interDomain ≠ e.attrs.interDomain)).toNat := by
    simp only [changedItems, flags_cons, flags_nil, Bool.decide_or]
    omega
  refine shows_notice rfl (by decide) ?_ rfl ?_
  · simp only [Notice.contents, hchanged, flags_cons, flags_nil]
    rfl
  · simp only [valuesFit_cons, valuesFit_nil, and_true]
    omega

theorem linkRetired_shows (why : TopoReason) (former : LinkState) : ShowsNotice seq time (.linkRetired k why e former) 8 0
    ([(16, 2, k), (18, 1, why.code), (19, 1, former.code)] ++ [(20, 4, e.endA.netId.toNat), (24, 4, e.endB.netId.toNat),
      (28, 1, e.endA.number), (29, 1, e.endB.number)]) := by
  obtain ⟨hendA, hendB, -⟩ := hfit
  have hwhy := topoReasonCode_lt why
  have hformer := linkStateCode_lt former
  refine shows_notice rfl (by decide) rfl rfl ?_
  simp only [valuesFit_append, valuesFit_cons, valuesFit_nil, and_true]
  omega

end

theorem recordReasonCode_lt (x : RecordReason) : x.code < 5 := by cases x <;> decide

/-- The kind of a record is that of its byte 0 (R187). -/
theorem recKind_eq (r : Line) : recKind r = match fieldNat r 0 1 with
    | 1 => some .nodeReport
    | 2 => some .portReport
    | 3 => some .portWithdraw
    | 4 => some .nodeWithdraw
    | 5 => some .domainRefresh
    | 6 => some .batchOpen
    | 7 => some .batchClose
    | _ => none := rfl

/-- A RECORD_FAULT names a local port for the two kinds of port records (R70). -/
theorem recLocalPort_eq (r : Line) : recLocalPort r = if fieldNat r 0 1 = 2 ∨ fieldNat r 0 1 = 3 then fieldNat r 8 1 else 0 := by
  unfold recLocalPort
  rw [recKind_eq]
  match hk : fieldNat r 0 1 with
  | 0 | 1 | 2 | 3 | 4 | 5 | 6 | 7 => rfl
  | n + 8 =>
    rw [if_neg (by omega)]
    rfl

/-- A RECORD_FAULT names a subject for the four kinds that have one (R70). -/
theorem recSubject_eq (r : Line) :
    (recSubject r).toNat = if 1 ≤ fieldNat r 0 1 ∧ fieldNat r 0 1 ≤ 4 then fieldNat r 4 4 else 0 := by
  unfold recSubject
  rw [recKind_eq]
  match hk : fieldNat r 0 1 with
  | 0 | 1 | 2 | 3 | 4 | 5 | 6 | 7 => rfl
  | n + 8 =>
    rw [if_neg (by omega)]
    rfl

theorem recordFault_shows (why : RecordReason) (r : Line) {off : Nat} (hoff : off < 65536) :
    ShowsNotice seq time (.recordFault why r off) 9 1
      [(16, 1, why.code), (17, 1, fieldNat r 0 1), (18, 2, fieldNat r 2 2), (20, 2, off),
        (22, 1, if fieldNat r 0 1 = 2 ∨ fieldNat r 0 1 = 3 then fieldNat r 8 1 else 0),
        (24, 4, if 1 ≤ fieldNat r 0 1 ∧ fieldNat r 0 1 ≤ 4 then fieldNat r 4 4 else 0)] := by
  have hwhy := recordReasonCode_lt why
  have hkind := fieldNat_lt r 0 1
  have htag := fieldNat_lt r 2 2
  have hport : recLocalPort r < 2 ^ (8 * 1) := by
    rw [recLocalPort_eq]
    split
    · exact fieldNat_lt r 8 1
    · decide
  rw [← recLocalPort_eq, ← recSubject_eq]
  refine shows_notice rfl (by decide) rfl rfl ?_
  simp only [valuesFit_cons, valuesFit_nil, and_true]
  omega

theorem batchReasonCode_lt (x : BatchReason) : x.code < 5 := by cases x <;> decide

theorem batchFault_shows {kind off removed : Nat} (hkind : kind < 256) (hoff : off < 65536) (hremoved : removed < 256)
    (why : BatchReason) (tag openTag : BitVec 16) : ShowsNotice seq time (.batchFault why kind tag openTag off removed) 10 1
      [(16, 1, why.code), (17, 1, kind), (18, 2, tag.toNat), (20, 2, openTag.toNat), (22, 2, off), (24, 1, removed)] := by
  have hwhy := batchReasonCode_lt why
  refine shows_notice rfl (by decide) rfl rfl ?_
  simp only [valuesFit_cons, valuesFit_nil, and_true]
  omega

theorem observedCode_lt (x : Observed) : x.code < 5 := by cases x <;> decide

theorem partialWrite_shows {n : Nat} (hn : n < 256) (a : Addr) (o : Observed) : ShowsNotice seq time (.partialWrite a o n) 11 1
    [(16, 1, o.code), (17, 1, n), (24, 8, a.toNat)] := by
  have ho := observedCode_lt o
  refine shows_notice rfl (by decide) rfl rfl ?_
  simp only [valuesFit_cons, valuesFit_nil, and_true]
  omega

theorem requestRefused_shows {slot kind : Nat} (hslot : slot < 256) (hkind : kind < 256) (tag : BitVec 32) :
    ShowsNotice seq time (.requestRefused slot tag kind) 13 3 [(16, 1, slot), (17, 1, kind), (18, 1, 1), (20, 4, tag.toNat)] := by
  refine shows_notice rfl (by decide) rfl rfl ?_
  simp only [valuesFit_cons, valuesFit_nil, and_true]
  omega

end

theorem pathReasonCode_lt (x : Option PathReason) : pathReasonCode x < 7 := by
  match x with
  | none | some .requested | some .linkDown | some .linkUp | some .linkRetired | some .restored | some .restoreFailed => decide

theorem pathStateLine_shows {s : State} {p : Nat} {r : NoticeRecord} (hp : p < 512) (hcount : r.count < 65536) :
    Shows (pathStateLine s p r) [(0, 1, 12), (1, 1, 2), (4, 4, s.notices.producer.toNat), (8, 8, s.control.time.toNat), (16, 2, p),
      (18, 2, (generationOf s p).toNat), (20, 1, ((s.paths.entries.get? p).map (·.state.code)).getD 0),
      (21, 1, pathReasonCode r.reason), (22, 2, r.count)] := by
  have hreason := pathReasonCode_lt r.reason
  have hstate : ((s.paths.entries.get? p).map (·.state.code)).getD 0 < 7 := by
    cases s.paths.entries.get? p with
    | none => decide
    | some e => exact pathStateCode_lt e.state
  refine shows_of_eq rfl rfl ?_
  simp only [valuesFit_cons, valuesFit_nil, and_true]
  omega

/-- Settles O60: each line is the line of its layout, and the layout's values fit. -/
theorem linesShowTheirFields : Obligations.LinesShowTheirFields := by
  refine ⟨⟨rfl, rfl, rfl, rfl, rfl, rfl, rfl, rfl, rfl, rfl, rfl, rfl, rfl, rfl⟩, fun s n => ⟨fun h => ?_, fun h => ?_, fun h => ?_, fun h => ?_⟩,
    fun s i e he hfit => nodeLine_shows he hfit, fun s j e he hfit => portLine_shows he hfit,
    fun s k e he hfit => linkLine_shows he hfit, fun s p e he hfit => ⟨trafficLinks e, fun n _ => ?_, pathLine_shows he hfit⟩,
    fun s tag o cls path src shown hshown hfit => ?_, fun s hnodes hports hlinks hpaths hqueue tag isOpen hopen => ?_,
    responseLine_shows, fun seq time => ⟨fun i e hi hfit => ⟨nodeAdded_shows seq time hi hfit, nodeChanged_shows seq time hi hfit⟩,
      fun i ports id why hi hports => nodeRemoved_shows seq time hi hports id why,
      fun j number farPort id farId old new oldLink newLink why hj hnumber hfar hlinks =>
        portState_shows seq time hj hnumber hfar hlinks id farId old new why,
      fun k e hk hfit => ⟨linkUp_shows seq time hk hfit, linkDown_shows seq time hk hfit, linkChanged_shows seq time hk hfit,
        linkRetired_shows seq time hk hfit⟩,
      fun why r off hoff => recordFault_shows seq time why r hoff,
      fun why kind off removed tag openTag hkind hoff hremoved => batchFault_shows seq time hkind hoff hremoved why tag openTag,
      fun a o n hn => partialWrite_shows seq time hn a o,
      fun slot kind tag hslot hkind => requestRefused_shows seq time hslot hkind tag⟩,
    fun s p r hp hcount => pathStateLine_shows hp hcount⟩
  · simp only [nodeLine, h]
  · simp only [portLine, h]
  · simp only [linkLine, h]
  · simp only [pathLine, h]
  · rw [trafficLinks_entry hfit, trafficRoute]
    cases e.state <;> rfl
  · have hsource : shown = sourceRoute s src := by
      rw [hshown]
      cases src <;> rfl
    subst hsource
    refine ⟨firstResult_shows hfit, ?_⟩
    have hsecond := secondResult_shows (tag := tag) (o := o) hfit
    rw [secondOutcome_code] at hsecond
    cases src <;> exact hsecond
  · obtain ⟨htag, hflag⟩ := openBatch_shown hopen
    rw [← htag, ← hflag]
    exact statusLine_shows hnodes hports hlinks hpaths hqueue

end Sys2Proof.Machine

namespace Sys2Proof.Machine

/-! ### What a command leaves of the time base, the mode and the configuration (R20, R26, R29, R38, R41) -/

/-- The time base, the mode and the configuration are as before. -/
structure SameSettings (s t : State) : Prop where
  time : t.control.time = s.control.time := by rfl
  mode : t.control.mode = s.control.mode := by rfl
  holdTimeout : t.control.holdTimeout = s.control.holdTimeout := by rfl
  enables : t.control.enables = s.control.enables := by rfl
  decoder : t.decoder = s.decoder := by rfl
  profiles : t.profiles = s.profiles := by rfl

theorem SameSettings.refl (s : State) : SameSettings s s := {}

theorem SameSettings.trans {s t u : State} (h : SameSettings s t) (k : SameSettings t u) : SameSettings s u :=
  ⟨k.time.trans h.time, k.mode.trans h.mode, k.holdTimeout.trans h.holdTimeout, k.enables.trans h.enables,
   k.decoder.trans h.decoder, k.profiles.trans h.profiles⟩

theorem Kept.settings {s t : State} (h : Kept s t) : SameSettings s t :=
  ⟨h.time, h.mode, h.holdTimeout, h.enables, h.decoder, h.profiles⟩

theorem SameFrame.settings {s t : State} (h : SameFrame s t) : SameSettings s t := h.kept.settings

/-- Settling, and the launch of an operation, keep the settings of the state that they find. -/
theorem SameSettings.settle {s u : State} (h : SameSettings s u) : SameSettings s (settleAll u) := h.trans (settleAll_kept u).settings

theorem SameSettings.launch {s u : State} (h : SameSettings s u) (t : Thread) (ops : List Op) : SameSettings s (launch u t ops) :=
  h.trans (launch_kept u t ops).settings

/-! ### The shared operations -/

theorem sameSettings_imageWrite (s : State) : SameSettings s (imageWrite s) := (doneFrame_imageWrite .control s).kept.settings

theorem sameSettings_finishRecord (s : State) (r : Line) (o : CmdOutcome) : SameSettings s (finishRecord s r o) :=
  SameSettings.trans {} (sameSettings_imageWrite _)

theorem sameSettings_completeCommand (s : State) (o : CmdOutcome) : SameSettings s (completeCommand s o) :=
  (doneFrame_completeCommand .control s o).kept.settings

theorem sameSettings_judgeCommands (rs : List Line) (s : State) : SameSettings s (judgeCommands rs s) := by
  induction rs generalizing s with
  | nil => exact {}
  | cons r rs ih =>
    have hrefused : SameSettings s (refuseRecord s r) := SameSettings.trans {} (sameSettings_imageWrite _)
    unfold judgeCommands
    split
    · exact ih s
    · split
      · exact hrefused.trans (ih _)
      · exact {}

theorem sameSettings_requestTopology (s : State) : SameSettings s (requestTopology s) := by
  unfold requestTopology
  split
  · exact .refl s
  · split
    · exact .refl s
    · exact SameSettings.trans {} (sameFrame_requestGrant _ _).settings

/-- What the effect of a command keeps, the command keeps, when the records behind it are judged without harm to it (R21). -/
theorem onRecord_keeps {R : State → State → Prop} (hsettings : ∀ s t, SameSettings s t → R s t)
    (htrans : ∀ {s t u}, R s t → R t u → R s u) {p : Line → Bool} {f : Line → State → State} (hf : ∀ r s, R s (f r s)) (s : State) :
    R s (onRecord p f s) := by
  unfold onRecord
  split
  · exact hsettings _ _ (.refl s)
  · split
    · exact htrans (htrans (hsettings _ _ {}) (hf _ _)) (hsettings _ _ (sameSettings_judgeCommands _ _))
    · exact hsettings _ _ (.refl s)

theorem live_keeps {R : State → State → Prop} {f : State → State} {s t : State} (hrefl : R s s) (hf : ∀ s, R s (f s))
    (h : live s f = .next t) : R s t := by
  unfold live at h
  cases h
  split
  · exact hrefl
  · exact hf s

/-! ### The ports and the write-back queue -/

theorem sameSettings_decodeWrite (s : State) (w : LineWrite) (c : LineClass) : SameSettings s (decodeWrite s w c) := by
  unfold decodeWrite
  split
  · unfold handOver
    split
    · exact sameSettings_judgeCommands _ _
    all_goals exact {}
  · split
    · exact (SameSettings.refl _).launch _ _
    · exact .refl _

theorem sameSettings_acceptHead (s : State) : SameSettings s (acceptHead s) := by
  unfold acceptHead
  split
  · exact .refl s
  · split
    · exact .refl s
    · exact SameSettings.trans {} (sameSettings_decodeWrite _ _ _)

theorem sameSettings_acceptRead (s : State) (a : Addr) (tag : Nat) : SameSettings s (acceptRead s a tag) := by
  unfold acceptRead
  repeat' split
  all_goals exact {}

theorem sameSettings_returnResponse (s : State) (tag : Nat) (answer : ReadData) : SameSettings s (returnResponse s tag answer) := by
  unfold returnResponse
  split <;> exact {}

theorem sameSettings_releaseDue (s : State) (entry : Nat) : SameSettings s (releaseDue s entry) := by
  unfold releaseDue
  repeat' split
  all_goals exact {}

theorem sameSettings_issueOldest (s : State) : SameSettings s (issueOldest s) := by
  unfold issueOldest issueItem
  split
  · exact .refl s
  · split
    · exact {}
    · dsimp only
      split
      · rw [resultIssued_eq]
        exact {}
      · exact {}

theorem sameSettings_giveRoom (s : State) : SameSettings s (giveRoom s) := by
  have hdrop : SameSettings s (dropWaiter s) := {}
  unfold giveRoom
  split
  · split
    · exact (hdrop.trans (micro_kept true _ _).settings).settle
    · exact .refl s
  · repeat' split
    all_goals exact {}
  · exact .refl s

theorem sameSettings_giveResponseRoom (s : State) : SameSettings s (giveResponseRoom s) := by
  unfold giveResponseRoom
  repeat' split
  all_goals exact {}

theorem sameSettings_giveStrikeRoom (s : State) : SameSettings s (giveStrikeRoom s) := by
  unfold giveStrikeRoom
  split
  · exact SameSettings.settle {}
  · exact .refl s

/-! ### The commands of the control unit -/

theorem sameSettings_runLoadProfile (r : Line) (s : State) : SameSettings s (runLoadProfile r s) := by
  unfold runLoadProfile
  split
  · exact sameSettings_finishRecord _ _ _
  · split
    · exact sameSettings_finishRecord _ _ _
    · exact {}

theorem sameSettings_setPhase (s : State) (phase : Phase) : SameSettings s (setPhase s phase) := by
  unfold setPhase
  split <;> exact {}

theorem sameSettings_answerProfileRead (answer : ReadData) (s : State) : SameSettings s (answerProfileRead answer s) := by
  unfold answerProfileRead
  split
  · exact .refl s
  · refine SameSettings.trans (t := ownReadAnswered s) {} ?_
    dsimp only
    repeat' split
    · exact sameSettings_completeCommand _ _
    · exact sameSettings_setPhase _ _
    · exact sameSettings_completeCommand _ _
    · exact sameSettings_completeCommand _ _
    · exact .refl _

theorem sameSettings_runClearTopology (r : Line) (s : State) : SameSettings s (runClearTopology r s) := by
  unfold runClearTopology
  split
  · exact sameSettings_finishRecord _ _ _
  · split
    · exact sameSettings_finishRecord _ _ _
    · exact SameSettings.trans {} (sameSettings_requestTopology _)

theorem sameSettings_runClearPaths (r : Line) (s : State) : SameSettings s (runClearPaths r s) := by
  unfold runClearPaths
  split
  · exact sameSettings_finishRecord _ _ _
  · exact SameSettings.launch {} _ _

/-! ### The commands that set the configuration -/

/-- The time base and the mode are as before. -/
structure SameClock (s t : State) : Prop where
  time : t.control.time = s.control.time := by rfl
  mode : t.control.mode = s.control.mode := by rfl

theorem SameSettings.clock {s t : State} (h : SameSettings s t) : SameClock s t := ⟨h.time, h.mode⟩

theorem SameClock.refl (s : State) : SameClock s s := {}

theorem SameClock.trans {s t u : State} (h : SameClock s t) (k : SameClock t u) : SameClock s u :=
  ⟨k.time.trans h.time, k.mode.trans h.mode⟩

theorem sameClock_launch {s u : State} (h : SameClock s u) (t : Thread) (ops : List Op) : SameClock s (launch u t ops) :=
  h.trans (launch_kept u t ops).settings.clock

theorem sameClock_runSetWindows (r : Line) (s : State) : SameClock s (runSetWindows r s) := by
  unfold runSetWindows
  split
  · exact (sameSettings_finishRecord _ _ _).clock
  · split
    · exact (sameSettings_finishRecord _ _ _).clock
    · split
      · exact (sameSettings_finishRecord _ _ _).clock
      · exact sameClock_launch {} _ _

theorem sameClock_installWaiting (s : State) : SameClock s (installWaiting s) := by
  have hinstalled : ∀ d p, SameClock s (installProfile s d p) := fun _ _ => {}
  unfold installWaiting
  split
  · split
    · exact .refl s
    · split
      · split
        · exact (hinstalled _ _).trans ((sameSettings_setPhase _ _).trans (sameSettings_requestTopology _)).clock
        · exact (sameSettings_completeCommand _ _).clock
      · exact (hinstalled _ _).trans (sameSettings_completeCommand _ _).clock
  · exact .refl s

theorem sameClock_runLoadClasses (r : Line) (s : State) : SameClock s (runLoadClasses r s) := by
  unfold runLoadClasses
  split
  · exact (sameSettings_finishRecord _ _ _).clock
  · split
    · exact (sameSettings_finishRecord _ _ _).clock
    · split
      · exact (sameSettings_finishRecord _ _ _).clock
      · exact SameClock.trans {} (sameSettings_finishRecord _ _ _).clock

theorem sameClock_runSetTiming (r : Line) (s : State) : SameClock s (runSetTiming r s) :=
  SameClock.trans {} (sameSettings_finishRecord _ _ _).clock

theorem sameClock_runSetReporting (r : Line) (s : State) : SameClock s (runSetReporting r s) := by
  unfold runSetReporting
  split
  · exact sameClock_launch {} _ _
  · exact SameClock.trans {} (sameSettings_finishRecord _ _ _).clock

/-! ### The commands that change the mode -/

/-- The time base is as before. -/
structure SameTime (s t : State) : Prop where
  time : t.control.time = s.control.time := by rfl

theorem SameSettings.sameTime {s t : State} (h : SameSettings s t) : SameTime s t := ⟨h.time⟩

theorem SameTime.trans {s t u : State} (h : SameTime s t) (k : SameTime t u) : SameTime s u := ⟨k.time.trans h.time⟩

theorem sameTime_launch {s u : State} (h : SameTime s u) (t : Thread) (ops : List Op) : SameTime s (launch u t ops) :=
  h.trans (launch_kept u t ops).settings.sameTime

theorem sameTime_runStart (r : Line) (s : State) : SameTime s (runStart r s) := by
  unfold runStart
  split
  · exact (sameSettings_finishRecord _ _ _).sameTime
  · exact sameTime_launch {} _ _

theorem sameTime_stopIntake (s : State) : SameTime s (stopIntake s) := by
  unfold stopIntake
  split
  · exact sameTime_launch {} _ _
  · exact {}

theorem sameTime_runStop (r : Line) (s : State) : SameTime s (runStop r s) := by
  unfold runStop
  split
  · exact (sameSettings_finishRecord _ _ _).sameTime
  · exact (sameTime_launch {} _ _).trans (sameTime_stopIntake _)

theorem sameTime_endDrain (s : State) : SameTime s (endDrain s) := by
  unfold endDrain
  split
  · exact sameTime_launch {} _ _
  · exact {}

theorem sameTime_runRestart (r : Line) (s : State) : SameTime s (runRestart r s) := sameTime_launch {} _ _

/-! ### How far each command reaches -/

/-- What a command may change of the settings: nothing, a part of the configuration, the mode, or, for the reset pin, all of them. -/
inductive Reach where
  | nothing | configuration | mode | pin

/-- The reach of each command (R5, R20, R26, R29, R38, R41). -/
def reach : Instr → Reach
  | .resetAsserted | .resetReleased _ => .pin
  | .setWindows | .profileInstallation | .loadClasses | .setTiming | .setReporting => .configuration
  | .start | .stop | .drainEnd | .restart => .mode
  | _ => .nothing

/-! ### The notice unit, the intake unit and the topology unit -/

theorem sameSettings_acknowledgeNext (s : State) : SameSettings s (acknowledgeNext s) := by
  unfold acknowledgeNext
  split
  · exact .refl s
  · split
    · exact .refl s
    · exact SameSettings.launch {} _ _

theorem sameSettings_placeRecord (s : State) (r : HandedRecord) : SameSettings s (placeRecord s r).1 := by
  unfold placeRecord placeOpen placeClose placeReport
  repeat' split
  all_goals exact {}

theorem sameSettings_takeRecord (s : State) : SameSettings s (takeRecord s) := by
  unfold takeRecord
  split
  · exact .refl s
  · split
    · exact .refl s
    · exact (SameSettings.trans {} (sameSettings_placeRecord _ _)).launch _ _

theorem sameSettings_applyLoose (s : State) : SameSettings s (applyLoose s) := by
  unfold applyLoose
  repeat' split
  · exact SameSettings.launch {} _ _
  all_goals exact .refl s

theorem sameSettings_applyBatch (s : State) : SameSettings s (applyBatch s) := by
  unfold applyBatch
  repeat' split
  · exact SameSettings.launch {} _ _
  all_goals exact .refl s

theorem sameSettings_noteDue (e : EntryName) (s : State) : SameSettings s (noteDue e s) := by
  unfold noteDue
  split
  · exact sameSettings_requestTopology s
  · exact .refl s

theorem sameSettings_expireNext (s : State) : SameSettings s (expireNext s) := by
  unfold expireNext
  repeat' split
  · exact (SameSettings.refl s).launch _ _
  · exact (SameSettings.refl s).launch _ _
  · exact (sameFrame_endTopology s).settings
  · exact .refl s

theorem sameSettings_releaseLink (s : State) : SameSettings s (releaseLink s) := by
  unfold releaseLink
  repeat' split
  · exact SameSettings.launch {} _ _
  all_goals exact .refl s

theorem sameSettings_reconvert (s : State) : SameSettings s (reconvert s) := by
  unfold reconvert
  repeat' split
  · exact (SameSettings.refl s).launch _ _
  all_goals exact .refl s

theorem sameSettings_clearTopology (s : State) : SameSettings s (clearTopology s) := by
  unfold clearTopology
  repeat' split
  · exact SameSettings.launch {} _ _
  all_goals exact .refl s

/-! ### The path table unit -/

theorem sameSettings_takeRequest (s : State) : SameSettings s (takeRequest s) := by
  unfold takeRequest
  split
  · exact .refl s
  · split
    · exact .refl s
    · dsimp only
      repeat' split
      · exact {}
      all_goals exact SameSettings.launch {} _ _

theorem sameSettings_selectRestoration (s : State) (p : Nat) : SameSettings s (selectRestoration s p) :=
  SameSettings.trans {} (sameFrame_requestGrant _ _).settings

theorem sameSettings_selectWaiting (s : State) (q : QueuedRequest) : SameSettings s (selectWaiting s q) :=
  (SameSettings.trans {} (sameFrame_requestGrant _ _).settings).launch _ _

theorem SameSettings.selectAnswered {s u : State} (h : SameSettings s u) (q : QueuedRequest) (items : List Op) :
    SameSettings s (selectAnswered q u items) :=
  (h.trans {}).launch _ _

theorem sameSettings_selectRequest (s : State) (q : QueuedRequest) : SameSettings s (selectRequest s q) := by
  have hanswered : ∀ items, SameSettings s (selectAnswered q s items) := (SameSettings.refl s).selectAnswered q
  unfold selectRequest
  split
  · exact hanswered _
  · split
    · exact sameSettings_selectWaiting s q
    · split
      · exact sameSettings_selectWaiting s q
      · exact hanswered _
    · exact sameSettings_selectWaiting s q
    · unfold selectRelease
      split
      · exact hanswered _
      · exact ((sameFrame_unreserveAll s _).trans (sameFrame_freePath _ _)).settings.selectAnswered q _
    · unfold selectResume
      repeat' split
      · exact hanswered _
      · exact (sameFrame_storePath s _ _).settings.selectAnswered q _
      · exact hanswered _
    · exact hanswered _

theorem sameSettings_selectNext (s : State) : SameSettings s (selectNext s) := by
  have hrequest : ∀ q rest, SameSettings s (selectRequest { s with paths := { s.paths with queue := rest } } q) :=
    fun q _ => SameSettings.trans {} (sameSettings_selectRequest _ q)
  unfold selectNext
  repeat' split
  · exact .refl s
  · exact sameSettings_selectRestoration s _
  · exact sameSettings_selectRestoration s _
  · exact hrequest _ _
  · exact hrequest _ _
  · exact .refl s

theorem sameSettings_dropRestoration (s : State) (o : Operation) : SameSettings s (dropRestoration s o) :=
  SameSettings.trans {} (sameFrame_releaseGrant _).settings

theorem sameSettings_takeUpRequest (s : State) (o : Operation) (q : QueuedRequest) : SameSettings s (takeUpRequest s o q) := by
  unfold takeUpRequest
  repeat' split
  · exact {}
  · exact SameSettings.launch {} _ _
  · exact {}

theorem sameSettings_takeUpGrant (s : State) : SameSettings s (takeUpGrant s) := by
  unfold takeUpGrant
  repeat' split
  · exact {}
  · exact sameSettings_dropRestoration _ _
  · exact sameSettings_dropRestoration _ _
  · exact sameSettings_takeUpRequest _ _ _
  · exact .refl s
  · exact .refl s

theorem sameSettings_endComputation (s : State) : SameSettings s (endComputation s) := by
  unfold endComputation
  repeat' split
  · exact (SameSettings.trans {} (sameFrame_endItem _ _ _).settings).launch _ _
  all_goals exact .refl s

theorem sameSettings_nextStrike {s u : State} {kind : StrikeKind} {k : Nat} (h : nextStrike s kind = some (k, u)) :
    SameSettings s u := by
  unfold nextStrike at h
  split at h
  · cases h
  · split at h
    · cases h
      exact {}
    · cases h

theorem sameSettings_strikeDown (s : State) : SameSettings s (strikeDown s) := by
  unfold strikeDown
  split
  · exact .refl s
  · next k u h =>
    have hu := sameSettings_nextStrike h
    split
    · exact hu
    · exact (hu.trans (sameFrame_setFlag u k true).settings).launch _ _

theorem sameSettings_strikeUp (s : State) : SameSettings s (strikeUp s) := by
  unfold strikeUp
  split
  · exact .refl s
  · next k u h =>
    have hu := sameSettings_nextStrike h
    split
    · exact (hu.trans (sameFrame_setFlag u k false).settings).launch _ _
    · exact hu

theorem sameSettings_strikeRetire (s : State) : SameSettings s (strikeRetire s) := by
  unfold strikeRetire
  split
  · exact .refl s
  · next k u h => exact (sameSettings_nextStrike h).launch _ _

/-! ### All commands -/

theorem exec_sameSettings {c : Instr} {s t : State} (hc : reach c = .nothing) (h : exec c s = .next t) :
    SameSettings s t := by
  have keeps : ∀ {f : State → State}, (∀ s, SameSettings s (f s)) → live s f = .next t → SameSettings s t :=
    fun hf => live_keeps (.refl s) hf
  have record : ∀ {p : Line → Bool} {f : Line → State → State}, (∀ r s, SameSettings s (f r s)) →
      live s (onRecord p f) = .next t → SameSettings s t :=
    fun hf => keeps (onRecord_keeps (fun _ _ k => k) SameSettings.trans hf)
  cases c with
  | resetAsserted | resetReleased straps | setWindows | profileInstallation | loadClasses | setTiming | setReporting | start | stop
  | drainEnd | restart => cases hc
  | writeAccepted presented =>
    cases presented with
    | none => exact keeps sameSettings_acceptHead h
    | some w =>
      simp only [exec, execWriteAccepted] at h
      split at h
      · exact keeps (fun s => SameSettings.trans {} (sameSettings_acceptHead (present s w))) h
      · cases h
  | readAccepted a tag =>
    simp only [exec, execReadAccepted] at h
    split at h
    · exact keeps (fun s => sameSettings_acceptRead s a tag) h
    · cases h
  | readResponse tag answer => exact keeps (fun s => sameSettings_returnResponse s tag answer) h
  | holdDeadline entry => exact keeps (fun s => sameSettings_releaseDue s entry) h
  | writeBackIssue => exact keeps sameSettings_issueOldest h
  | writeBackRoom => exact keeps sameSettings_giveRoom h
  | responseWrite => exact keeps sameSettings_giveResponseRoom h
  | strikeQueueRoom => exact keeps sameSettings_giveStrikeRoom h
  | unknownCommand => exact record (fun r s => sameSettings_finishRecord s r .unknownCommand) h
  | loadProfile => exact record sameSettings_runLoadProfile h
  | profileReadResponse answer => exact keeps (sameSettings_answerProfileRead answer) h
  | profileReconversion => exact keeps sameSettings_reconvert h
  | clearTopology => exact record sameSettings_runClearTopology h
  | clearTopologyOperation => exact keeps sameSettings_clearTopology h
  | clearPaths => exact record sameSettings_runClearPaths h
  | acknowledgement => exact keeps sameSettings_acknowledgeNext h
  | intakeRecordTaking => exact keeps sameSettings_takeRecord h
  | topologyRequest => exact keeps sameSettings_requestTopology h
  | looseRecordApplication => exact keeps sameSettings_applyLoose h
  | batchApplication => exact keeps sameSettings_applyBatch h
  | entryDue entry => exact keeps (sameSettings_noteDue entry) h
  | expiry => exact keeps sameSettings_expireNext h
  | linkIdRelease => exact keeps sameSettings_releaseLink h
  | requestTaking => exact keeps sameSettings_takeRequest h
  | selection => exact keeps sameSettings_selectNext h
  | grantTakeUp => exact keeps sameSettings_takeUpGrant h
  | computationEnd => exact keeps sameSettings_endComputation h
  | downEvent => exact keeps sameSettings_strikeDown h
  | upEvent => exact keeps sameSettings_strikeUp h
  | retireEvent => exact keeps sameSettings_strikeRetire h

theorem exec_sameClock {c : Instr} {s t : State} (hc : reach c = .configuration) (h : exec c s = .next t) : SameClock s t := by
  have record : ∀ {p : Line → Bool} {f : Line → State → State}, (∀ r s, SameClock s (f r s)) →
      live s (onRecord p f) = .next t → SameClock s t :=
    fun hf => live_keeps (.refl s) (onRecord_keeps (fun _ _ k => k.clock) SameClock.trans hf)
  cases c with
  | setWindows => exact record sameClock_runSetWindows h
  | profileInstallation => exact live_keeps (.refl s) sameClock_installWaiting h
  | loadClasses => exact record sameClock_runLoadClasses h
  | setTiming => exact record sameClock_runSetTiming h
  | setReporting => exact record sameClock_runSetReporting h
  | _ => cases hc

theorem exec_sameTime {c : Instr} {s t : State} (hc : reach c = .mode) (h : exec c s = .next t) : SameTime s t := by
  have record : ∀ {p : Line → Bool} {f : Line → State → State}, (∀ r s, SameTime s (f r s)) →
      live s (onRecord p f) = .next t → SameTime s t :=
    fun hf => live_keeps {} (onRecord_keeps (fun _ _ k => k.sameTime) SameTime.trans hf)
  cases c with
  | start => exact record sameTime_runStart h
  | stop => exact record sameTime_runStop h
  | drainEnd => exact live_keeps {} sameTime_endDrain h
  | restart => exact record sameTime_runRestart h
  | _ => cases hc

/-- Settles O11: a command keeps the settings, or the clock, or the time, by what it may change. -/
theorem timeAndModeChangeOnlyBy : Obligations.TimeAndModeChangeOnlyBy := by
  refine ⟨fun c s t h hassert hrelease => ?_, fun c s t h hassert hstart hstop hdrain hrestart => ?_⟩
  · cases c with
    | resetAsserted => exact absurd rfl hassert
    | resetReleased straps => exact absurd rfl (hrelease straps)
    | setWindows | profileInstallation | loadClasses | setTiming | setReporting => exact (exec_sameClock rfl h).time
    | start | stop | drainEnd | restart => exact (exec_sameTime rfl h).time
    | _ => exact (exec_sameSettings rfl h).time
  · cases c with
    | resetAsserted => exact absurd rfl hassert
    | start => exact absurd rfl hstart
    | stop => exact absurd rfl hstop
    | drainEnd => exact absurd rfl hdrain
    | restart => exact absurd rfl hrestart
    | resetReleased straps =>
      cases h
      split <;> rfl
    | setWindows | profileInstallation | loadClasses | setTiming | setReporting => exact (exec_sameClock rfl h).mode
    | _ => exact (exec_sameSettings rfl h).mode

end Sys2Proof.Machine

namespace Sys2Proof.Machine

/-! ### Items queued and posted leave the database and its grant -/

/-- The state with what the topology unit reads replaced. -/
def withDatabase (s : State) (t : Topology) (a : Arbiter) (p : ProfileStore) : State :=
  { s with topology := t, arbiter := a, profiles := p }

section
variable (s : State) (t : Topology) (a : Arbiter) (p : ProfileStore)

@[simp] theorem withDatabase_decoder : (withDatabase s t a p).decoder = s.decoder := rfl

@[simp] theorem withDatabase_control : (withDatabase s t a p).control = s.control := rfl

@[simp] theorem withDatabase_notices : (withDatabase s t a p).notices = s.notices := rfl

@[simp] theorem ringUsed_withDatabase : ringUsed (withDatabase s t a p) = ringUsed s := rfl

theorem withRef_withDatabase (r : Ref) : withRef (withDatabase s t a p) r = withDatabase (withRef s r) t a p := by
  simp only [withRef_eq, withDatabase]

theorem noticeLost_withDatabase : noticeLost (withDatabase s t a p) = withDatabase (noticeLost s) t a p := by
  simp only [noticeLost, withRef_eq, withDatabase]
  split <;> rfl

theorem noticeWritten_withDatabase (w : Windows) (l : Line) :
    noticeWritten (withDatabase s t a p) w l = withDatabase (noticeWritten s w l) t a p := by
  simp only [noticeWritten, withRef_eq, withDatabase]
  rfl

theorem pathNotified_withDatabase (w : Windows) (k : Nat) :
    pathNotified w (withDatabase s t a p) k = withDatabase (pathNotified w s k) t a p := by
  simp only [pathNotified, withRef_eq, withDatabase]
  rfl

theorem posted_withDatabase (n : Notice) : posted (withDatabase s t a p) n = withDatabase (posted s n) t a p := by
  have henabled : noticeEnabled (withDatabase s t a p) n = noticeEnabled s n := noticeEnabled_congr rfl n
  simp only [posted, henabled, noticeLost_withDatabase, noticeWritten_withDatabase, withDatabase_decoder, withDatabase_control,
    withDatabase_notices, ringUsed_withDatabase]
  split
  · rfl
  · cases s.decoder.windows with
    | none => rfl
    | some w => exact (apply_ite (withDatabase · t a p) _ _ _).symm

theorem pathStatePosted_withDatabase (k : Nat) (why : PathReason) :
    pathStatePosted (withDatabase s t a p) k why = withDatabase (pathStatePosted s k why) t a p := by
  have hrecord : ∀ r, withRecord (withDatabase s t a p) k r = withDatabase (withRecord s k r) t a p := fun _ => rfl
  have hread : noticeRecord (withDatabase s t a p) k = noticeRecord s k := rfl
  simp only [pathStatePosted, hrecord, hread, pathNotified_withDatabase, withDatabase_decoder, withDatabase_control,
    withDatabase_notices, ringUsed_withDatabase]
  split
  · rfl
  · cases s.decoder.windows with
    | none => rfl
    | some w => exact (apply_ite (withDatabase · t a p) _ _ _).symm

theorem withOne_withDatabase (x : Said) : withOne (withDatabase s t a p) x = withDatabase (withOne s x) t a p := by
  cases x with
  | ref r => exact withRef_withDatabase s t a p r
  | post n => exact posted_withDatabase s t a p n
  | pathState k why => exact pathStatePosted_withDatabase s t a p k why

theorem withSaid_withDatabase (xs : List Said) : withSaid (withDatabase s t a p) xs = withDatabase (withSaid s xs) t a p := by
  induction xs generalizing s with
  | nil => rfl
  | cons x xs ih => exact (congrArg (withSaid · xs) (withOne_withDatabase s t a p x)).trans (ih _)

end

theorem withSaid_database (s : State) (xs : List Said) :
    withSaid s xs = withDatabase (withSaid s xs) s.topology s.arbiter s.profiles :=
  withSaid_withDatabase s s.topology s.arbiter s.profiles xs

@[simp] theorem withSaid_topology (s : State) (xs : List Said) : (withSaid s xs).topology = s.topology := by
  rw [withSaid_database]
  rfl

@[simp] theorem withSaid_arbiter (s : State) (xs : List Said) : (withSaid s xs).arbiter = s.arbiter := by
  rw [withSaid_database]
  rfl

@[simp] theorem withSaid_profiles (s : State) (xs : List Said) : (withSaid s xs).profiles = s.profiles := by
  rw [withSaid_database]
  rfl

/-- The state with the topology tables replaced. -/
def withTopology (s : State) (t : Topology) : State := { s with topology := t }

theorem withSaid_withTopology (s : State) (t : Topology) (xs : List Said) :
    withSaid (withTopology s t) xs = withTopology (withSaid s xs) t := by
  have h := withSaid_withDatabase s t s.arbiter s.profiles xs
  rw [withSaid_database s xs]
  exact h

/-! ### Effects that read the database and change its tables alone -/

/-- The state after an effect and its items. -/
def Effect.after (x : Effect) : State := withSaid x.state x.said

/-- An effect that reads what the topology unit reads, and changes the topology tables alone. -/
def OnTables (f : State → Effect) : Prop :=
  ∀ s u : State, u.topology = s.topology → u.arbiter = s.arbiter → u.profiles = s.profiles →
    f u = { state := withTopology u (f s).state.topology, said := (f s).said }

theorem OnTables.state {f : State → Effect} (h : OnTables f) (s : State) : (f s).state = withTopology s (f s).state.topology :=
  congrArg Effect.state (h s s rfl rfl rfl)

theorem OnTables.none : OnTables Effect.none := by
  rintro s u ht - -
  simp only [Effect.none, ← ht]
  rfl

/-- The items of one effect do not change what the next one does. -/
theorem OnTables.withSaid {f : State → Effect} (h : OnTables f) (s : State) (xs : List Said) :
    f (withSaid s xs) = { state := Machine.withSaid (f s).state xs, said := (f s).said } := by
  rw [h s _ (withSaid_topology s xs) (withSaid_arbiter s xs) (withSaid_profiles s xs), ← withSaid_withTopology, ← h.state]

theorem OnTables.after_andThen {f : State → Effect} (h : OnTables f) (x : Effect) : (x.andThen f).after = (f x.after).after := by
  simp only [Effect.after, Effect.andThen, h.withSaid, withSaid_append]

theorem OnTables.said_andThen {f : State → Effect} (h : OnTables f) (x : Effect) : (x.andThen f).said = x.said ++ (f x.after).said := by
  simp only [Effect.after, Effect.andThen, h.withSaid]

theorem OnTables.andThen {f g : State → Effect} (hf : OnTables f) (hg : OnTables g) : OnTables (fun s => (f s).andThen g) := by
  intro s u ht ha hp
  have hstate := hf.state s
  simp only [Effect.andThen, hf s u ht ha hp]
  rw [hg (f s).state (withTopology u (f s).state.topology) rfl (by rw [hstate]; exact ha) (by rw [hstate]; exact hp)]
  rfl

theorem Effect.andThen_assoc (x : Effect) (f g : State → Effect) :
    (x.andThen f).andThen g = x.andThen (fun u => (f u).andThen g) := by
  simp only [Effect.andThen, List.append_assoc]

theorem foldl_andThen (f : State → Nat → Effect) (xs : List Nat) (x : Effect) :
    xs.foldl (fun x i => x.andThen (fun u => f u i)) x = x.andThen (fun u => Effect.each u f xs) := by
  induction xs generalizing x with
  | nil => simp [Effect.each, Effect.andThen]
  | cons i xs ih =>
    have heach : ∀ u, Effect.each u f (i :: xs) = (f u i).andThen (fun v => Effect.each v f xs) := fun u => by
      rw [Effect.each, List.foldl_cons, ih]
      simp only [Effect.andThen, List.nil_append]
    rw [List.foldl_cons, ih, Effect.andThen_assoc]
    simp only [heach]

theorem Effect.each_cons (s : State) (f : State → Nat → Effect) (i : Nat) (xs : List Nat) :
    Effect.each s f (i :: xs) = (f s i).andThen (fun u => Effect.each u f xs) := by
  rw [Effect.each, List.foldl_cons, foldl_andThen]
  simp only [Effect.andThen, List.nil_append]

theorem OnTables.each {f : State → Nat → Effect} (h : ∀ i, OnTables (fun s => f s i)) (xs : List Nat) :
    OnTables (fun s => Effect.each s f xs) := by
  induction xs with
  | nil => exact OnTables.none
  | cons i xs ih =>
    simp only [Effect.each_cons]
    exact (h i).andThen ih

end Sys2Proof.Machine

namespace Sys2Proof.Machine

/-! ### One column of a table -/

/-- A table with one value of each entry. -/
def Table.column {α β : Type} (t : Table α) (v : α → β) : Table β := t.map (fun x => (x.1, v x.2))

/-- The indices of `i` or above whose value is `d`, in the table's order. -/
def keysFrom (t : Table Nat) (d i : Nat) : List Nat := ((t.filter (fun x => decide (i ≤ x.1) && x.2 == d)).map (·.1))

theorem Table.keys_column {α β : Type} (t : Table α) (v : α → β) : (t.column v).keys = t.keys := by
  simp [Table.column, Table.keys, Function.comp_def]

theorem Table.wf_column {α β : Type} (t : Table α) (v : α → β) (b : Nat) : (t.column v).wf b = t.wf b := by
  simp only [Table.wf, Table.keys_column]

theorem Table.ascending_column {α β : Type} {t : Table α} (h : t.ascending) (v : α → β) : (t.column v).ascending := by
  rw [Table.ascending, Table.keys_column]
  exact h

theorem Table.get?_column {α β : Type} (t : Table α) (v : α → β) (i : Nat) : (t.column v).get? i = (t.get? i).map v := by
  induction t with
  | nil => rfl
  | cons x t ih =>
    by_cases h : x.1 = i
    · simp [Table.column, Table.get?, h]
    · simpa [Table.column, Table.get?, h] using ih

/-- An entry replaced by one with the same value leaves the column as it is. -/
theorem Table.column_set {α β : Type} {t : Table α} (h : t.ascending) {i : Nat} {a b : α} (hi : t.get? i = some b) (v : α → β)
    (hv : v a = v b) : (t.set i a).column v = t.column v := by
  induction t with
  | nil => cases hi
  | cons x t ih =>
    obtain ⟨k, c⟩ := x
    obtain ⟨hk, ht⟩ := Table.ascending_cons.1 h
    by_cases hki : k = i
    · subst hki
      obtain rfl : c = b := by simpa [Table.get?] using hi
      simp [Table.set, Table.column, hv]
    · have hi' : Table.get? t i = some b := by simpa [Table.get?, hki] using hi
      have hlt : k < i := hk _ (Table.get?_mem t hi')
      have htail := ih ht hi'
      simp only [Table.column] at htail
      simp [Table.set, Table.column, Nat.not_lt.2 hlt.le, Ne.symm hki, htail]

theorem keysFrom_zero {α : Type} (t : Table α) (v : α → Nat) (d : Nat) :
    keysFrom (t.column v) d 0 = (t.filter (fun x => v x.2 == d)).map (·.1) := by
  simp [keysFrom, Table.column, List.filter_map, Function.comp_def]

theorem keysFrom_succ {t : Table Nat} (h : t.ascending) {d i k : Nat} {xs : List Nat} (hxs : keysFrom t d i = k :: xs) :
    keysFrom t d (k + 1) = xs := by
  obtain ⟨x, rest, hrest, rfl, rfl⟩ := List.map_eq_cons_iff.1 hxs
  have hi : i ≤ x.1 := by
    have := (List.mem_filter.1 (hrest ▸ List.mem_cons_self : x ∈ t.filter _)).2
    simp only [Bool.and_eq_true, decide_eq_true_eq] at this
    exact this.1
  have hrefine : t.filter (fun y => decide (x.1 + 1 ≤ y.1) && y.2 == d) =
      (t.filter (fun y => decide (i ≤ y.1) && y.2 == d)).filter (fun y => decide (x.1 + 1 ≤ y.1)) := by
    rw [List.filter_filter]
    refine List.filter_congr fun y _ => ?_
    by_cases hy : x.1 + 1 ≤ y.1
    · simp [hy, show i ≤ y.1 by omega]
    · simp [hy]
  obtain ⟨habove, -⟩ := Table.ascending_cons.1 (hrest ▸ Table.ascending_filter h _)
  rw [keysFrom, hrefine, hrest, List.filter_cons_of_neg (by simp)]
  exact congrArg _ (List.filter_eq_self.2 fun y hy => decide_eq_true (habove y hy))

/-- The next entry from an index upward is the first of the indices there. -/
theorem Table.nextFrom_eq {α : Type} {t : Table α} {b : Nat} (h : t.wf b = true) (v : α → Nat) (d i : Nat) :
    t.nextFrom i b (fun _ e => v e == d) = (keysFrom (t.column v) d i).head?.bind (fun k => (t.get? k).map (fun e => (k, e))) := by
  obtain ⟨hasc, hlt⟩ := (Table.wf_iff t b).1 h
  have hfilter : keysFrom (t.column v) d i =
      (t.filter (fun x => decide (i ≤ x.1) && decide (x.1 < b) && v x.2 == d)).map (·.1) := by
    simp only [keysFrom, Table.column, List.filter_map, List.map_map]
    refine congrArg₂ _ rfl (List.filter_congr fun x hx => ?_)
    simp [hlt x.1 (List.mem_map.2 ⟨x, hx, rfl⟩)]
  rw [hfilter, List.head?_map, List.head?_filter, Table.nextFrom]
  cases hx : t.find? (fun x => decide (i ≤ x.1) && decide (x.1 < b) && v x.2 == d) with
  | none => rfl
  | some x => simp [Table.get?_of_mem hasc (List.mem_of_find?_eq_some hx)]

theorem Table.nextFrom_nil {α : Type} {t : Table α} {b : Nat} (h : t.wf b = true) {v : α → Nat} {d i : Nat}
    (hxs : keysFrom (t.column v) d i = []) : t.nextFrom i b (fun _ e => v e == d) = none := by
  rw [Table.nextFrom_eq h, hxs]
  rfl

theorem Table.nextFrom_cons {α : Type} {t : Table α} {b : Nat} (h : t.wf b = true) {v : α → Nat} {d i k : Nat} {xs : List Nat}
    (hxs : keysFrom (t.column v) d i = k :: xs) :
    ∃ e, t.get? k = some e ∧ v e = d ∧ t.nextFrom i b (fun _ e => v e == d) = some (k, e) := by
  have hasc : (t.column v).ascending := Table.ascending_column ((Table.wf_iff t b).1 h).1 v
  obtain ⟨x, rest, hrest, rfl, rfl⟩ := List.map_eq_cons_iff.1 hxs
  obtain ⟨hx, hd⟩ := List.mem_filter.1 (hrest ▸ List.mem_cons_self : x ∈ (t.column v).filter _)
  simp only [Bool.and_eq_true, beq_iff_eq] at hd
  have hcolumn := Table.get?_of_mem hasc hx
  rw [Table.get?_column, Option.map_eq_some_iff] at hcolumn
  obtain ⟨e, he, hv⟩ := hcolumn
  exact ⟨e, he, hv.trans hd.2, by rw [Table.nextFrom_eq h, hxs]; simp [he]⟩

/-! ### The reconversion of a domain as an effect on the tables (R77, R78, R102) -/

/-- The indices, and what places a node in its domain and a port at its node, are as before. -/
structure SameColumns (t u : Topology) : Prop where
  domains : u.nodes.column (·.domain) = t.nodes.column (·.domain) := by rfl
  nodes : u.ports.column (·.node) = t.ports.column (·.node) := by rfl
  strikeWait : u.strikeWait = t.strikeWait := by rfl

theorem SameColumns.trans {t u v : Topology} (h : SameColumns t u) (k : SameColumns u v) : SameColumns t v :=
  ⟨k.domains.trans h.domains, k.nodes.trans h.nodes, k.strikeWait.trans h.strikeWait⟩

theorem onTables_linkRederived (k : Nat) : OnTables (fun s => linkRederived s k) := by
  intro s u ht ha hp
  have hattrs : ∀ p q, deriveAttrs u p q = deriveAttrs s p q := fun p q => by
    unfold deriveAttrs portDomain
    rw [ht]
  have hnow : u.arbiter.grantTime = s.arbiter.grantTime := by rw [ha]
  have hnone := OnTables.none s u ht ha hp
  simp only [linkRederived, hattrs, hnow, ht]
  cases s.topology.links.get? k with
  | none => exact hnone
  | some l =>
    dsimp only
    cases l.endA.port.bind s.topology.ports.get? with
    | none => exact hnone
    | some p =>
      cases l.endB.port.bind s.topology.ports.get? with
      | none => exact hnone
      | some q =>
        by_cases h : deriveAttrs s p q = l.attrs
        · simp only [h, if_true]
          exact hnone
        · simp only [h, if_false]
          rfl

/-- Port `j` has its derived fields computed again, with its reference when they differ (R77). -/
def portConverted (p : Profile) (j : Nat) (e : PortEntry) (s : State) : Effect :=
  { state := withTopology s { s.topology with ports := s.topology.ports.set j (rederived p e) }
    said := if rederived p e = e then [] else [.ref (.port j)] }

/-- The attributes of a port's link, if it has one, are derived again (R102). -/
def portLinkRederived (l : Option Nat) (s : State) : Effect :=
  match l with
  | none => .none s
  | some k => linkRederived s k

/-- Port `j` is brought into line with a profile (R77). -/
def portRederived (p : Profile) (s : State) (j : Nat) : Effect :=
  match s.topology.ports.get? j with
  | none => .none s
  | some e => (portConverted p j e s).andThen (portLinkRederived e.link)

/-- Node `i` has its penalty converted, with its reference and its notice when it differs (R78). -/
def nodeConverted (p : Profile) (i : Nat) (e : NodeEntry) (s : State) : Effect :=
  let now := { e with penalty := convert p e.rawPenalty }
  { state := withTopology s { s.topology with nodes := s.topology.nodes.set i now }
    said := if now.penalty = e.penalty then [] else [.ref (.node i), .post (.nodeChanged i now false true false)] }

/-- Node `i` is brought into line with a profile, and then its ports (R78). -/
def nodeReconverted (p : Profile) (s : State) (i : Nat) : Effect :=
  match s.topology.nodes.get? i with
  | none => .none s
  | some e => (nodeConverted p i e s).andThen (fun v => portsRederived v p i)

theorem portsRederived_eq (s : State) (p : Profile) (i : Nat) :
    portsRederived s p i = Effect.each s (portRederived p) (keysFrom (s.topology.ports.column (·.node)) i 0) := by
  rw [keysFrom_zero]
  rfl

theorem domainReconverted_eq (s : State) (d : Nat) : domainReconverted s d =
    Effect.each s (nodeReconverted (domainProfile s d)) (keysFrom (s.topology.nodes.column (·.domain)) d 0) := by
  rw [keysFrom_zero]
  rfl

theorem onTables_portConverted (p : Profile) (j : Nat) (e : PortEntry) : OnTables (portConverted p j e) := by
  rintro s u ht - -
  simp only [portConverted, ht]
  rfl

theorem onTables_portLinkRederived (l : Option Nat) : OnTables (portLinkRederived l) := by
  cases l with
  | none => exact OnTables.none
  | some k => exact onTables_linkRederived k

theorem onTables_portRederived (p : Profile) (j : Nat) : OnTables (fun s => portRederived p s j) := by
  intro s u ht ha hp
  simp only [portRederived, ht]
  cases s.topology.ports.get? j with
  | none => exact OnTables.none s u ht ha hp
  | some e => exact (onTables_portConverted p j e).andThen (onTables_portLinkRederived e.link) s u ht ha hp

theorem onTables_portsRederived (p : Profile) (i : Nat) : OnTables (fun s => portsRederived s p i) := by
  intro s u ht
  simp only [portsRederived_eq, ht]
  exact OnTables.each (onTables_portRederived p) _ s u ht

theorem onTables_nodeConverted (p : Profile) (i : Nat) (e : NodeEntry) : OnTables (nodeConverted p i e) := by
  rintro s u ht - -
  simp only [nodeConverted, ht]
  rfl

theorem onTables_nodeReconverted (p : Profile) (i : Nat) : OnTables (fun s => nodeReconverted p s i) := by
  intro s u ht ha hp
  simp only [nodeReconverted, ht]
  cases s.topology.nodes.get? i with
  | none => exact OnTables.none s u ht ha hp
  | some e => exact (onTables_nodeConverted p i e).andThen (onTables_portsRederived p i) s u ht ha hp

/-! ### What the reconversion keeps -/

/-- Nodes and ports lie in their tables. -/
structure TablesFit (t : Topology) : Prop where
  nodes : t.nodes.wf Config.nodeEntries = true
  ports : t.ports.wf Config.portEntries = true

theorem SameColumns.fit {t u : Topology} (h : SameColumns t u) (ht : TablesFit t) : TablesFit u :=
  ⟨by rw [← Table.wf_column _ (·.domain), h.domains, Table.wf_column, ht.nodes],
   by rw [← Table.wf_column _ (·.node), h.nodes, Table.wf_column, ht.ports]⟩

theorem TablesFit.nodesAscending {t : Topology} (h : TablesFit t) : t.nodes.ascending := ((Table.wf_iff _ _).1 h.nodes).1

theorem TablesFit.portsAscending {t : Topology} (h : TablesFit t) : t.ports.ascending := ((Table.wf_iff _ _).1 h.ports).1

/-- The effect keeps the columns of tables that fit. -/
def KeepsColumns (f : State → Effect) : Prop := ∀ s : State, TablesFit s.topology → SameColumns s.topology (f s).state.topology

theorem KeepsColumns.andThen {f g : State → Effect} (hf : KeepsColumns f) (hg : KeepsColumns g) :
    KeepsColumns (fun s => (f s).andThen g) := fun s hs => (hf s hs).trans (hg _ ((hf s hs).fit hs))

theorem KeepsColumns.each {f : State → Nat → Effect} (h : ∀ i, KeepsColumns (fun s => f s i)) (xs : List Nat) :
    KeepsColumns (fun s => Effect.each s f xs) := by
  induction xs with
  | nil => exact fun s _ => {}
  | cons i xs ih =>
    simp only [Effect.each_cons]
    exact (h i).andThen ih

theorem keepsColumns_portLinkRederived (l : Option Nat) : KeepsColumns (portLinkRederived l) := by
  intro s _
  unfold portLinkRederived linkRederived
  repeat' split
  all_goals exact {}

theorem keepsColumns_portRederived (p : Profile) (j : Nat) : KeepsColumns (fun s => portRederived p s j) := by
  intro s hs
  simp only [portRederived]
  cases he : s.topology.ports.get? j with
  | none => exact {}
  | some e =>
    have hset : SameColumns s.topology (portConverted p j e s).state.topology :=
      { nodes := Table.column_set hs.portsAscending he (·.node) rfl }
    exact hset.trans (keepsColumns_portLinkRederived e.link _ (hset.fit hs))

theorem keepsColumns_nodeReconverted (p : Profile) (i : Nat) : KeepsColumns (fun s => nodeReconverted p s i) := by
  intro s hs
  simp only [nodeReconverted]
  cases he : s.topology.nodes.get? i with
  | none => exact {}
  | some e =>
    have hset : SameColumns s.topology (nodeConverted p i e s).state.topology :=
      { domains := Table.column_set hs.nodesAscending he (·.domain) rfl }
    exact hset.trans (KeepsColumns.each (keepsColumns_portRederived p) _ _ (hset.fit hs))

end Sys2Proof.Machine

namespace Sys2Proof.Machine

/-! ### The steps of the reconversion in a calm state -/

section
variable {f g : State → Effect} {s : State} {n : Nat}

theorem OnTables.state_control (hf : OnTables f) (s : State) : (f s).state.control = s.control := by
  rw [hf.state s]
  rfl

theorem OnTables.after_control (hf : OnTables f) (s : State) : (f s).after.control = s.control :=
  (withSaid_control _ _).trans (hf.state_control s)

theorem OnTables.after_arbiter (hf : OnTables f) (s : State) : (f s).after.arbiter = s.arbiter := by
  rw [Effect.after, withSaid_arbiter, hf.state s]
  rfl

theorem OnTables.domainProfile_after (hf : OnTables f) (s : State) (d : Nat) :
    domainProfile (f s).after d = domainProfile s d := by
  rw [domainProfile, Effect.after, withSaid_profiles, hf.state s]
  rfl

/-- An effect that keeps the columns leaves its items to the columns. -/
theorem SameColumns.after {t : Topology} {x : Effect} (h : SameColumns t x.state.topology) : SameColumns t x.after.topology := by
  rwa [Effect.after, withSaid_topology]

theorem Calm.effectState (hf : OnTables f) (hk : SameColumns s.topology (f s).state.topology) (h : Calm s n) :
    Calm (f s).state n := by
  rw [hf.state s]
  exact ⟨h.released, h.threads, h.waiters, h.turn, hk.strikeWait.trans h.strikeWait, h.room⟩

theorem Calm.effect (hf : OnTables f) (hk : SameColumns s.topology (f s).state.topology) (h : Calm s (n + places s (f s).said)) :
    Calm (f s).after n := by
  rw [← places_congr (hf.state_control s)] at h
  exact (h.effectState hf hk).withSaid _

/-- A state that has room for two effects, one after the other, has room for the first. -/
theorem Calm.forFirst {x : Effect} (h : Calm s (n + places s (x.andThen g).said)) : Calm s (n + places s x.said) :=
  h.fewer (by rw [Effect.andThen, places_append]; omega)

/-- After the first it has room for the second. -/
theorem Calm.afterFirst (hf : OnTables f) (hg : OnTables g) (hk : SameColumns s.topology (f s).state.topology)
    (h : Calm s (n + places s ((f s).andThen g).said)) : Calm (f s).after (n + places (f s).after (g (f s).after).said) := by
  rw [hg.said_andThen, places_append, ← places_congr (hf.after_control s) (g _).said] at h
  exact Calm.effect hf hk (h.fewer (by omega))

/-- A finished step that changes the tables by an effect: its items are queued and posted before the steps that follow it. -/
theorem settled_effect (hf : OnTables f) (hk : SameColumns s.topology (f s).state.topology) (h : Calm s (n + places s (f s).said))
    {t : Thread} {op : Op} {more rest : List Op} (hrun : runOp false t op (s.putOps t (op :: rest)) =
      .done ((f s).state.putOps t (op :: rest)) ((f s).said.map Said.op ++ more)) :
    settleAll (s.putOps t (op :: rest)) = settleAll ((f s).after.putOps t (more ++ rest)) := by
  rw [← places_congr (hf.state_control s)] at h
  rw [settled_step (h.alone t) hrun, List.append_assoc, settled_said t _ _ (h.effectState hf hk)]
  rfl

end

/-- The two ports of a link are those the statements read. -/
theorem linkPorts_eq (s : State) (l : LinkEntry) : linkPorts s l =
    (l.endA.port.bind s.topology.ports.get?).bind (fun p => (l.endB.port.bind s.topology.ports.get?).map (fun q => (p, q))) := by
  unfold linkPorts
  cases l.endA.port with
  | none => rfl
  | some a =>
    cases l.endB.port with
    | none => simp
    | some b =>
      simp only [Option.bind_some]
      cases s.topology.ports.get? a <;> cases s.topology.ports.get? b <;> rfl

/-- The step that derives a link's attributes again (R102). -/
theorem updateLinkAttributes_eq (k : Nat) (s : State) :
    updateLinkAttributes k s = .done (linkRederived s k).state ((linkRederived s k).said.map Said.op) := by
  unfold updateLinkAttributes linkRederived
  cases s.topology.links.get? k with
  | none => rfl
  | some l =>
    simp only [linkPorts_eq]
    cases l.endA.port.bind s.topology.ports.get? with
    | none => rfl
    | some p =>
      cases l.endB.port.bind s.topology.ports.get? with
      | none => rfl
      | some q =>
        by_cases h : deriveAttrs s p q = l.attrs
        · simp only [Option.bind_some, Option.map_some, h, if_true]
          rfl
        · simp only [Option.bind_some, Option.map_some, h, if_false]
          rfl

theorem linkRederived_putOps (s : State) (k : Nat) (t : Thread) (ops : List Op) : linkRederived (s.putOps t ops) k =
    { state := (linkRederived s k).state.putOps t ops, said := (linkRederived s k).said } := by
  have hstate := (onTables_linkRederived k).state s
  refine (onTables_linkRederived k s (s.putOps t ops) rfl rfl rfl).trans ?_
  rw [hstate]
  rfl

/-- The steps that derive the attributes of a port's link again. -/
def portLinkOps : Option Nat → List Op
  | none => []
  | some k => [.linkAttributes k]

theorem settled_portLink (l : Option Nat) {s : State} {n : Nat} (hs : TablesFit s.topology)
    (h : Calm s (n + places s (portLinkRederived l s).said)) (t : Thread) (rest : List Op) :
    settleAll (s.putOps t (portLinkOps l ++ rest)) = settleAll ((portLinkRederived l s).after.putOps t rest) := by
  cases l with
  | none => rfl
  | some k =>
    refine settled_effect (onTables_portLinkRederived (some k)) (keepsColumns_portLinkRederived (some k) s hs) h (more := []) ?_
    simp only [runOp, updateLinkAttributes_eq, linkRederived_putOps, List.append_nil]
    rfl

theorem sameColumns_portConverted (p : Profile) {j : Nat} {e : PortEntry} {s : State} (hs : TablesFit s.topology)
    (he : s.topology.ports.get? j = some e) : SameColumns s.topology (portConverted p j e s).state.topology :=
  { nodes := Table.column_set hs.portsAscending he (·.node) rfl }

/-- The step of a port of a node of domain `d` (R77). -/
theorem reconvertPorts_next {s : State} {i j k d : Nat} {e : PortEntry} (hd : (s.topology.nodes.column (·.domain)).get? i = some d)
    (hnode : e.node = i) (hnext : s.topology.ports.nextFrom j Config.portEntries (fun _ e => e.node == i) = some (k, e))
    (t : Thread) (ops : List Op) : reconvertPorts i j (s.putOps t ops) =
      .done ((portConverted (domainProfile s d) k e s).state.putOps t ops)
        ((portConverted (domainProfile s d) k e s).said.map Said.op ++ (portLinkOps e.link ++ [.reconvertPorts i (k + 1)])) := by
  have hdomain : portDomain s e = d := by
    rw [Table.get?_column] at hd
    rw [portDomain, hnode, hd, Option.getD_some]
  have hprofile : portProfile (s.putOps t ops) e = domainProfile s d := congrArg (domainProfile s) hdomain
  have hconverted : e.withReport (domainProfile s d) e.reported = rederived (domainProfile s d) e := rfl
  have hitems : (portConverted (domainProfile s d) k e s).said.map Said.op =
      if rederived (domainProfile s d) e = e then [] else [.ref (.port k)] := by
    unfold portConverted
    split <;> rfl
  simp only [reconvertPorts, State.putOps_topology, hnext, hprofile, hconverted, hitems, List.append_assoc]
  rfl

/-- The ports of a node from an index upward are brought into line, one by one (R77). -/
theorem settled_reconvertPorts (p : Profile) (t : Thread) (i : Nat) (rest : List Op) (xs : List Nat) {s : State} {n j d : Nat}
    (hs : TablesFit s.topology) (hd : (s.topology.nodes.column (·.domain)).get? i = some d) (hp : domainProfile s d = p)
    (hxs : keysFrom (s.topology.ports.column (·.node)) i j = xs)
    (h : Calm s (n + places s (Effect.each s (portRederived p) xs).said)) :
    settleAll (s.putOps t (.reconvertPorts i j :: rest)) =
      settleAll ((Effect.each s (portRederived p) xs).after.putOps t rest) := by
  induction xs generalizing s j with
  | nil =>
    have hrun : runOp false t (.reconvertPorts i j) (s.putOps t (.reconvertPorts i j :: rest)) =
        .done (s.putOps t (.reconvertPorts i j :: rest)) [] := by
      simp only [runOp, reconvertPorts, State.putOps_topology, Table.nextFrom_nil hs.ports hxs]
    exact settled_step (push := []) (h.alone t) hrun
  | cons k xs ih =>
    obtain ⟨e, he, hnode, hnext⟩ := Table.nextFrom_cons hs.ports hxs
    have hasc : (s.topology.ports.column (·.node)).ascending := Table.ascending_column hs.portsAscending _
    have hfirst : portRederived p s k = (portConverted p k e s).andThen (portLinkRederived e.link) := by
      simp only [portRederived, he]
    have honPort := onTables_portConverted p k e
    have honLink := onTables_portLinkRederived e.link
    have honRest : OnTables (fun u => Effect.each u (portRederived p) xs) := OnTables.each (onTables_portRederived p) xs
    have hport := sameColumns_portConverted p hs he
    have hfit1 := hport.after.fit hs
    have hlink := keepsColumns_portLinkRederived e.link _ hfit1
    have hsame := hport.after.trans hlink.after
    rw [Effect.each_cons, hfirst, Effect.andThen_assoc] at h ⊢
    have h1 := h.afterFirst honPort (honLink.andThen honRest) hport
    have h2 := h1.afterFirst honLink honRest hlink
    have hrun : runOp false t (.reconvertPorts i j) (s.putOps t (.reconvertPorts i j :: rest)) = _ :=
      reconvertPorts_next hd hnode hnext t _
    rw [hp] at hrun
    rw [settled_effect honPort hport h.forFirst hrun, List.append_assoc, settled_portLink e.link hfit1 h1.forFirst, List.singleton_append,
      ih (hsame.fit hs) (by rw [hsame.domains, hd]) (by rw [honLink.domainProfile_after, honPort.domainProfile_after, hp])
        (by rw [hsame.nodes, keysFrom_succ hasc hxs]) h2,
      (honLink.andThen honRest).after_andThen, honRest.after_andThen]

theorem sameColumns_nodeConverted (p : Profile) {i : Nat} {e : NodeEntry} {s : State} (hs : TablesFit s.topology)
    (he : s.topology.nodes.get? i = some e) : SameColumns s.topology (nodeConverted p i e s).state.topology :=
  { domains := Table.column_set hs.nodesAscending he (·.domain) rfl }

theorem keepsColumns_portsRederived (p : Profile) (i : Nat) : KeepsColumns (fun s => portsRederived s p i) :=
  fun s => KeepsColumns.each (keepsColumns_portRederived p) (portsOf s i) s

theorem settled_portsRederived {p : Profile} {s : State} {n i d : Nat} (t : Thread) (hs : TablesFit s.topology)
    (hd : (s.topology.nodes.column (·.domain)).get? i = some d) (hp : domainProfile s d = p)
    (h : Calm s (n + places s (portsRederived s p i).said)) (rest : List Op) :
    settleAll (s.putOps t (.reconvertPorts i 0 :: rest)) = settleAll ((portsRederived s p i).after.putOps t rest) := by
  rw [portsRederived_eq] at h ⊢
  exact settled_reconvertPorts p t i rest _ hs hd hp rfl h

/-- The step of a node of domain `d` (R78). -/
theorem reconvertNodes_next {s : State} {d i k : Nat} {e : NodeEntry}
    (hnext : s.topology.nodes.nextFrom i Config.nodeEntries (fun _ e => e.domain == d) = some (k, e))
    (t : Thread) (ops : List Op) : reconvertNodes d i (s.putOps t ops) =
      .done ((nodeConverted (domainProfile s d) k e s).state.putOps t ops)
        ((nodeConverted (domainProfile s d) k e s).said.map Said.op ++ [.reconvertPorts k 0, .reconvertNodes d (k + 1)]) := by
  have hprofile : domainProfile (s.putOps t ops) d = domainProfile s d := rfl
  simp only [reconvertNodes, State.putOps_topology, hnext, hprofile, nodeConverted, apply_ite (List.map Said.op)]
  rfl

/-- The nodes of a domain from an index upward are brought into line, one by one, each with its ports (R78). -/
theorem settled_reconvertNodes (p : Profile) (t : Thread) (d : Nat) (rest : List Op) (xs : List Nat) {s : State} {n i : Nat}
    (hs : TablesFit s.topology) (hp : domainProfile s d = p) (hxs : keysFrom (s.topology.nodes.column (·.domain)) d i = xs)
    (h : Calm s (n + places s (Effect.each s (nodeReconverted p) xs).said)) :
    settleAll (s.putOps t (.reconvertNodes d i :: rest)) =
      settleAll ((Effect.each s (nodeReconverted p) xs).after.putOps t rest) := by
  induction xs generalizing s i with
  | nil =>
    have hrun : runOp false t (.reconvertNodes d i) (s.putOps t (.reconvertNodes d i :: rest)) =
        .done (s.putOps t (.reconvertNodes d i :: rest)) [] := by
      simp only [runOp, reconvertNodes, State.putOps_topology, Table.nextFrom_nil hs.nodes hxs]
    exact settled_step (push := []) (h.alone t) hrun
  | cons k xs ih =>
    obtain ⟨e, he, hdomain, hnext⟩ := Table.nextFrom_cons hs.nodes hxs
    have hasc : (s.topology.nodes.column (·.domain)).ascending := Table.ascending_column hs.nodesAscending _
    have hfirst : nodeReconverted p s k = (nodeConverted p k e s).andThen (fun v => portsRederived v p k) := by
      simp only [nodeReconverted, he]
    have honNode := onTables_nodeConverted p k e
    have honPorts := onTables_portsRederived p k
    have honRest : OnTables (fun u => Effect.each u (nodeReconverted p) xs) := OnTables.each (onTables_nodeReconverted p) xs
    have hnode := sameColumns_nodeConverted p hs he
    have hfit1 := hnode.after.fit hs
    have hports := keepsColumns_portsRederived p k _ hfit1
    have hsame := hnode.after.trans hports.after
    have hd : (s.topology.nodes.column (·.domain)).get? k = some d := by rw [Table.get?_column, he, ← hdomain]; rfl
    rw [Effect.each_cons, hfirst, Effect.andThen_assoc] at h ⊢
    have h1 := h.afterFirst honNode (honPorts.andThen honRest) hnode
    have h2 := h1.afterFirst honPorts honRest hports
    have hrun : runOp false t (.reconvertNodes d i) (s.putOps t (.reconvertNodes d i :: rest)) = _ := reconvertNodes_next hnext t _
    rw [hp] at hrun
    rw [settled_effect honNode hnode h.forFirst hrun]
    refine (settled_portsRederived t hfit1 (by rw [hnode.after.domains, hd]) (by rw [honNode.domainProfile_after, hp]) h1.forFirst
      (.reconvertNodes d (k + 1) :: rest)).trans ?_
    rw [ih (hsame.fit hs) (by rw [honPorts.domainProfile_after, honNode.domainProfile_after, hp])
        (by rw [hsame.domains, keysFrom_succ hasc hxs]) h2,
      (honPorts.andThen honRest).after_andThen, honRest.after_andThen]

/-- Settles O32: the nodes of the domain are brought into line, the command is answered and the grant released. -/
theorem reconversionOfANode : Obligations.ReconversionOfANode := by
  rintro s r d x ⟨⟨hnodes, hports, -⟩, -⟩ hgrant hp rfl hcalm
  have hgranted := granted_of_topologyGranted hgrant hcalm
  obtain ⟨-, hwaitTopology, hwaitPath, -⟩ := hgrant
  have hfit : TablesFit s.topology := ⟨hnodes, hports⟩
  have hexec : exec .profileReconversion s = .next (reconvert s) := live_released hcalm.released reconvert
  have hon := OnTables.each (onTables_nodeReconverted (domainProfile s d)) (keysFrom (s.topology.nodes.column (·.domain)) d 0)
  have hkeeps := KeepsColumns.each (keepsColumns_nodeReconverted (domainProfile s d))
    (keysFrom (s.topology.nodes.column (·.domain)) d 0) s hfit
  rw [Nat.add_comm, domainReconverted_eq] at hcalm
  have harb := hon.after_arbiter s
  have hend := settled_commandEnd (n := 0) (hcalm.effect hon hkeeps) ((congrArg Control.inProgress (hon.after_control s)).trans hp)
    ((congrArg Arbiter.waitTopology harb).trans hwaitTopology) ((congrArg Arbiter.waitPath harb).trans hwaitPath)
  rw [hexec, domainReconverted_eq]
  simp only [reconvert, hp, hgranted, if_true]
  rw [launch_calm hcalm, settled_reconvertNodes _ _ _ _ _ hfit rfl rfl hcalm, hend]
  rfl

end Sys2Proof.Machine

/-!
PROOFS. The bounds of the queues (O7).
-/

namespace Sys2Proof.Machine

/-! ### What the bounds of the queues speak of (R12, R57, R104, R140, R143) -/

theorem intakeCount_eq (s : State) :
    intakeCount s = s.intake.queue.length + s.intake.handed.length + s.intake.taking.isSome.toNat := by
  unfold intakeCount
  cases s.intake.taking <;> rfl

theorem requestCount_eq (s : State) : requestCount s = s.paths.queue.length + s.paths.handed.length + s.paths.taking.toNat := by
  unfold requestCount
  cases s.paths.taking <;> rfl

/-- No bounded queue has grown, nor has the run count, nor the one kept from before a selection. -/
structure Lighter (s t : State) : Prop where
  holds : t.system.holds.length ≤ s.system.holds.length
  intake : intakeCount t ≤ intakeCount s
  requests : requestCount t ≤ requestCount s
  strikes : t.paths.strikes.length ≤ s.paths.strikes.length
  runCount : t.paths.runCount ≤ s.paths.runCount
  slot : ∀ o, t.paths.slot = some o → ∃ o', s.paths.slot = some o' ∧ o.runBefore = o'.runBefore

/-- All that the bounds speak of: the hold table, the intake records, the requests, the strike queue, the run counts. -/
def load (s : State) : List Hold × (List QueuedRecord × List HandedRecord × Option HandedRecord) ×
    (List QueuedRequest × List HandedRequest × Bool) × List Strike × Nat × Option Operation :=
  (s.system.holds, (s.intake.queue, s.intake.handed, s.intake.taking), (s.paths.queue, s.paths.handed, s.paths.taking),
    s.paths.strikes, s.paths.runCount, s.paths.slot)

/-- Nothing that the bounds speak of has changed. -/
theorem Lighter.same {s t : State} (h : load t = load s) : Lighter s t := by
  simp only [load, Prod.mk.injEq] at h
  obtain ⟨hholds, ⟨hqueue, hhanded, htaking⟩, ⟨hqueue', hhanded', htaking'⟩, hstrikes, hrun, hslot⟩ := h
  refine ⟨by rw [hholds], ?_, ?_, by rw [hstrikes], hrun.le, fun o ho => ⟨o, hslot ▸ ho, rfl⟩⟩
  · simp only [intakeCount_eq, hqueue, hhanded, htaking, Nat.le_refl]
  · simp only [requestCount_eq, hqueue', hhanded', htaking', Nat.le_refl]

/-- The system port alone has changed, and holds no more reads (R12). -/
theorem Lighter.ofHolds {s t : State} (h : t.system.holds.length ≤ s.system.holds.length)
    (hsame : (load t).2 = (load s).2) : Lighter s t :=
  have hrest : Lighter { s with system := t.system } t := .same (Prod.ext rfl hsame)
  ⟨h, hrest.intake, hrest.requests, hrest.strikes, hrest.runCount, hrest.slot⟩

/-- The intake unit alone has changed, and holds no more records (R57). -/
theorem Lighter.ofIntake {s t : State} (h : intakeCount t ≤ intakeCount s)
    (hsame : (t.system.holds, t.paths) = (s.system.holds, s.paths)) : Lighter s t := by
  obtain ⟨hholds, hpaths⟩ := Prod.mk.inj hsame
  exact ⟨by rw [hholds], h, by simp only [requestCount_eq, hpaths, Nat.le_refl], by rw [hpaths], by rw [hpaths],
    fun o ho => ⟨o, hpaths ▸ ho, rfl⟩⟩

/-- The path table unit alone has changed, and holds no more requests (R140). -/
theorem Lighter.ofRequests {s t : State} (h : requestCount t ≤ requestCount s)
    (hsame : (t.system.holds, t.intake, t.paths.strikes, t.paths.runCount, t.paths.slot) =
      (s.system.holds, s.intake, s.paths.strikes, s.paths.runCount, s.paths.slot)) : Lighter s t := by
  simp only [Prod.mk.injEq] at hsame
  obtain ⟨hholds, hintake, hstrikes, hrun, hslot⟩ := hsame
  exact ⟨by rw [hholds], by simp only [intakeCount_eq, hintake, Nat.le_refl], h, by rw [hstrikes], hrun.le,
    fun o ho => ⟨o, hslot ▸ ho, rfl⟩⟩

theorem Lighter.refl (s : State) : Lighter s s := .same rfl

theorem Lighter.trans {s t u : State} (h : Lighter s t) (k : Lighter t u) : Lighter s u where
  holds := k.holds.trans h.holds
  intake := k.intake.trans h.intake
  requests := k.requests.trans h.requests
  strikes := k.strikes.trans h.strikes
  runCount := k.runCount.trans h.runCount
  slot := fun o ho => by
    obtain ⟨o', ho', e'⟩ := k.slot o ho
    obtain ⟨o'', ho'', e''⟩ := h.slot o' ho'
    exact ⟨o'', ho'', e'.trans e''⟩

/-- A change of nothing that the bounds speak of, and then a further one. -/
theorem Lighter.after {s t u : State} (k : Lighter t u) (h : load t = load s) : Lighter s u := (Lighter.same h).trans k

theorem Lighter.foldl {β : Type} (f : State → β → State) (hf : ∀ s b, Lighter s (f s b)) (l : List β) (s : State) :
    Lighter s (l.foldl f s) := by
  induction l generalizing s with
  | nil => exact .refl s
  | cons x xs ih => exact (hf s x).trans (ih _)

/-- The bounds of the first state are those of the second. -/
def Bounds (s t : State) : Prop := BoundLaw s → BoundLaw t

theorem Bounds.refl (s : State) : Bounds s s := id

theorem Bounds.trans {s t u : State} (h : Bounds s t) (k : Bounds t u) : Bounds s u := fun hs => k (h hs)

theorem Lighter.bounds {s t : State} (h : Lighter s t) : Bounds s t := by
  rintro ⟨hholds, hintake, hrequests, hstrikes, hrun, hslot⟩
  refine ⟨h.holds.trans hholds, h.intake.trans hintake, h.requests.trans hrequests, h.strikes.trans hstrikes,
    h.runCount.trans hrun, fun o ho => ?_⟩
  obtain ⟨o', ho', e⟩ := h.slot o ho
  exact e ▸ hslot o' ho'

theorem Bounds.after {s t u : State} (k : Bounds t u) (h : load t = load s) : Bounds s u := (Lighter.same h).bounds.trans k

/-! ### The steps of operations -/

theorem lighter_imageWrite (s : State) : Lighter s (imageWrite s) := by
  rcases imageWrite_cases s with ⟨-, e⟩ | ⟨-, -, e⟩ | ⟨-, -, e⟩ <;> rw [e] <;> exact .same rfl

theorem lighter_completeCommand (s : State) (o : CmdOutcome) : Lighter s (completeCommand s o) := by
  unfold completeCommand
  split
  · exact .same rfl
  · exact Lighter.after (lighter_imageWrite _) (by rfl)

theorem lighter_releaseGrant (s : State) : Lighter s (releaseGrant s) := by
  unfold releaseGrant
  repeat' split
  all_goals exact .same rfl

theorem lighter_requestGrant (s : State) (r : Requester) : Lighter s (requestGrant s r) := by
  unfold requestGrant
  repeat' split
  all_goals exact .same rfl

theorem lighter_setReserved (s : State) (k : Nat) (v : SlotSet) : Lighter s (setReserved s k v) := .same rfl

theorem lighter_storePath (s : State) (p : Nat) (e : PathEntry) : Lighter s (storePath s p e) := .same rfl

theorem lighter_reserveRoute (s : State) (r : Route) : Lighter s (reserveRoute s r) :=
  Lighter.foldl _ (fun s k => lighter_setReserved s k _) _ _

theorem lighter_unreserveAll (s : State) (rs : List Route) : Lighter s (unreserveAll s rs) :=
  Lighter.foldl _ (fun _ _ => Lighter.foldl _ (fun s k => lighter_setReserved s k _) _ _) _ _

theorem lighter_replaceReservation (s : State) (old : Option Route) (new : Route) : Lighter s (replaceReservation s old new) :=
  (Lighter.foldl _ (fun s k => lighter_setReserved s k _) _ _).trans (Lighter.foldl _ (fun s k => lighter_setReserved s k _) _ _)

theorem lighter_withTurn {s : State} (t : Thread) {f : State → OpResult} (hf : ∀ u, Lighter u (f u).state) :
    Lighter s (withTurn t s f).state := by
  unfold withTurn
  split
  · exact Lighter.after (hf _) (by rfl)
  · split
    · exact hf s
    · exact .same rfl

theorem lighter_postNotice (t : Thread) (n : Notice) (s : State) : Lighter s (postNotice t n s).state := by
  refine lighter_withTurn t fun u => ?_
  repeat' split
  all_goals exact .same rfl

theorem lighter_postPathState (t : Thread) (p : Nat) (why : PathReason) (s : State) : Lighter s (postPathState t p why s).state := by
  refine lighter_withTurn t fun u => ?_
  dsimp only
  repeat' split
  all_goals exact .same rfl

theorem lighter_drainDeferred (t : Thread) (p : Nat) (s : State) : Lighter s (drainDeferred t p s).state := by
  refine lighter_withTurn t fun u => ?_
  repeat' split
  all_goals exact .same rfl

theorem lighter_acknowledgePath (t : Thread) (p : Nat) (gen : BitVec 16) (s : State) : Lighter s (acknowledgePath t p gen s).state := by
  refine lighter_withTurn t fun u => ?_
  dsimp only
  repeat' split
  all_goals exact .same rfl

theorem lighter_writePathState (given : Bool) (t : Thread) (p : Nat) (last : Bool) (s : State) :
    Lighter s (writePathState given t p last s).state := by
  unfold writePathState
  dsimp only
  repeat' split
  all_goals exact .same rfl

theorem lighter_writeNotice (given : Bool) (t : Thread) (n : Notice) (s : State) : Lighter s (writeNotice given t n s).state := by
  unfold writeNotice
  repeat' split
  all_goals exact .same rfl

theorem lighter_leaveLink (s : State) (j : Option Nat) : Lighter s (leaveLink s j) := by
  cases j <;> exact .same rfl

theorem lighter_retireLink (k : Nat) (why : TopoReason) (s : State) : Lighter s (retireLink k why s).state := by
  unfold retireLink
  split
  · exact .same rfl
  · exact ((lighter_leaveLink s _).trans (lighter_leaveLink _ _)).trans (.same (by rfl))

theorem lighter_applyRecord (l : Line) (off : Nat) (s : State) : Lighter s (applyRecord l off s).state := by
  unfold applyRecord
  split
  · unfold applyNodeReport updateNode recordFault
    repeat' split
    all_goals exact .same rfl
  · unfold applyPortReport updatePort recordFault
    repeat' split
    all_goals exact .same rfl
  · unfold applyPortWithdraw
    repeat' split
    all_goals exact .same rfl
  · unfold applyNodeWithdraw
    repeat' split
    all_goals exact .same rfl
  all_goals exact .same rfl

theorem lighter_changePath (s : State) (p : Nat) (x : PathEntry × List Route) (why : PathReason) (next : Op) :
    Lighter s (changePath s p x why next).state :=
  (lighter_unreserveAll s _).trans (lighter_storePath _ _ _)

theorem lighter_finishRetire (k : Nat) (s : State) : Lighter s (finishRetire k s).state := by
  refine Lighter.trans (t := setFlag (setReserved s k 0) k false) (.same (by rfl)) ?_
  rcases setAnswered_cases (setFlag (setReserved s k 0) k false) k with ⟨l, -, -, e⟩ | ⟨-, e⟩
  · simp only [finishRetire, e]
    exact .same rfl
  · simp only [finishRetire, e]
    exact .same rfl

/-- The open batch leaves an intake queue read from its tail, and no record joins it (R63). -/
theorem length_removeOpen_le (q : List QueuedRecord) : (removeOpen q).1.length ≤ q.length := by
  induction q with
  | nil => exact Nat.le_refl _
  | cons r rest ih =>
    simp only [removeOpen]
    split <;> simp only [List.length_cons] <;> omega

theorem lighter_abortBatch (s : State) (b : BatchState) : Lighter s (abortBatch s b) := by
  refine .ofIntake ?_ rfl
  have h := length_removeOpen_le s.intake.queue.reverse
  simp only [intakeCount_eq, abortBatch, List.length_reverse] at h ⊢
  omega

/-- A record in taking that joins the intake queue is counted already (R57). -/
theorem lighter_queueRecord {s : State} (h : s.intake.taking.isSome = true) (r : HandedRecord) (role : Role) :
    Lighter s (queueRecord s r role) := by
  refine .ofIntake ?_ rfl
  simp only [intakeCount_eq, queueRecord, h, List.length_append, List.length_singleton, Option.isSome_none, Bool.toNat_true, Bool.toNat_false]
  omega

theorem lighter_openNewBatch {s : State} (h : s.intake.taking.isSome = true) (r : HandedRecord) : Lighter s (openNewBatch s r) :=
  (lighter_queueRecord h r .opening).trans (.same (by rfl))

theorem lighter_untaken (s : State) : Lighter s { s with intake := { s.intake with taking := none } } :=
  .ofIntake (by simp [intakeCount_eq]) rfl

theorem lighter_finishTaking (r : HandedRecord) (s : State) : Lighter s (finishTaking r s).state := by
  have htaken := lighter_untaken s
  unfold finishTaking
  dsimp only
  repeat' split
  · exact htaken.trans (lighter_abortBatch _ _)
  all_goals exact htaken

theorem lighter_openNested (s : State) : Lighter s (openNested s).state := by
  unfold openNested
  split
  · next r h => exact lighter_openNewBatch (h ▸ rfl) r
  · exact .same rfl

theorem lighter_stopBatch (s : State) : Lighter s (stopBatch s).state := by
  unfold stopBatch
  repeat' split
  · exact lighter_abortBatch _ _
  all_goals exact .same rfl

theorem lighter_requestFinish (s : State) : Lighter s (finishRequest s).state :=
  .ofRequests (by simp [finishRequest, requestCount_eq]) rfl

theorem lighter_endOperation (s : State) : Lighter s (endOperation s).state :=
  ⟨Nat.le_refl _, Nat.le_refl _, Nat.le_refl _, Nat.le_refl _, Nat.le_refl _, fun _ h => (Option.some_ne_none _ h.symm).elim⟩

theorem lighter_restartTables (s : State) : Lighter s (restartTables s) :=
  ⟨Nat.le_refl _, Nat.zero_le _, Nat.zero_le _, Nat.zero_le _, Nat.le_refl _, fun o ho => ⟨o, ho, rfl⟩⟩

theorem lighter_restartDone (s : State) : Lighter s (restartDone s) := by
  unfold restartDone
  repeat' split
  · exact .same rfl
  · exact lighter_completeCommand _ _
  · exact .same rfl

/-- An event joins the strike queue only where there is room (R104). -/
theorem bounds_sendEvent (e : Strike) (s : State) : Bounds s (sendEvent e s).state := by
  unfold sendEvent
  split
  · next hroom =>
    rintro ⟨hholds, hintake, hrequests, -, hrun, hslot⟩
    exact ⟨hholds, hintake, hrequests, by simpa using hroom, hrun, hslot⟩
  · exact Lighter.bounds (.same (by rfl))

theorem Bounds.runOp (given : Bool) (t : Thread) (op : Op) (s : State) : Bounds s (Machine.runOp given t op s).state := by
  cases op with
  | event e => exact bounds_sendEvent e s
  | ref r =>
    refine Lighter.bounds ?_
    rcases queueRef_cases given t r s with ⟨-, e⟩ | ⟨-, -, e⟩ | ⟨-, -, e⟩ <;> simp only [Machine.runOp, e] <;> exact .same rfl
  | result m l =>
    refine Lighter.bounds ?_
    rcases queueContent_cases given t (resultTarget s m) (resultLine s l) (some m) s with ⟨-, e⟩ | ⟨-, e⟩ <;>
      simp only [Machine.runOp, e] <;> exact .same rfl
  | post n => exact (lighter_postNotice t n s).bounds
  | postPath p why => exact (lighter_postPathState t p why s).bounds
  | drain p => exact (lighter_drainDeferred t p s).bounds
  | ackPath p gen => exact (lighter_acknowledgePath t p gen s).bounds
  | writePath p last => exact (lighter_writePathState given t p last s).bounds
  | takeFinish r => exact (lighter_finishTaking r s).bounds
  | openBatch => exact (lighter_openNested s).bounds
  | stopCheck => exact (lighter_stopBatch s).bounds
  | requestFinish => exact (lighter_requestFinish s).bounds
  | applyRecord l off => exact (lighter_applyRecord l off s).bounds
  | retireLink k why => exact (lighter_retireLink k why s).bounds
  | topologyEnd => exact (Lighter.after (lighter_releaseGrant _) (by rfl)).bounds
  | pathGrantEnd => exact (lighter_releaseGrant s).bounds
  | complete o => exact (lighter_completeCommand s o).bounds
  | restartTables => exact (lighter_restartTables s).bounds
  | restartDone => exact (lighter_restartDone s).bounds
  | retireDone k => exact (lighter_finishRetire k s).bounds
  | downPaths k p | upPaths k p | retirePaths k p =>
    simp only [Machine.runOp, downPaths, upPaths, retirePaths]
    split
    · exact .refl s
    · exact (lighter_changePath ..).bounds
  | operationEnd => exact Lighter.bounds (lighter_endOperation s)
  | unlock | restartCounts => exact Lighter.bounds (.same (by rfl))
  | notice n => exact (lighter_writeNotice given t n s).bounds
  | reconvertNodes | reconvertPorts | linkAttributes | linkState | portMove | repoint | evaluate | claimants | removePort
  | freePort | orphans | removePorts | freeNode | offer =>
    refine Lighter.bounds ?_
    simp only [Machine.runOp, reconvertNodes, reconvertPorts, updateLinkAttributes, updateLinkState, movePort, repointPort,
      evaluatePort, recheckClaimants, removePort, freePort, orphanClaimants, removePorts, freeNode, offerLink]
    repeat' split
    all_goals exact .same rfl

theorem Bounds.micro (given : Bool) (t : Thread) (s : State) : Bounds s (Machine.micro given t s) := by
  intro h
  refine micro_keeps BoundLaw (fun _ _ _ k => k) h ?_ ?_
  · intro op rest s' push _ hrun
    have := Bounds.runOp given t op s h
    rwa [hrun] at this
  · intro op rest s' _ hrun
    have := Bounds.runOp given t op s h
    rwa [hrun] at this

/-- Settling, and the launch of an operation, keep the bounds of the state that they find. -/
theorem Bounds.settle {s u : State} (h : Bounds s u) : Bounds s (settleAll u) :=
  h.trans (settleAll_induction BoundLaw (fun v t k _ => Bounds.micro false t v k) u)

theorem Bounds.launch {s u : State} (h : Bounds s u) {t : Thread} {ops : List Op} : Bounds s (launch u t ops) :=
  Bounds.settle (u := u.addOps t ops) (h.trans (Lighter.bounds (.same (by rfl))))

theorem Lighter.launch {s u : State} (h : Lighter s u) {t : Thread} {ops : List Op} : Bounds s (Machine.launch u t ops) :=
  h.bounds.launch

/-! ### The ports and the write-back queue -/

theorem lighter_judgeCommands (rs : List Line) (s : State) : Lighter s (judgeCommands rs s) := by
  induction rs generalizing s with
  | nil => exact .same rfl
  | cons r rs ih =>
    have hrefused : Lighter s (refuseRecord s r) := Lighter.after (lighter_imageWrite _) (by rfl)
    unfold judgeCommands
    split
    · exact ih s
    · split
      · exact hrefused.trans (ih _)
      · exact .same rfl

/-- A full intake or request queue holds the write of a further record back (R10). -/
theorem not_full_of_backpressure {s : State} {w : LineWrite} (hfull : fullLine w = true) (h : backpressure s w = false) :
    (∀ o, writeClass s (lineNumber w.addr) = .intakeRecord o → intakeCount s ≠ 64) ∧
      ∀ i, writeClass s (lineNumber w.addr) = .requestLine i → requestCount s ≠ 16 := by
  constructor <;> intro x hx <;> simpa [backpressure, hfull, hx] using h

theorem bounds_acceptHead (s : State) : Bounds s (acceptHead s) := by
  unfold acceptHead
  split
  · exact .refl s
  · next w rest _ =>
    split
    · exact .refl s
    · next hback =>
      have hback' : backpressure s w = false := by
        simp only [Bool.or_eq_true, not_or, Bool.not_eq_true] at hback
        exact hback.2
      dsimp only
      unfold decodeWrite
      split
      · next hfull =>
        obtain ⟨hrecords, hrequests⟩ := not_full_of_backpressure hfull hback'
        unfold handOver
        split
        · exact (Lighter.after (lighter_judgeCommands _ _) (by rfl)).bounds
        · exact Lighter.bounds (.same (by rfl))
        · next o hc =>
          rintro ⟨hh, hi, hr, hs, hrun, hslot⟩
          refine ⟨hh, ?_, hr, hs, hrun, hslot⟩
          have hne := hrecords o hc
          simp only [intakeCount_eq, enterSequence, List.length_append, List.length_singleton, Config.intakeRecords] at hi hne ⊢
          omega
        · next i hc =>
          rintro ⟨hh, hi, hr, hs, hrun, hslot⟩
          refine ⟨hh, hi, ?_, hs, hrun, hslot⟩
          have hne := hrequests i hc
          simp only [requestCount_eq, enterSequence, List.length_append, List.length_singleton, Config.requestEntries] at hr hne ⊢
          omega
        all_goals exact Lighter.bounds (.same (by rfl))
      · split
        · exact Lighter.launch (.same (by rfl))
        · exact Lighter.bounds (.same (by rfl))

theorem bounds_acceptRead (s : State) (a : Addr) (tag : Nat) : Bounds s (acceptRead s a tag) := by
  unfold acceptRead
  split
  · split
    · next hh =>
      rintro ⟨-, hi, hr, hs, hrun, hslot⟩
      simp only [Machine.holds, Bool.and_eq_true, decide_eq_true_eq] at hh
      exact ⟨by simpa using hh.2, hi, hr, hs, hrun, hslot⟩
    · exact Lighter.bounds (.same (by rfl))
  · exact Lighter.bounds (.same (by rfl))

theorem lighter_returnResponse (s : State) (tag : Nat) (answer : ReadData) : Lighter s (returnResponse s tag answer) := by
  unfold returnResponse
  split <;> exact .same rfl

theorem lighter_releaseDue (s : State) (entry : Nat) : Lighter s (releaseDue s entry) := by
  unfold releaseDue
  repeat' split
  · exact .same rfl
  · exact .ofHolds (List.length_eraseIdx_le _ _) (by rfl)
  · exact .same rfl

theorem lighter_issueOldest (s : State) : Lighter s (issueOldest s) := by
  unfold issueOldest issueItem
  split
  · exact .same rfl
  · split
    · exact .same rfl
    · dsimp only
      split
      · rw [resultIssued_eq]
        exact .ofHolds (List.length_filter_le _ _) (by rfl)
      · exact .same rfl

theorem bounds_giveRoom (s : State) : Bounds s (giveRoom s) := by
  have hdrop : Lighter s (dropWaiter s) := .same rfl
  unfold giveRoom
  split
  · split
    · exact (hdrop.bounds.trans (Bounds.micro true _ _)).settle
    · exact .refl s
  · repeat' split
    all_goals exact Lighter.bounds (.same (by rfl))
  · exact .refl s

theorem lighter_giveResponseRoom (s : State) : Lighter s (giveResponseRoom s) := by
  unfold giveResponseRoom
  repeat' split
  all_goals exact .same rfl

theorem bounds_giveStrikeRoom (s : State) : Bounds s (giveStrikeRoom s) := by
  unfold giveStrikeRoom
  split
  · exact Bounds.settle (Lighter.bounds (.same (by rfl)))
  · exact .refl s

/-! ### The commands of the control unit -/

theorem bounds_onRecord (p : Line → Bool) {f : Line → State → State} (hf : ∀ r s, Bounds s (f r s)) (s : State) :
    Bounds s (onRecord p f s) := by
  unfold onRecord
  split
  · exact .refl s
  · split
    · exact (Bounds.after (hf _ _) (by rfl)).trans (lighter_judgeCommands _ _).bounds
    · exact .refl s

theorem lighter_finishRecord (s : State) (r : Line) (o : CmdOutcome) : Lighter s (finishRecord s r o) :=
  Lighter.after (lighter_imageWrite _) (by rfl)

theorem bounds_finishRecord (s : State) (r : Line) (o : CmdOutcome) : Bounds s (finishRecord s r o) :=
  (lighter_finishRecord s r o).bounds

theorem Lighter.performing {s u : State} (h : Lighter s u) {r : Line} {items : List Op} : Bounds s (Machine.performing u r items) :=
  Lighter.launch (u := begin u r .effects) (h.trans (.same rfl))

theorem bounds_runSetWindows (r : Line) (s : State) : Bounds s (runSetWindows r s) := by
  unfold runSetWindows
  repeat' split
  iterate 3 exact bounds_finishRecord _ _ _
  all_goals exact Lighter.performing (.same (by rfl))

theorem bounds_runLoadProfile (r : Line) (s : State) : Bounds s (runLoadProfile r s) := by
  unfold runLoadProfile
  repeat' split
  · exact bounds_finishRecord _ _ _
  · exact bounds_finishRecord _ _ _
  · exact Lighter.bounds (.same (by rfl))

theorem bounds_runLoadClasses (r : Line) (s : State) : Bounds s (runLoadClasses r s) := by
  unfold runLoadClasses
  repeat' split
  iterate 3 exact bounds_finishRecord _ _ _
  exact (Lighter.after (lighter_finishRecord _ _ _) (by rfl)).bounds

theorem bounds_runSetTiming (r : Line) (s : State) : Bounds s (runSetTiming r s) :=
  (Lighter.after (lighter_finishRecord _ _ _) (by rfl)).bounds

theorem bounds_runSetReporting (r : Line) (s : State) : Bounds s (runSetReporting r s) := by
  unfold runSetReporting
  split
  · exact Lighter.performing (.same (by rfl))
  · exact (Lighter.after (lighter_finishRecord _ _ _) (by rfl)).bounds

theorem bounds_runStart (r : Line) (s : State) : Bounds s (runStart r s) := by
  unfold runStart
  split
  · exact bounds_finishRecord _ _ _
  · exact Lighter.performing (.same (by rfl))

theorem bounds_stopIntake (s : State) : Bounds s (stopIntake s) := by
  unfold stopIntake
  split
  · exact (Lighter.refl s).launch
  · exact .refl s

theorem bounds_runStop (r : Line) (s : State) : Bounds s (runStop r s) := by
  unfold runStop
  split
  · exact bounds_finishRecord _ _ _
  · exact (Lighter.launch (.same (by rfl))).trans (bounds_stopIntake _)

theorem bounds_endDrain (s : State) : Bounds s (endDrain s) := by
  unfold endDrain
  split
  · exact Lighter.launch (.same (by rfl))
  · exact .refl s

theorem lighter_requestTopology (s : State) : Lighter s (requestTopology s) := by
  unfold requestTopology
  repeat' split
  · exact .same rfl
  · exact .same rfl
  · exact Lighter.after (lighter_requestGrant _ _) (by rfl)

theorem bounds_runClearTopology (r : Line) (s : State) : Bounds s (runClearTopology r s) := by
  unfold runClearTopology
  repeat' split
  · exact bounds_finishRecord _ _ _
  · exact bounds_finishRecord _ _ _
  · exact (Lighter.after (lighter_requestTopology _) (by rfl)).bounds

theorem bounds_runClearPaths (r : Line) (s : State) : Bounds s (runClearPaths r s) := by
  unfold runClearPaths
  split
  · exact bounds_finishRecord _ _ _
  · exact Lighter.performing (.same (by rfl))

theorem lighter_abandonAll (s : State) : Lighter s (abandonAll s) :=
  ⟨Nat.le_refl _, Nat.le_refl _, Nat.le_refl _, Nat.le_refl _, Nat.zero_le _, fun _ h => (Option.some_ne_none _ h.symm).elim⟩

theorem bounds_runRestart (r : Line) (s : State) : Bounds s (runRestart r s) :=
  Lighter.launch ((lighter_abandonAll s).trans (.same (by rfl)))

theorem lighter_setPhase (s : State) (phase : Phase) : Lighter s (setPhase s phase) := by
  unfold setPhase
  split <;> exact .same rfl

theorem lighter_answerProfileRead (answer : ReadData) (s : State) : Lighter s (answerProfileRead answer s) := by
  unfold answerProfileRead
  split
  · exact .same rfl
  · refine Lighter.trans (t := ownReadAnswered s) (.same (by rfl)) ?_
    dsimp only
    repeat' split
    · exact lighter_completeCommand _ _
    · exact lighter_setPhase _ _
    · exact lighter_completeCommand _ _
    · exact lighter_completeCommand _ _
    · exact .refl _

theorem lighter_installWaiting (s : State) : Lighter s (installWaiting s) := by
  have hinstalled : ∀ d p, Lighter s (installProfile s d p) := fun _ _ => .same rfl
  unfold installWaiting
  repeat' split
  · exact .same rfl
  · exact (hinstalled _ _).trans ((lighter_setPhase _ _).trans (lighter_requestTopology _))
  · exact lighter_completeCommand _ _
  · exact (hinstalled _ _).trans (lighter_completeCommand _ _)
  · exact .same rfl

/-! ### The notice unit, the intake unit and the topology unit -/

theorem bounds_acknowledgeNext (s : State) : Bounds s (acknowledgeNext s) := by
  unfold acknowledgeNext
  repeat' split
  · exact .refl s
  · exact .refl s
  · exact Lighter.launch (.same (by rfl))

/-- A record in taking is placed, or dropped: no record more is counted for it (R57). -/
theorem lighter_placeRecord {s : State} (h : s.intake.taking.isSome = true) (r : HandedRecord) : Lighter s (placeRecord s r).1 := by
  unfold placeRecord
  split
  · exact .same rfl
  · split
    · exact .same rfl
    · split
      · unfold placeOpen
        split
        · exact lighter_openNewBatch h r
        · exact lighter_abortBatch _ _
        · split
          · exact .same rfl
          · exact lighter_openNewBatch h r
      · unfold placeClose
        repeat' split
        · exact .same rfl
        · exact (lighter_queueRecord h r .closing).trans (.same (by rfl))
        all_goals exact .same rfl
      · unfold placeReport
        repeat' split
        · exact lighter_queueRecord h r .loose
        · exact .same rfl
        · exact lighter_queueRecord h r .member
        all_goals exact .same rfl

theorem bounds_takeRecord (s : State) : Bounds s (takeRecord s) := by
  unfold takeRecord
  split
  · exact .refl s
  · next r rest hh =>
    split
    · exact .refl s
    · next hfree =>
      have hnone : s.intake.taking.isSome = false := by
        simp only [not_or, Bool.not_eq_true] at hfree
        exact hfree.2.1
      have htaken : Lighter s { s with intake := { s.intake with handed := rest, taking := some r } } :=
        .ofIntake (by
          simp only [intakeCount_eq, hh, hnone, List.length_cons, Option.isSome_some, Bool.toNat_true, Bool.toNat_false]
          omega) rfl
      exact (htaken.trans (lighter_placeRecord rfl r)).launch

theorem bounds_applyLoose (s : State) : Bounds s (applyLoose s) := by
  unfold applyLoose
  split
  · next r rest hq =>
    split
    · refine Lighter.launch (.ofIntake ?_ (by rfl))
      simp only [intakeCount_eq, setQueue, hq, List.length_cons]
      omega
    · exact .refl s
  · exact .refl s

/-- The records that stay behind a closed batch are among those that stood behind its marker (R67). -/
theorem length_splitBatch_le (q : List QueuedRecord) : (splitBatch q).2.length ≤ q.length := by
  induction q with
  | nil => exact Nat.le_refl _
  | cons r rest ih =>
    simp only [splitBatch]
    split <;> simp only [List.length_cons] <;> omega

theorem bounds_applyBatch (s : State) : Bounds s (applyBatch s) := by
  unfold applyBatch
  split
  · next r rest hq =>
    split
    · refine Lighter.launch (.ofIntake ?_ (by rfl))
      have := length_splitBatch_le rest
      simp only [intakeCount_eq, setQueue, hq, List.length_cons]
      omega
    · exact .refl s
  · exact .refl s

theorem lighter_noteDue (e : EntryName) (s : State) : Lighter s (noteDue e s) := by
  unfold noteDue
  split
  · exact lighter_requestTopology s
  · exact .same rfl

theorem bounds_expireNext (s : State) : Bounds s (expireNext s) := by
  unfold expireNext
  repeat' split
  · exact (Lighter.refl s).launch
  · exact (Lighter.refl s).launch
  · exact (Lighter.after (lighter_releaseGrant _) (by rfl)).bounds
  · exact .refl s

theorem bounds_releaseLink (s : State) : Bounds s (releaseLink s) := by
  unfold releaseLink
  repeat' split
  · exact Lighter.launch (.same (by rfl))
  all_goals exact .refl s

theorem bounds_reconvert (s : State) : Bounds s (reconvert s) := by
  unfold reconvert
  repeat' split
  · exact (Lighter.refl s).launch
  all_goals exact .refl s

theorem bounds_clearTopology (s : State) : Bounds s (clearTopology s) := by
  unfold clearTopology
  repeat' split
  · exact Lighter.launch (.same (by rfl))
  all_goals exact .refl s

/-! ### The path table unit -/

theorem bounds_takeRequest (s : State) : Bounds s (takeRequest s) := by
  unfold takeRequest
  split
  · exact .refl s
  · next r rest hh =>
    split
    · exact .refl s
    · dsimp only
      split
      · refine Lighter.bounds (.ofRequests ?_ (by rfl))
        simp only [requestCount_eq, hh, List.length_cons]
        omega
      · split
        · refine Lighter.launch (.ofRequests ?_ (by rfl))
          simp only [requestCount_eq, hh, List.length_cons, Bool.toNat_true]
          omega
        · refine Lighter.launch (.ofRequests ?_ (by rfl))
          simp only [requestCount_eq, queueRequest, hh, List.length_cons, List.length_append, List.length_nil]
          omega

/-- A selection keeps the run count it meets, and sets one of at most 4 (R143, R144). -/
theorem bounds_selectItem (s : State) (item : Item) (phase : ItemPhase) {run : Nat} (h : run ≤ 4) :
    Bounds s (selectItem s item phase run) := by
  rintro ⟨hholds, hintake, hrequests, hstrikes, hrun, -⟩
  refine ⟨hholds, hintake, hrequests, hstrikes, h, ?_⟩
  rintro _ ⟨⟩
  exact hrun

theorem bounds_selectRestoration (s : State) (p : Nat) : Bounds s (selectRestoration s p) :=
  (bounds_selectItem s _ _ (Nat.min_le_left _ _)).trans (lighter_requestGrant _ _).bounds

theorem bounds_selectWaiting (s : State) (q : QueuedRequest) : Bounds s (selectWaiting s q) :=
  ((bounds_selectItem s _ _ (Nat.zero_le _)).trans (lighter_requestGrant _ _).bounds).launch

theorem Lighter.selectAnswered {s u : State} (h : Lighter s u) (q : QueuedRequest) (items : List Op) :
    Bounds s (selectAnswered q u items) :=
  (h.bounds.trans (bounds_selectItem u _ _ (Nat.zero_le _))).launch

theorem bounds_selectRequest (s : State) (q : QueuedRequest) : Bounds s (selectRequest s q) := by
  have hanswered : ∀ items, Bounds s (selectAnswered q s items) := (Lighter.refl s).selectAnswered q
  unfold selectRequest
  split
  · exact hanswered _
  · split
    · exact bounds_selectWaiting s q
    · split
      · exact bounds_selectWaiting s q
      · exact hanswered _
    · exact bounds_selectWaiting s q
    · unfold selectRelease
      split
      · exact hanswered _
      · exact ((lighter_unreserveAll s _).trans (.same (by rfl))).selectAnswered q _
    · unfold selectResume
      repeat' split
      · exact hanswered _
      · exact (lighter_storePath s _ _).selectAnswered q _
      · exact hanswered _
    · exact hanswered _

theorem bounds_selectNext (s : State) : Bounds s (selectNext s) := by
  have hrequest : ∀ q rest, s.paths.queue = q :: rest →
      Bounds s (selectRequest { s with paths := { s.paths with queue := rest } } q) := by
    intro q rest hq
    refine Bounds.trans (Lighter.bounds (.ofRequests ?_ (by rfl))) (bounds_selectRequest _ q)
    simp only [requestCount_eq, hq, List.length_cons]
    omega
  unfold selectNext
  split
  · exact .refl s
  · split
    · exact bounds_selectRestoration s _
    · next hq =>
      split
      · exact bounds_selectRestoration s _
      · exact hrequest _ _ hq
    · next hq => exact hrequest _ _ hq
    · exact .refl s

/-- A dropped restoration gives back the run count from before its selection (R144). -/
theorem bounds_dropRestoration {s : State} {o : Operation} (ho : s.paths.slot = some o) : Bounds s (dropRestoration s o) := by
  refine Bounds.trans (t := { s with paths := { s.paths with slot := none, runCount := o.runBefore } }) ?_
    (lighter_releaseGrant _).bounds
  rintro ⟨hholds, hintake, hrequests, hstrikes, -, hslot⟩
  exact ⟨hholds, hintake, hrequests, hstrikes, hslot o ho, fun _ h => (Option.some_ne_none _ h.symm).elim⟩

theorem lighter_setItemPhase {s : State} {o : Operation} (ho : s.paths.slot = some o) (phase : ItemPhase) :
    Lighter s (setItemPhase s o phase) := by
  refine ⟨Nat.le_refl _, Nat.le_refl _, Nat.le_refl _, Nat.le_refl _, Nat.le_refl _, ?_⟩
  rintro _ ⟨⟩
  exact ⟨o, ho, rfl⟩

theorem lighter_startComputation {s : State} {o : Operation} (ho : s.paths.slot = some o) (i : Inputs) :
    Lighter s (startComputation s o i) :=
  (lighter_setItemPhase ho .computing).trans (.same (by rfl))

theorem bounds_takeUpRequest {s : State} {o : Operation} (ho : s.paths.slot = some o) (q : QueuedRequest) :
    Bounds s (takeUpRequest s o q) := by
  unfold takeUpRequest
  repeat' split
  · exact (lighter_startComputation ho _).bounds
  · exact (lighter_setItemPhase ho _).launch
  · exact (lighter_startComputation ho _).bounds

theorem bounds_takeUpGrant (s : State) : Bounds s (takeUpGrant s) := by
  unfold takeUpGrant
  split
  · next o ho =>
    repeat' split
    · exact (lighter_startComputation ho _).bounds
    · exact bounds_dropRestoration ho
    · exact bounds_dropRestoration ho
    · exact bounds_takeUpRequest ho _
    · exact .refl s
  · exact .refl s

theorem lighter_allocatePath (s : State) (p : Nat) (r : Line) (c : Computed) (primary : Route) :
    Lighter s (allocatePath s p r c primary) := by
  have hbackup : ∀ u : State, Lighter u (match c.backup with | some b => reserveRoute u b | none => u) := by
    intro u
    split
    · exact lighter_reserveRoute u _
    · exact .same rfl
  exact ((lighter_reserveRoute s primary).trans (hbackup _)).trans (.same (by rfl))

theorem lighter_endSetup (s : State) (q : QueuedRequest) (c : Computed) : Lighter s (endSetup s q c).1 := by
  unfold endSetup
  split
  · exact lighter_allocatePath _ _ _ _ _
  · exact .same rfl

theorem lighter_endReroute (s : State) (q : QueuedRequest) (c : Computed) : Lighter s (endReroute s q c).1 := by
  unfold endReroute
  split
  · exact (lighter_replaceReservation s _ _).trans (lighter_storePath _ _ _)
  · exact .same rfl

theorem lighter_endRestoration (s : State) (p : Nat) (c : Computed) : Lighter s (endRestoration s p c).1 := by
  unfold endRestoration
  repeat' split
  · exact .same rfl
  · exact (lighter_replaceReservation s _ _).trans (lighter_storePath _ _ _)
  · exact lighter_storePath _ _ _

theorem lighter_endItem (s : State) (item : Item) (c : Computed) : Lighter s (endItem s item c).1 := by
  unfold endItem
  split
  · exact lighter_endRestoration s _ c
  · split
    · exact lighter_endSetup s _ c
    · exact lighter_endReroute s _ c
    all_goals exact .same rfl

theorem bounds_endComputation (s : State) : Bounds s (endComputation s) := by
  unfold endComputation
  split
  · next ho _ =>
    split
    · exact (((lighter_setItemPhase ho .answering).trans (.same (by rfl))).trans (lighter_endItem _ _ _)).launch
    · exact .refl s
  · exact .refl s

/-- A strike event leaves its queue. -/
theorem lighter_nextStrike {s u : State} {kind : StrikeKind} {k : Nat} (h : nextStrike s kind = some (k, u)) : Lighter s u := by
  unfold nextStrike at h
  split at h
  · cases h
  · next x rest hx =>
    split at h
    · cases h
      exact ⟨Nat.le_refl _, Nat.le_refl _, Nat.le_refl _, by simp [hx], Nat.le_refl _, fun o ho => ⟨o, ho, rfl⟩⟩
    · cases h

theorem bounds_strikeDown (s : State) : Bounds s (strikeDown s) := by
  unfold strikeDown
  split
  · exact .refl s
  · next h =>
    have hu := lighter_nextStrike h
    split
    · exact hu.bounds
    · exact (hu.trans (.same (by rfl))).launch

theorem bounds_strikeUp (s : State) : Bounds s (strikeUp s) := by
  unfold strikeUp
  split
  · exact .refl s
  · next h =>
    have hu := lighter_nextStrike h
    split
    · exact (hu.trans (.same (by rfl))).launch
    · exact hu.bounds

theorem bounds_strikeRetire (s : State) : Bounds s (strikeRetire s) := by
  unfold strikeRetire
  split
  · exact .refl s
  · next h => exact (lighter_nextStrike h).launch

/-! ### All commands -/

theorem boundLaw_reset : BoundLaw State.reset := by
  refine ⟨?_, ?_, ?_, ?_, ?_, fun _ h => (Option.some_ne_none _ h.symm).elim⟩ <;> exact Nat.zero_le _

theorem exec_bounds {c : Instr} {s t : State} (h : exec c s = .next t) : Bounds s t := by
  have keeps : ∀ {f : State → State}, (∀ s, Bounds s (f s)) → live s f = .next t → Bounds s t :=
    fun hf => live_keeps (.refl s) hf
  have record : ∀ {p : Line → Bool} {f : Line → State → State}, (∀ r s, Bounds s (f r s)) →
      live s (onRecord p f) = .next t → Bounds s t :=
    fun hf => keeps (bounds_onRecord _ hf)
  cases c with
  | resetAsserted =>
    cases h
    exact fun _ => boundLaw_reset
  | resetReleased straps =>
    cases h
    split
    · exact Lighter.bounds (.same (by rfl))
    · exact .refl s
  | writeAccepted presented =>
    cases presented with
    | none => exact keeps bounds_acceptHead h
    | some w =>
      simp only [exec, execWriteAccepted] at h
      split at h
      · exact keeps (fun s => Bounds.after (bounds_acceptHead (present s w)) (by rfl)) h
      · cases h
  | readAccepted a tag =>
    simp only [exec, execReadAccepted] at h
    split at h
    · exact keeps (fun s => bounds_acceptRead s a tag) h
    · cases h
  | readResponse tag answer => exact keeps (fun s => (lighter_returnResponse s tag answer).bounds) h
  | holdDeadline entry => exact keeps (fun s => (lighter_releaseDue s entry).bounds) h
  | writeBackIssue => exact keeps (fun s => (lighter_issueOldest s).bounds) h
  | writeBackRoom => exact keeps bounds_giveRoom h
  | responseWrite => exact keeps (fun s => (lighter_giveResponseRoom s).bounds) h
  | strikeQueueRoom => exact keeps bounds_giveStrikeRoom h
  | unknownCommand => exact record (fun r s => bounds_finishRecord s r .unknownCommand) h
  | setWindows => exact record bounds_runSetWindows h
  | loadProfile => exact record bounds_runLoadProfile h
  | profileReadResponse answer => exact keeps (fun s => (lighter_answerProfileRead answer s).bounds) h
  | profileInstallation => exact keeps (fun s => (lighter_installWaiting s).bounds) h
  | profileReconversion => exact keeps bounds_reconvert h
  | loadClasses => exact record bounds_runLoadClasses h
  | setTiming => exact record bounds_runSetTiming h
  | setReporting => exact record bounds_runSetReporting h
  | start => exact record bounds_runStart h
  | stop => exact record bounds_runStop h
  | drainEnd => exact keeps bounds_endDrain h
  | clearTopology => exact record bounds_runClearTopology h
  | clearTopologyOperation => exact keeps bounds_clearTopology h
  | clearPaths => exact record bounds_runClearPaths h
  | restart => exact record bounds_runRestart h
  | acknowledgement => exact keeps bounds_acknowledgeNext h
  | intakeRecordTaking => exact keeps bounds_takeRecord h
  | topologyRequest => exact keeps (fun s => (lighter_requestTopology s).bounds) h
  | looseRecordApplication => exact keeps bounds_applyLoose h
  | batchApplication => exact keeps bounds_applyBatch h
  | entryDue entry => exact keeps (fun s => (lighter_noteDue entry s).bounds) h
  | expiry => exact keeps bounds_expireNext h
  | linkIdRelease => exact keeps bounds_releaseLink h
  | requestTaking => exact keeps bounds_takeRequest h
  | selection => exact keeps bounds_selectNext h
  | grantTakeUp => exact keeps bounds_takeUpGrant h
  | computationEnd => exact keeps bounds_endComputation h
  | downEvent => exact keeps bounds_strikeDown h
  | upEvent => exact keeps bounds_strikeUp h
  | retireEvent => exact keeps bounds_strikeRetire h

/-- Settles O7: what joins a bounded queue finds room there or was counted before, and the run count saturates at 4. -/
theorem boundsKept : Obligations.BoundsKept := by
  refine keeps_of_exec (fun _ _ hs => hs) (fun s hs => ?_) fun _ _ _ hs h => exec_bounds h hs
  unfold tick
  split <;> exact hs

end Sys2Proof.Machine

/-!
PROOFS. What the items of an operation read and write, apart from all else in the part.
-/

namespace Sys2Proof.Machine

/-! ### Items queued and posted leave all but the write-back queue and the notice unit (R16, R175, R179) -/

/-- The state `u` with what items queue into, post to and are judged by as in `s`. -/
def voiced (s u : State) : State :=
  { u with decoder := s.decoder, control := s.control, writeBack := s.writeBack, notices := s.notices }

section
variable (s u : State)

theorem withRef_voiced (r : Ref) : withRef (voiced s u) r = voiced (withRef s r) u := by
  simp only [withRef_eq, voiced]

theorem noticeLost_voiced : noticeLost (voiced s u) = voiced (noticeLost s) u := by
  simp only [noticeLost, withRef_eq, voiced]
  split <;> rfl

theorem noticeWritten_voiced (w : Windows) (l : Line) : noticeWritten (voiced s u) w l = voiced (noticeWritten s w l) u := by
  simp only [noticeWritten, withRef_eq, voiced]
  rfl

theorem posted_voiced (n : Notice) : posted (voiced s u) n = voiced (posted s n) u := by
  have henabled : noticeEnabled (voiced s u) n = noticeEnabled s n := noticeEnabled_congr rfl n
  have hdecoder : (voiced s u).decoder = s.decoder := rfl
  have hring : ringUsed (voiced s u) = ringUsed s := rfl
  have hnotices : (voiced s u).notices = s.notices := rfl
  have hcontrol : (voiced s u).control = s.control := rfl
  simp only [posted, henabled, hdecoder, hring, hnotices, hcontrol, noticeLost_voiced, noticeWritten_voiced]
  split
  · rfl
  · cases s.decoder.windows with
    | none => rfl
    | some w => exact (apply_ite (voiced · u) _ _ _).symm

variable {s u}

/-- A PATH_STATE shows a path's state and generation, so these must be the same (R178). -/
theorem pathStateLine_voiced (hentries : u.paths.entries = s.paths.entries) (hgenerations : u.paths.generations = s.paths.generations)
    (p : Nat) (r : NoticeRecord) : pathStateLine (voiced s u) p r = pathStateLine s p r := by
  have hcode : pathStateCode (voiced s u) p = pathStateCode s p := by
    simp only [pathStateCode, voiced, hentries]
  have hgeneration : generationOf (voiced s u) p = generationOf s p := by
    simp only [generationOf, voiced, hgenerations]
  rw [pathStateLine, hcode, hgeneration]
  rfl

theorem pathNotified_voiced (hentries : u.paths.entries = s.paths.entries) (hgenerations : u.paths.generations = s.paths.generations)
    (w : Windows) (p : Nat) : pathNotified w (voiced s u) p = voiced (pathNotified w s p) u := by
  have hread : noticeRecord (voiced s u) p = noticeRecord s p := rfl
  have hgeneration : generationOf (voiced s u) p = generationOf s p := by
    simp only [generationOf, voiced, hgenerations]
  simp only [pathNotified, hread, pathStateLine_voiced hentries hgenerations, hgeneration]
  exact withRef_voiced { withContent s _ _ none with notices := _ } u .status

theorem pathStatePosted_voiced (hentries : u.paths.entries = s.paths.entries) (hgenerations : u.paths.generations = s.paths.generations)
    (p : Nat) (why : PathReason) : pathStatePosted (voiced s u) p why = voiced (pathStatePosted s p why) u := by
  have hrecord : ∀ r, withRecord (voiced s u) p r = voiced (withRecord s p r) u := fun _ => rfl
  have hread : noticeRecord (voiced s u) p = noticeRecord s p := rfl
  have hdecoder : (voiced s u).decoder = s.decoder := rfl
  have hring : ringUsed (voiced s u) = ringUsed s := rfl
  have hnotices : (voiced s u).notices = s.notices := rfl
  have hcontrol : (voiced s u).control = s.control := rfl
  have hnotified : ∀ r w, pathNotified w (voiced (withRecord s p r) u) p = voiced (pathNotified w (withRecord s p r) p) u :=
    fun r w => pathNotified_voiced (s := withRecord s p r) hentries hgenerations w p
  simp only [pathStatePosted, hrecord, hread, hdecoder, hring, hnotices, hcontrol, hnotified]
  split
  · rfl
  · cases s.decoder.windows with
    | none => rfl
    | some w => exact (apply_ite (voiced · u) _ _ _).symm

theorem withOne_voiced (hentries : u.paths.entries = s.paths.entries) (hgenerations : u.paths.generations = s.paths.generations)
    (x : Said) : withOne (voiced s u) x = voiced (withOne s x) u := by
  cases x with
  | ref r => exact withRef_voiced s u r
  | post n => exact posted_voiced s u n
  | pathState p why => exact pathStatePosted_voiced hentries hgenerations p why

theorem withOne_paths (s : State) (x : Said) : (withOne s x).paths = s.paths := by
  have h : withOne s x = voiced (withOne s x) s := withOne_voiced (s := s) (u := s) rfl rfl x
  rw [h]
  rfl

theorem withSaid_voiced (hentries : u.paths.entries = s.paths.entries) (hgenerations : u.paths.generations = s.paths.generations)
    (xs : List Said) : withSaid (voiced s u) xs = voiced (withSaid s xs) u := by
  induction xs generalizing s with
  | nil => rfl
  | cons x xs ih =>
    have hpaths := withOne_paths s x
    exact (congrArg (withSaid · xs) (withOne_voiced hentries hgenerations x)).trans
      (ih (hpaths ▸ hentries) (hpaths ▸ hgenerations))

end

/-- The items of a list leave all else as it was. -/
theorem withSaid_self (s : State) (xs : List Said) : withSaid s xs = voiced (withSaid s xs) s :=
  withSaid_voiced (s := s) (u := s) rfl rfl xs

end Sys2Proof.Machine

/-!
PROOFS. The topology unit's request (O43).
-/

namespace Sys2Proof.Machine

/-! ### TOPOLOGY_REQUEST (R65, R93, R107, R109, R110) -/

/-- The idle topology unit asks for ready work; a sound arbiter that is free has no other request waiting (R109, R110). -/
theorem requestTopology_ready {s : State} {w : Work} (hrestart : restarting s = false) (harb : ArbiterSound s)
    (hidle : s.topology.work = none) (hready : readyWork s = some w) : requestTopology s = topologyAsks s w := by
  simp only [requestTopology, hidle, hrestart, hready, Option.isSome_none, Bool.or_self, Bool.false_eq_true, if_false]
  unfold requestGrant topologyAsks
  by_cases hholder : s.arbiter.holder = none
  · obtain ⟨hwaitTopology, hwaitPath⟩ := harb hholder
    rw [if_pos ⟨hholder, hwaitTopology, hwaitPath⟩, if_pos hholder]
    simp [grantTo, heldBy, hwaitPath]
  · rw [if_neg fun h => hholder h.1, if_neg hholder]

theorem requestTopology_unready {s : State} (h : s.topology.work ≠ none ∨ readyWork s = none) : requestTopology s = s := by
  unfold requestTopology
  split
  · rfl
  · next hidle =>
    simp only [Bool.or_eq_true, not_or, Option.isSome_iff_ne_none, ne_eq, not_not] at hidle
    rw [h.resolve_left (not_not_intro hidle.1)]

theorem commandWork_iff (s : State) : commandWork s = true ↔ ¬ NoCommandWork s := by
  unfold commandWork NoCommandWork
  cases s.control.inProgress with
  | none => simp
  | some c =>
    obtain ⟨record, phase⟩ := c
    cases phase <;> simp

/-- The lowest owed link is the first one in the table (R107). -/
theorem firstOwed_eq {s : State} {before after : Table LinkEntry} {k : Nat} {l : LinkEntry}
    (hlinks : s.topology.links = before ++ (k, l) :: after) (hl : l.owed) (hbefore : ∀ x ∈ before, ¬ x.2.owed) :
    firstOwed s = some k := by
  have hskip : List.find? (fun x : Nat × LinkEntry => x.2.state == .retiring && x.2.answered) before = none := by
    rw [List.find?_eq_none]
    intro x hx h
    exact hbefore x hx (by simpa [LinkEntry.owed] using h)
  simp [firstOwed, hlinks, hskip, show l.state = .retiring from hl.1, show l.answered = true from hl.2]

theorem firstOwed_none {s : State} (h : ∀ x ∈ s.topology.links, ¬ x.2.owed) : firstOwed s = none := by
  rw [firstOwed, Option.map_eq_none_iff, List.find?_eq_none]
  intro x hx hx'
  exact h x hx (by simpa [LinkEntry.owed] using hx')

theorem anyDue_iff (s : State) (now : BitVec 64) : anyDue s now = true ↔
    (∃ x ∈ s.topology.nodes, nodeDue s now x.2 = true) ∨ ∃ x ∈ s.topology.ports, portDue s now x.2 = true := by
  simp only [anyDue, firstDueNode, firstDuePort, Bool.or_eq_true, List.find?_isSome]

/-- What `headApplicable` decides (R65). -/
theorem headApplicable_iff (s : State) : headApplicable s = true ↔ ∃ x behind, s.intake.queue = x :: behind ∧
    (x.role = .loose ∨ (x.role = .opening ∧ ∃ y ∈ behind, y.role = .closing)) := by
  unfold headApplicable
  cases s.intake.queue with
  | nil => simp
  | cons x behind => cases hx : x.role <;> simp [hx]

/-- Settles O43: the first ready work, in the order of `readyWork`; and what makes the head applicable. -/
theorem topologyRequestMade : Obligations.TopologyRequestMade := by
  refine ⟨fun s hr hrestart harb => ?_, fun s => ⟨headApplicable_iff s, fun marker behind hopen => ?_⟩⟩
  · have hexec : exec .topologyRequest s = .next (requestTopology s) := live_released hr requestTopology
    have hready : ∀ {w}, s.topology.work = none → readyWork s = some w → exec .topologyRequest s = .next (topologyAsks s w) :=
      fun hidle hw => by rw [hexec, requestTopology_ready hrestart harb hidle hw]
    have hquiet : s.topology.work ≠ none ∨ readyWork s = none → exec .topologyRequest s = .next s :=
      fun h => by rw [hexec, requestTopology_unready h]
    refine ⟨fun hwork => hquiet (.inl hwork), fun hidle hcommand => hready hidle (if_pos ((commandWork_iff s).2 hcommand)),
      fun hidle hnone => ?_⟩
    have hcommand : ¬ commandWork s = true := fun h => (commandWork_iff s).1 h hnone
    have hwork : readyWork s = match firstOwed s with
        | some k => some (.release k)
        | none => if anyDue s s.control.time then some .expiry else if headApplicable s then some .intake else none :=
      if_neg hcommand
    refine ⟨fun before k l after hlinks hl hbefore => hready hidle (by rw [hwork, firstOwed_eq hlinks hl hbefore]), fun howed => ?_⟩
    rw [firstOwed_none howed] at hwork
    refine ⟨fun hdue => hready hidle (hwork.trans (if_pos ((anyDue_iff s _).2 hdue))), fun hnodes hports => ?_⟩
    have hundue : ¬ anyDue s s.control.time = true := by
      rw [anyDue_iff]
      rintro (⟨x, hx, hd⟩ | ⟨x, hx, hd⟩)
      · exact Bool.false_ne_true ((hnodes x hx).symm.trans hd)
      · exact Bool.false_ne_true ((hports x hx).symm.trans hd)
    dsimp only at hwork
    rw [if_neg hundue] at hwork
    exact ⟨fun hhead => hready hidle (hwork.trans (if_pos hhead)),
      fun hhead => hquiet (.inr (hwork.trans (if_neg (Bool.eq_false_iff.1 hhead))))⟩
  · rw [← Bool.not_eq_true, headApplicable_iff]
    rintro ⟨x, behind', hq, hx⟩
    obtain ⟨rfl, rfl⟩ := List.cons.inj (hopen.queue.symm.trans hq)
    rcases hx with hx | ⟨-, y, hy, hclosing⟩
    · cases hopen.marker.symm.trans hx
    · rcases hopen.behind y hy with h | h <;> cases hclosing.symm.trans h

end Sys2Proof.Machine

/-!
PROOFS. The intake unit's takings (O42).
-/

namespace Sys2Proof.Machine

/-! ### The records of the intake unit under its items (R56, R57) -/

/-- The state with the intake unit replaced. -/
def withIntake (s : State) (i : Intake) : State := { s with intake := i }

theorem withSaid_withIntake (s : State) (i : Intake) (xs : List Said) : withSaid (withIntake s i) xs = withIntake (withSaid s xs) i := by
  have h : withSaid (withIntake s i) xs = voiced (withSaid s xs) (withIntake s i) :=
    withSaid_voiced (s := s) (u := withIntake s i) rfl rfl xs
  rw [h, withSaid_self s xs]
  rfl

theorem Calm.withIntake {s : State} {n : Nat} (h : Calm s n) (i : Intake) : Calm (withIntake s i) n :=
  ⟨h.released, h.threads, h.waiters, h.turn, h.strikeWait, h.room⟩

theorem places_le_three (s : State) (n : Notice) (r : Ref) : places s [.post n, .ref r] ≤ 3 := by
  simp only [places, List.map_cons, List.map_nil, Said.places, List.sum_cons, List.sum_nil]
  split <;> omega

/-! ### The end of a taking (R57, R63, R64, R72) -/

/-- STOP's abort with a record still to be taken, or in RUN, does nothing (R72). -/
theorem settled_stopCheck_idle {s : State} {n : Nat} (hcalm : Calm s n) (h : ¬ (s.control.mode ≠ .run ∧ s.intake.handed = [])) :
    settleAll (s.putOps .intake [.stopCheck]) = s := by
  have hrun : runOp false .intake .stopCheck (s.putOps .intake [.stopCheck]) = .done (s.putOps .intake [.stopCheck]) [] := if_neg h
  rw [settled_step (hcalm.alone _) hrun]
  exact settled_calm hcalm _

/-- STOP's abort that finds no open batch ends DISCARDING, and needs no room (R72). -/
theorem settled_stopCheck_unopened {s : State} {n : Nat} {q : List QueuedRecord} {b : BatchState} (hcalm : Calm s n)
    (hm : s.control.mode ≠ .run) (hb : ∀ t, b ≠ .opened t) :
    settleAll ((withIntake s ⟨q, b, [], none⟩).putOps .intake [.stopCheck]) = withIntake s ⟨q, .closed, [], none⟩ := by
  have hrun : runOp false .intake .stopCheck ((withIntake s ⟨q, b, [], none⟩).putOps .intake [.stopCheck]) =
      .done ((withIntake s ⟨q, .closed, [], none⟩).putOps .intake [.stopCheck]) [] := by
    refine (if_pos ⟨hm, rfl⟩).trans ?_
    cases b with
    | opened t => exact absurd rfl (hb t)
    | discarding | closed => rfl
  rw [settled_step ((hcalm.withIntake _).alone _) hrun]
  exact settled_calm (hcalm.withIntake _) _

section
variable {s : State} {n : Nat} {q : List QueuedRecord} {b : BatchState} {rest : List HandedRecord} {tk : Option HandedRecord}
  {r : HandedRecord}

/-- A taking that leaves no open batch of 64 records ends with STOP's check (R57, R64). -/
theorem settled_takeFinish (hcalm : Calm s n) (h : ∀ t, b = .opened t → q.length + rest.length ≠ 64) :
    settleAll ((withIntake s ⟨q, b, rest, tk⟩).putOps .intake [.takeFinish r]) =
      settleAll ((withIntake s ⟨q, b, rest, none⟩).putOps .intake [.stopCheck]) := by
  refine settled_step (push := [.stopCheck]) ((hcalm.withIntake _).alone _) ?_
  cases b with
  | closed | discarding => rfl
  | opened t => exact if_neg (h t rfl)

/-- A taking that leaves an open batch with 64 records held aborts it (R64). -/
theorem settled_takeFinish_full {t : BitVec 16} {before behind : List QueuedRecord} {marker : QueuedRecord} (hcalm : Calm s (n + 3))
    (hq : OpenBatchIn q before marker behind) (h : q.length + rest.length = 64) :
    settleAll ((withIntake s ⟨q, .opened t, rest, tk⟩).putOps .intake [.takeFinish r]) =
      settleAll ((withIntake (withSaid s
        [.post (.batchFault .overflow (recKindCode r.record) t 0 r.offset (1 + (membersOf behind).length)), .ref .status])
          ⟨before ++ looseOf behind, .discarding t, rest, none⟩).putOps .intake [.stopCheck]) := by
  generalize hxs : [Said.post (.batchFault .overflow (recKindCode r.record) t 0 r.offset (1 + (membersOf behind).length)),
    Said.ref .status] = xs
  have hremoved := removeOpen_openBatch hq
  have hrun : runOp false .intake (.takeFinish r) ((withIntake s ⟨q, .opened t, rest, tk⟩).putOps .intake [.takeFinish r]) =
      .done ((withIntake s ⟨before ++ looseOf behind, .discarding t, rest, none⟩).putOps .intake [.takeFinish r])
        (xs.map Said.op ++ [.stopCheck]) := by
    refine (if_pos h).trans ?_
    simp only [abortBatch, abortCount, withIntake, State.putOps_intake, hremoved, List.reverse_reverse, ← hxs]
    rfl
  have hplaces : places s xs ≤ 3 := hxs ▸ places_le_three s _ _
  have hcalm' := (hcalm.withIntake ⟨before ++ looseOf behind, .discarding t, rest, none⟩).fewer (Nat.add_le_add_left hplaces n)
  rw [settled_step ((hcalm.withIntake _).alone _) hrun, List.append_nil, settled_said _ _ _ hcalm', withSaid_withIntake]

end

/-! ### INTAKE_RECORD_TAKING (R57 to R64) -/

/-- A record has been placed, `q` and `b` are the queue and the batch state then, and `items` what that queues and posts: what is left of
the taking is its end, with the record in taking or not. -/
def TakingEnds (s : State) (r : HandedRecord) (rest : List HandedRecord) (q : List QueuedRecord) (b : BatchState)
    (items : List Said) : Prop :=
  places s items ≤ 3 ∧ ∃ tk, exec .intakeRecordTaking s =
    .next (settleAll ((withIntake (withSaid s items) ⟨q, b, rest, tk⟩).putOps .intake [.takeFinish r]))

section
variable {s : State} {r : HandedRecord} {rest : List HandedRecord} {q : List QueuedRecord} {b : BatchState} {items : List Said}

theorem taken_said (s : State) (rest : List HandedRecord) (q : List QueuedRecord) (b : BatchState) (items : List Said) :
    withSaid (taken s rest q b) items = withIntake (withSaid s items) ⟨q, b, rest, none⟩ :=
  withSaid_withIntake s ⟨q, b, rest, none⟩ items

theorem TakingEnds.calm (h : TakingEnds s r rest q b items) (hcalm : Calm s 6) : Calm (withSaid s items) 3 :=
  (hcalm.fewer (Nat.add_le_add_left h.1 3)).withSaid items

/-- The last taking outside RUN: no record awaits its taking (R72). -/
theorem not_last (h : ¬ (s.control.mode ≠ .run ∧ rest = [])) (xs : List Said) (q : List QueuedRecord) (b : BatchState) :
    ¬ ((withIntake (withSaid s xs) ⟨q, b, rest, none⟩).control.mode ≠ .run ∧
      (withIntake (withSaid s xs) ⟨q, b, rest, none⟩).intake.handed = []) := by
  rwa [show (withIntake (withSaid s xs) ⟨q, b, rest, none⟩).control = s.control from withSaid_control xs s]

theorem last_mode (h : s.control.mode ≠ .run) (xs : List Said) (i : Intake) : (withIntake (withSaid s xs) i).control.mode ≠ .run := by
  rwa [show (withIntake (withSaid s xs) i).control = s.control from withSaid_control xs s]

/-- The end of a taking that leaves no open batch of 64 records, while records await their taking or in RUN. -/
theorem TakingEnds.goesOn (h : TakingEnds s r rest q b items) (hcalm : Calm s 6)
    (hfull : ∀ t, b = .opened t → q.length + rest.length ≠ 64) (hlast : ¬ (s.control.mode ≠ .run ∧ rest = [])) :
    exec .intakeRecordTaking s = .next (withSaid (taken s rest q b) items) := by
  have hsaid := h.calm hcalm
  obtain ⟨-, tk, hexec⟩ := h
  rw [hexec, settled_takeFinish hsaid hfull, settled_stopCheck_idle (hsaid.withIntake _) (not_last hlast items q b), taken_said]

/-- The last taking outside RUN that leaves no open batch: DISCARDING ends (R72). -/
theorem TakingEnds.lastClosed (h : TakingEnds s r rest q b items) (hcalm : Calm s 6) (hb : ∀ t, b ≠ .opened t)
    (hmode : s.control.mode ≠ .run) (hrest : rest = []) :
    exec .intakeRecordTaking s = .next (withSaid (taken s rest q .closed) items) := by
  have hsaid := h.calm hcalm
  obtain ⟨-, tk, hexec⟩ := h
  subst hrest
  rw [hexec, settled_takeFinish hsaid fun t ht => absurd ht (hb t),
    settled_stopCheck_unopened hsaid (by rwa [withSaid_control]) hb, taken_said]

/-- The last taking outside RUN with an open batch: it is aborted with STOPPED (R72). -/
theorem TakingEnds.lastOpen {t : BitVec 16} {before behind : List QueuedRecord} {marker : QueuedRecord}
    (h : TakingEnds s r rest q (.opened t) items) (hcalm : Calm s 6) (hq : OpenBatchIn q before marker behind)
    (hfull : q.length + rest.length ≠ 64) (hmode : s.control.mode ≠ .run) (hrest : rest = []) :
    exec .intakeRecordTaking s = .next (withSaid (taken s rest (before ++ looseOf behind) .closed)
      (items ++ [.post (.batchFault .stopped 6 t 0 marker.offset (1 + (membersOf behind).length)), .ref .status])) := by
  have hsaid := h.calm hcalm
  obtain ⟨-, tk, hexec⟩ := h
  subst hrest
  rw [hexec, settled_takeFinish hsaid fun _ _ => hfull,
    settled_stopCheck_open (n := 0) (s := withIntake (withSaid s items) ⟨q, .opened t, [], none⟩) (last_mode hmode items _) rfl
      (hsaid.withIntake _) rfl hq, taken_said, withSaid_append]
  exact congrArg Host.Outcome.next (withSaid_withIntake (withSaid s items) ⟨before ++ looseOf behind, .closed, [], none⟩ _)

/-- An overflow: the open batch is aborted, and DISCARDING ends with the last taking outside RUN (R64, R72). -/
theorem TakingEnds.overflows {t : BitVec 16} {before behind : List QueuedRecord} {marker : QueuedRecord}
    (h : TakingEnds s r rest q (.opened t) items) (hcalm : Calm s 6) (hq : OpenBatchIn q before marker behind)
    (hfull : q.length + rest.length = 64) {full : List Said} (hxs : full = items ++
      [.post (.batchFault .overflow (recKindCode r.record) t 0 r.offset (1 + (membersOf behind).length)), .ref .status]) :
    (¬ (s.control.mode ≠ .run ∧ rest = []) →
      exec .intakeRecordTaking s = .next (withSaid (taken s rest (before ++ looseOf behind) (.discarding t)) full)) ∧
    (s.control.mode ≠ .run ∧ rest = [] →
      exec .intakeRecordTaking s = .next (withSaid (taken s rest (before ++ looseOf behind) .closed) full)) := by
  have hsaid := h.calm hcalm
  obtain ⟨-, tk, hexec⟩ := h
  have hfullCalm : Calm (withSaid s full) 0 := by
    rw [hxs, withSaid_append]
    refine Calm.withSaid _ (hsaid.fewer ?_)
    rw [Nat.zero_add]
    exact places_le_three _ _ _
  rw [hexec, settled_takeFinish_full (n := 0) hsaid hq hfull, ← withSaid_append, ← hxs]
  refine ⟨fun hlast => ?_, fun ⟨hmode, hrest⟩ => ?_⟩
  · rw [settled_stopCheck_idle (hfullCalm.withIntake _) (not_last hlast full _ _), taken_said]
  · subst hrest
    rw [settled_stopCheck_unopened hfullCalm (by rwa [withSaid_control]) (fun _ h => BatchState.noConfusion h), taken_said]
end

/-! ### The placing of a record (R57 to R62) -/

section
variable {s : State} {r : HandedRecord} {rest : List HandedRecord}

/-- The record at hand is placed while it is in taking; its items and the end of its taking follow. -/
theorem exec_intakeRecordTaking {n : Nat} (hcalm : Calm s n) (hhanded : s.intake.handed = r :: rest) (htaking : s.intake.taking = none)
    (hrestart : restarting s = false) {u : State} {ops : List Op}
    (hplace : placeRecord (withIntake s ⟨s.intake.queue, s.intake.batch, rest, some r⟩) r = (u, ops)) :
    exec .intakeRecordTaking s = .next (launch u .intake (ops ++ [.takeFinish r])) := by
  have hfree : ¬ (s.threads.intake ≠ [] ∨ s.intake.taking.isSome = true ∨ restarting s = true) := by
    simp [hcalm.threads, Threads.none, htaking, hrestart]
  have htake : takeRecord s = launch (placeRecord (withIntake s ⟨s.intake.queue, s.intake.batch, rest, some r⟩) r).1 .intake
      ((placeRecord (withIntake s ⟨s.intake.queue, s.intake.batch, rest, some r⟩) r).2 ++ [.takeFinish r]) := by
    unfold takeRecord
    rw [hhanded]
    exact if_neg hfree
  rw [show exec .intakeRecordTaking s = .next (takeRecord s) from live_released hcalm.released takeRecord, htake, hplace]

/-- A record that is placed or dropped at once. -/
theorem takingEnds_of_place (hcalm : Calm s 6) (hhanded : s.intake.handed = r :: rest) (htaking : s.intake.taking = none)
    (hrestart : restarting s = false) {q : List QueuedRecord} {b : BatchState} {tk : Option HandedRecord} {items : List Said}
    (hitems : places s items ≤ 3) (hplace : placeRecord (withIntake s ⟨s.intake.queue, s.intake.batch, rest, some r⟩) r =
      (withIntake s ⟨q, b, rest, tk⟩, items.map Said.op)) : TakingEnds s r rest q b items := by
  have hcalm' : Calm (withIntake s ⟨q, b, rest, tk⟩) (3 + places s items) := (hcalm.fewer (by omega)).withIntake _
  refine ⟨hitems, tk, ?_⟩
  rw [exec_intakeRecordTaking hcalm hhanded htaking hrestart hplace, launch_calm hcalm', settled_said .intake items _ hcalm',
    withSaid_withIntake]

/-- A BATCH_OPEN that meets an open batch: the batch leaves the queue, NESTED is posted, and the record opens its own (R61, R63). -/
theorem takingEnds_nested (hcalm : Calm s 6) (hhanded : s.intake.handed = r :: rest) (htaking : s.intake.taking = none)
    (hrestart : restarting s = false) {t : BitVec 16} {before behind : List QueuedRecord} {marker : QueuedRecord}
    (hb : s.intake.batch = .opened t) (hq : OpenBatchIn s.intake.queue before marker behind)
    (hplace : ∀ u, placeRecord u r = placeOpen u r) :
    TakingEnds s r rest (before ++ looseOf behind ++ [⟨r.record, r.offset, .opening⟩]) (.opened (recTag r.record))
      [.post (.batchFault .nested (recKindCode r.record) t (recTag r.record) r.offset (1 + (membersOf behind).length)),
        .ref .status] := by
  generalize hx : Said.post (.batchFault .nested (recKindCode r.record) t (recTag r.record) r.offset (1 + (membersOf behind).length)) = x
  have hremoved := removeOpen_openBatch hq
  have habort : placeRecord (withIntake s ⟨s.intake.queue, s.intake.batch, rest, some r⟩) r =
      (withIntake s ⟨before ++ looseOf behind, .closed, rest, some r⟩, [x.op, .openBatch]) := by
    rw [hplace, placeOpen, ← hx]
    simp only [withIntake, hb, abortBatch, abortCount, hremoved, List.reverse_reverse]
    rfl
  have hitems : places s [x, .ref .status] ≤ 3 := hx ▸ places_le_three s _ _
  have hplaces : places s [x, .ref .status] = places s [x] + 1 := places_append s [x] [.ref .status]
  have hcalm1 : Calm (withIntake s ⟨before ++ looseOf behind, .closed, rest, some r⟩) (4 + places s [x]) :=
    (hcalm.fewer (by omega)).withIntake _
  have hsaid : Calm (withSaid s [x]) 4 := Calm.withSaid [x] (hcalm.fewer (m := 4 + places s [x]) (by omega))
  have hopen : settleAll ((withIntake (withSaid s [x]) ⟨before ++ looseOf behind, .closed, rest, some r⟩).putOps .intake
      [.openBatch, .takeFinish r]) = settleAll ((withIntake (withSaid s [x])
        ⟨before ++ looseOf behind ++ [⟨r.record, r.offset, .opening⟩], .opened (recTag r.record), rest, none⟩).putOps .intake
          ([Said.ref .status].map Said.op ++ [.takeFinish r])) :=
    settled_step (push := [.ref .status]) ((hsaid.withIntake _).alone _) rfl
  refine ⟨hitems, none, ?_⟩
  rw [exec_intakeRecordTaking hcalm hhanded htaking hrestart habort, launch_calm hcalm1]
  rw [show [x.op, Op.openBatch] ++ [.takeFinish r] = [x].map Said.op ++ [.openBatch, .takeFinish r] from rfl,
    settled_said .intake [x] _ hcalm1, withSaid_withIntake, hopen,
    settled_said (n := 3) .intake [.ref .status] _ (hsaid.withIntake _), withSaid_withIntake, ← withSaid_append]
  rfl

end

/-! ### The form check (R59, R187, R193) -/

/-- A field read as bits is the field read as a number. -/
theorem toNat_fieldBits (l : Line) (off bytes : Nat) : (fieldBits l off (8 * bytes)).toNat = fieldNat l off bytes := rfl

theorem fieldBits_eq_iff (l : Line) (off off' bytes : Nat) :
    fieldBits l off (8 * bytes) = fieldBits l off' (8 * bytes) ↔ fieldNat l off bytes = fieldNat l off' bytes := by
  rw [← BitVec.toNat_inj, toNat_fieldBits, toNat_fieldBits]

theorem fieldBits_eq_zero_iff (l : Line) (off bytes : Nat) : fieldBits l off (8 * bytes) = 0 ↔ fieldNat l off bytes = 0 := by
  rw [← BitVec.toNat_inj, toNat_fieldBits]
  rfl

theorem recId_eq_zero_iff (l : Line) : recId l = 0 ↔ fieldNat l 4 4 = 0 := fieldBits_eq_zero_iff l 4 4

theorem recTag_eq_zero_iff (l : Line) : recTag l = 0 ↔ fieldNat l 2 2 = 0 := fieldBits_eq_zero_iff l 2 2

theorem portFarId_eq_zero_iff (l : Line) : portFarId l = 0 ↔ fieldNat l 12 4 = 0 := fieldBits_eq_zero_iff l 12 4

theorem portFarId_eq_recId_iff (l : Line) : portFarId l = recId l ↔ fieldNat l 12 4 = fieldNat l 4 4 := fieldBits_eq_iff l 12 4 4

/-- The form check of each kind, by the kind's code (R59). -/
theorem formOk_iff (l : Line) : formOk l = true ↔
    (recKindCode l = 1 ∧ recId l ≠ 0 ∧ recByte8 l < Config.domains) ∨
    (recKindCode l = 2 ∧ recId l ≠ 0 ∧ portFarId l ≠ 0 ∧ portFarId l ≠ recId l ∧ (portOperState l = 1 ∨ portOperState l = 2) ∧
      portSrlgCount l ≤ Config.maxSrlgs) ∨
    ((recKindCode l = 3 ∨ recKindCode l = 4) ∧ recId l ≠ 0) ∨ (recKindCode l = 5 ∧ recByte8 l < Config.domains) ∨
    ((recKindCode l = 6 ∨ recKindCode l = 7) ∧ recTag l ≠ 0) := by
  unfold formOk recKind
  generalize recKindCode l = kind
  match kind with
  | 0 | 1 | 2 | 3 | 4 | 5 | 6 | 7 | n + 8 => simp [and_assoc, -Config.domains, -Config.maxSrlgs]

/-- A record of kinds 1 to 5 that has passed its form check is placed as a report. -/
theorem placeRecord_report {r : HandedRecord} (hform : formOk r.record = true) (hlow : 1 ≤ recKindCode r.record)
    (hhigh : recKindCode r.record ≤ 5) (s : State) : placeRecord s r = placeReport s r := by
  have hkind : recKind r.record ≠ some .batchOpen ∧ recKind r.record ≠ some .batchClose := by
    unfold recKind
    generalize recKindCode r.record = kind at hlow hhigh
    interval_cases kind <;> exact ⟨nofun, nofun⟩
  have hzero : recKindCode r.record ≠ 0 := by omega
  unfold placeRecord
  rw [if_neg hzero, hform, Bool.not_true, if_neg Bool.false_ne_true]
  split
  · next hk => exact absurd hk hkind.1
  · next hk => exact absurd hk hkind.2
  · rfl

theorem placeRecord_open {r : HandedRecord} (hform : formOk r.record = true) (hcode : recKindCode r.record = 6) (s : State) :
    placeRecord s r = placeOpen s r := by
  have hkind : recKind r.record = some .batchOpen := by simp [recKind, hcode]
  simp [placeRecord, hcode, hform, hkind]

theorem placeRecord_close {r : HandedRecord} (hform : formOk r.record = true) (hcode : recKindCode r.record = 7) (s : State) :
    placeRecord s r = placeClose s r := by
  have hkind : recKind r.record = some .batchClose := by simp [recKind, hcode]
  simp [placeRecord, hcode, hform, hkind]

/-- A taking whose record has been placed ends as the statement has it. -/
theorem TakingEnds.gives {s : State} {r : HandedRecord} {rest : List HandedRecord} {q : List QueuedRecord} {b : BatchState}
    {items : List Said} (hcalm : Calm s 6) (h : TakingEnds s r rest q b items) :
    let last := s.control.mode ≠ .run ∧ rest = []
    ((∀ t, b ≠ .opened t) →
      (¬ last → exec .intakeRecordTaking s = .next (withSaid (taken s rest q b) items)) ∧
      (last → exec .intakeRecordTaking s = .next (withSaid (taken s rest q .closed) items))) ∧
    (∀ t, b = .opened t →
      (q.length + rest.length ≠ 64 → ¬ last → exec .intakeRecordTaking s = .next (withSaid (taken s rest q b) items)) ∧
      (∀ before marker behind, OpenBatchIn q before marker behind →
        let left := before ++ looseOf behind
        let gone := 1 + (membersOf behind).length
        (q.length + rest.length = 64 →
          let full := items ++ [.post (.batchFault .overflow (recKindCode r.record) t 0 r.offset gone), .ref .status]
          (¬ last → exec .intakeRecordTaking s = .next (withSaid (taken s rest left (.discarding t)) full)) ∧
          (last → exec .intakeRecordTaking s = .next (withSaid (taken s rest left .closed) full))) ∧
        (q.length + rest.length ≠ 64 → last → exec .intakeRecordTaking s = .next (withSaid (taken s rest left .closed)
          (items ++ [.post (.batchFault .stopped 6 t 0 marker.offset gone), .ref .status]))))) := by
  refine ⟨fun hb => ⟨h.goesOn hcalm fun t ht => absurd ht (hb t), fun hlast => h.lastClosed hcalm hb hlast.1 hlast.2⟩, ?_⟩
  rintro t rfl
  exact ⟨fun hfull => h.goesOn hcalm fun _ _ => hfull, fun before marker behind hopen =>
    ⟨fun hfull => h.overflows hcalm hopen hfull rfl, fun hfull hlast => h.lastOpen hcalm hopen hfull hlast.1 hlast.2⟩⟩

/-- The form check, with the places of the fields it reads (R59, R187, R193). -/
theorem formOk_fields (r : Line) (hkind : fieldNat r 0 1 ≠ 0) : formOk r = true ↔ fieldNat r 0 1 ≤ 7 ∧
    (fieldNat r 0 1 = 1 → fieldNat r 4 4 ≠ 0 ∧ fieldNat r 8 1 ≤ 15) ∧
    (fieldNat r 0 1 = 2 → fieldNat r 4 4 ≠ 0 ∧ fieldNat r 12 4 ≠ 0 ∧ fieldNat r 12 4 ≠ fieldNat r 4 4 ∧
      (fieldNat r 10 1 = 1 ∨ fieldNat r 10 1 = 2) ∧ fieldNat r 11 1 ≤ 6) ∧
    (fieldNat r 0 1 = 3 ∨ fieldNat r 0 1 = 4 → fieldNat r 4 4 ≠ 0) ∧ (fieldNat r 0 1 = 5 → fieldNat r 8 1 ≤ 15) ∧
    (fieldNat r 0 1 = 6 ∨ fieldNat r 0 1 = 7 → fieldNat r 2 2 ≠ 0) := by
  rw [formOk_iff, ne_eq, ne_eq, ne_eq, ne_eq, recId_eq_zero_iff, recTag_eq_zero_iff, portFarId_eq_zero_iff, portFarId_eq_recId_iff]
  simp only [recKindCode, recByte8, portOperState, portSrlgCount, Config.domains, Config.maxSrlgs, ne_eq]
  generalize fieldNat r 0 1 = kind at hkind
  match kind with
  | 0 => exact absurd rfl hkind
  | 1 | 2 | 3 | 4 | 5 | 6 | 7 | k + 8 => simp [Nat.lt_succ_iff]

section
variable {s : State} {r : HandedRecord} {rest : List HandedRecord} (hcalm : Calm s 6) (hhanded : s.intake.handed = r :: rest)
  (htaking : s.intake.taking = none) (hrestart : restarting s = false)
include hcalm hhanded htaking hrestart

/-- A record that is dropped with one notice, or silently. -/
theorem takingEnds_dropped {items : List Said} (hitems : items = [] ∨ ∃ n, items = [.post n])
    (hplace : ∀ q, placeRecord (withIntake s ⟨q, s.intake.batch, rest, some r⟩) r =
      (withIntake s ⟨q, s.intake.batch, rest, some r⟩, items.map Said.op)) :
    TakingEnds s r rest s.intake.queue s.intake.batch items := by
  refine takingEnds_of_place hcalm hhanded htaking hrestart ?_ (hplace _)
  rcases hitems with rfl | ⟨n, rfl⟩
  · exact Nat.zero_le _
  · exact (Nat.le_add_right _ 1).trans ((places_append s [.post n] [.ref .status]).symm.le.trans (places_le_three s n _))

/-- A record queued with at most a status line reference. -/
theorem takingEnds_queued {role : Role} {b : BatchState} {items : List Said} (hitems : items = [] ∨ items = [.ref .status])
    (hplace : ∀ q, placeRecord (withIntake s ⟨q, s.intake.batch, rest, some r⟩) r =
      (withIntake s ⟨q ++ [⟨r.record, r.offset, role⟩], b, rest, none⟩, items.map Said.op)) :
    TakingEnds s r rest (s.intake.queue ++ [⟨r.record, r.offset, role⟩]) b items := by
  refine takingEnds_of_place hcalm hhanded htaking hrestart ?_ (hplace _)
  rcases hitems with rfl | rfl
  · exact Nat.zero_le _
  · exact Nat.le_add_left 1 2

/-- Kinds 1 to 5 (R60, R62). -/
theorem takingEnds_report (hform : formOk r.record = true) (hlow : 1 ≤ recKindCode r.record) (hhigh : recKindCode r.record ≤ 5) :
    let q := s.intake.queue
    let b := s.intake.batch
    let tag := recTag r.record
    let fault := fun openTag => Said.post (.batchFault .closeMismatch (recKindCode r.record) tag openTag r.offset 0)
    (tag = 0 → TakingEnds s r rest (q ++ [⟨r.record, r.offset, .loose⟩]) b []) ∧
    (tag ≠ 0 →
      (b = .opened tag → TakingEnds s r rest (q ++ [⟨r.record, r.offset, .member⟩]) b []) ∧
      (b = .discarding tag → TakingEnds s r rest q b []) ∧
      (∀ t, t ≠ tag → b = .opened t → TakingEnds s r rest q b [fault t]) ∧
      (b = .closed ∨ (∃ t, t ≠ tag ∧ b = .discarding t) → TakingEnds s r rest q b [fault 0])) := by
  intro q b tag fault
  have hplace := placeRecord_report hform hlow hhigh
  refine ⟨fun htag => ?_, fun htag => ⟨fun hb => ?_, fun hb => ?_, fun t ht hb => ?_, fun hb => ?_⟩⟩
  · exact takingEnds_queued hcalm hhanded htaking hrestart (.inl rfl) fun q => (hplace _).trans (if_pos htag)
  · rw [hb]
    refine takingEnds_queued hcalm hhanded htaking hrestart (.inl rfl) fun q => (hplace _).trans ((if_neg htag).trans ?_)
    simp only [withIntake, show s.intake.batch = .opened (recTag r.record) from hb, if_true]
    rfl
  · refine takingEnds_dropped hcalm hhanded htaking hrestart (.inl rfl) fun q => (hplace _).trans ((if_neg htag).trans ?_)
    simp only [withIntake, show s.intake.batch = .discarding (recTag r.record) from hb, if_true]
    rfl
  · refine takingEnds_dropped hcalm hhanded htaking hrestart (.inr ⟨_, rfl⟩) fun q => (hplace _).trans ((if_neg htag).trans ?_)
    simp only [withIntake, show s.intake.batch = .opened t from hb, if_neg (show ¬ recTag r.record = t from Ne.symm ht)]
    rfl
  · refine takingEnds_dropped hcalm hhanded htaking hrestart (.inr ⟨_, rfl⟩) fun q => (hplace _).trans ((if_neg htag).trans ?_)
    rcases hb with hb | ⟨t, ht, hb⟩
    · simp only [withIntake, show s.intake.batch = .closed from hb]
      rfl
    · simp only [withIntake, show s.intake.batch = .discarding t from hb, if_neg (show ¬ recTag r.record = t from Ne.symm ht)]
      rfl

/-- BATCH_OPEN (R60 to R63). -/
theorem takingEnds_batchOpen (hform : formOk r.record = true) (hcode : recKindCode r.record = 6) :
    let q := s.intake.queue
    let b := s.intake.batch
    let tag := recTag r.record
    (b = .discarding tag → TakingEnds s r rest q b []) ∧
    (b = .closed ∨ (∃ t, t ≠ tag ∧ b = .discarding t) →
      TakingEnds s r rest (q ++ [⟨r.record, r.offset, .opening⟩]) (.opened tag) [.ref .status]) ∧
    (∀ t before marker behind, b = .opened t → OpenBatchIn q before marker behind →
      TakingEnds s r rest (before ++ looseOf behind ++ [⟨r.record, r.offset, .opening⟩]) (.opened tag)
        [.post (.batchFault .nested (recKindCode r.record) t tag r.offset (1 + (membersOf behind).length)), .ref .status]) := by
  intro q b tag
  have hplace := placeRecord_open hform hcode
  refine ⟨fun hb => ?_, fun hb => ?_, fun t before marker behind hb hq =>
    takingEnds_nested hcalm hhanded htaking hrestart hb hq hplace⟩
  · refine takingEnds_dropped hcalm hhanded htaking hrestart (.inl rfl) fun q => (hplace _).trans ?_
    simp only [placeOpen, withIntake, show s.intake.batch = .discarding (recTag r.record) from hb, if_true]
    rfl
  · refine takingEnds_queued hcalm hhanded htaking hrestart (.inr rfl) fun q => (hplace _).trans ?_
    rcases hb with hb | ⟨t, ht, hb⟩
    · simp only [placeOpen, withIntake, show s.intake.batch = .closed from hb]
      rfl
    · simp only [placeOpen, withIntake, show s.intake.batch = .discarding t from hb, if_neg (show ¬ recTag r.record = t from Ne.symm ht)]
      rfl

/-- BATCH_CLOSE (R60 to R62). -/
theorem takingEnds_batchClose (hform : formOk r.record = true) (hcode : recKindCode r.record = 7) :
    let q := s.intake.queue
    let b := s.intake.batch
    let tag := recTag r.record
    let fault := fun openTag => Said.post (.batchFault .closeMismatch (recKindCode r.record) tag openTag r.offset 0)
    (b = .opened tag → TakingEnds s r rest (q ++ [⟨r.record, r.offset, .closing⟩]) .closed [.ref .status]) ∧
    (b = .discarding tag → TakingEnds s r rest q .closed []) ∧
    (∀ t, t ≠ tag → b = .opened t → TakingEnds s r rest q b [fault t]) ∧
    (b = .closed ∨ (∃ t, t ≠ tag ∧ b = .discarding t) → TakingEnds s r rest q b [fault 0]) := by
  intro q b tag fault
  have hplace := placeRecord_close hform hcode
  refine ⟨fun hb => ?_, fun hb => ?_, fun t ht hb => ?_, fun hb => ?_⟩
  · refine takingEnds_queued hcalm hhanded htaking hrestart (.inr rfl) fun q => (hplace _).trans ?_
    simp only [placeClose, withIntake, show s.intake.batch = .opened (recTag r.record) from hb, if_true]
    rfl
  · refine takingEnds_of_place hcalm hhanded htaking hrestart (tk := some r) (Nat.zero_le _) ((hplace _).trans ?_)
    simp only [placeClose, withIntake, show s.intake.batch = .discarding (recTag r.record) from hb, if_true]
    rfl
  · refine takingEnds_dropped hcalm hhanded htaking hrestart (.inr ⟨_, rfl⟩) fun q => (hplace _).trans ?_
    simp only [placeClose, withIntake, show s.intake.batch = .opened t from hb, if_neg (show ¬ recTag r.record = t from Ne.symm ht)]
    rfl
  · refine takingEnds_dropped hcalm hhanded htaking hrestart (.inr ⟨_, rfl⟩) fun q => (hplace _).trans ?_
    rcases hb with hb | ⟨t, ht, hb⟩
    · simp only [placeClose, withIntake, show s.intake.batch = .closed from hb]
      rfl
    · simp only [placeClose, withIntake, show s.intake.batch = .discarding t from hb, if_neg (show ¬ recTag r.record = t from Ne.symm ht)]
      rfl

end

/-- Settles O42: each placing leaves the end of the taking, which is the same for every record. -/
theorem intakeRecordTaken : Obligations.IntakeRecordTaken := by
  refine ⟨?_, fun r => ⟨rfl, rfl, formOk_fields r⟩⟩
  rintro s r rest _ _ _ hcalm hhanded htaking hrestart - rfl rfl rfl
  intro q queued last fault gives
  have hgives : ∀ {q' b' items}, TakingEnds s r rest q' b' items → gives q' b' items := fun h => h.gives hcalm
  refine ⟨fun hcode => hgives ?_, fun hcode hform => hgives ?_, fun hform hlow hhigh => ?_, fun hform hcode => ?_,
    fun hform hcode => ?_⟩
  · exact takingEnds_dropped hcalm hhanded htaking hrestart (.inl rfl) fun q => if_pos hcode
  · exact takingEnds_dropped hcalm hhanded htaking hrestart (.inr ⟨_, rfl⟩) fun q =>
      (if_neg hcode).trans (if_pos (by rw [hform, Bool.not_false]))
  · obtain ⟨hloose, htagged⟩ := takingEnds_report hcalm hhanded htaking hrestart hform hlow hhigh
    refine ⟨fun htag => hgives (hloose htag), fun htag => ?_⟩
    obtain ⟨hmember, hdiscarded, hother, hclosed⟩ := htagged htag
    exact ⟨fun hb => hgives (hmember hb), fun hb => hgives (hdiscarded hb), fun t ht hb => hgives (hother t ht hb),
      fun hb => hgives (hclosed hb)⟩
  · obtain ⟨hdiscarded, hopens, hnested⟩ := takingEnds_batchOpen hcalm hhanded htaking hrestart hform hcode
    exact ⟨fun hb => hgives (hdiscarded hb), fun hb => hgives (hopens hb),
      fun t before marker behind hb hq => hgives (hnested t before marker behind hb hq)⟩
  · obtain ⟨hcloses, hdiscarded, hother, hclosed⟩ := takingEnds_batchClose hcalm hhanded htaking hrestart hform hcode
    exact ⟨fun hb => hgives (hcloses hb), fun hb => hgives (hdiscarded hb), fun t ht hb => hgives (hother t ht hb),
      fun hb => hgives (hclosed hb)⟩

end Sys2Proof.Machine

/-!
PROOFS. The topology unit's steps read and change the database and the strike queue alone: they act in the same way whatever else is in
the part (R65, R104).
-/

namespace Sys2Proof.Machine

/-! ### The database in another state -/

/-- The state `u` with the database and the strike queue of `s`. -/
def hosted (u s : State) : State :=
  { u with
    topology := s.topology, arbiter := s.arbiter, profiles := s.profiles, paths := { u.paths with strikes := s.paths.strikes } }

/-- An answer with its state changed. -/
def OpResult.onState (f : State → State) : OpResult → OpResult
  | .done s push => .done (f s) push
  | .wait s => .wait (f s)

@[simp] theorem OpResult.onState_done (f : State → State) (s : State) (push : List Op) :
    OpResult.onState f (.done s push) = .done (f s) push := rfl

section
variable (u s : State)

/-! What the topology unit's steps read. -/

@[simp] theorem hosted_topology : (hosted u s).topology = s.topology := rfl
@[simp] theorem hosted_arbiter : (hosted u s).arbiter = s.arbiter := rfl
@[simp] theorem hosted_profiles : (hosted u s).profiles = s.profiles := rfl
@[simp] theorem hosted_strikes : (hosted u s).paths.strikes = s.paths.strikes := rfl
@[simp] theorem topoNow_hosted : topoNow (hosted u s) = topoNow s := rfl
@[simp] theorem domainProfile_hosted (d : Nat) : domainProfile (hosted u s) d = domainProfile s d := rfl
@[simp] theorem portProfile_hosted (e : PortEntry) : portProfile (hosted u s) e = portProfile s e := rfl
@[simp] theorem portNetId_hosted (e : PortEntry) : portNetId (hosted u s) e = portNetId s e := rfl
@[simp] theorem claims_hosted (q p : PortEntry) : claims (hosted u s) q p = claims s q p := rfl
@[simp] theorem findNode_hosted (id : Id32) : findNode (hosted u s) id = findNode s id := rfl
@[simp] theorem findPort_hosted (i n : Nat) : findPort (hosted u s) i n = findPort s i n := rfl
@[simp] theorem targetOf_hosted (e : PortEntry) : targetOf (hosted u s) e = targetOf s e := rfl
@[simp] theorem deriveAttrs_hosted (p q : PortEntry) : deriveAttrs (hosted u s) p q = deriveAttrs s p q := rfl
@[simp] theorem linkPorts_hosted (l : LinkEntry) : linkPorts (hosted u s) l = linkPorts s l := rfl
@[simp] theorem linkPartner_hosted (j k : Nat) : linkPartner (hosted u s) j k = linkPartner s j k := rfl
@[simp] theorem newLink_hosted (j i : Nat) (p q : PortEntry) : newLink (hosted u s) j p i q = newLink s j p i q := rfl
@[simp] theorem newNode_hosted (l : Line) : newNode (hosted u s) l = newNode s l := rfl
@[simp] theorem newPort_hosted (i : Nat) (n : NodeEntry) (l : Line) : newPort (hosted u s) i n l = newPort s i n l := rfl
@[simp] theorem nextClaimant_hosted (j i : Nat) (p : PortEntry) : nextClaimant (hosted u s) j p i = nextClaimant s j p i := rfl
@[simp] theorem portItems_hosted (j : Nat) (old : Option Pairing) (oldLink : Option Nat) (why : TopoReason) :
    portItems (hosted u s) j old oldLink why = portItems s j old oldLink why := rfl
@[simp] theorem leavePair_hosted (j : Nat) (e : PortEntry) : leavePair (hosted u s) j e = leavePair s j e := rfl

/-! What they write. -/

@[simp] theorem setNode_hosted (i : Nat) (e : NodeEntry) : setNode (hosted u s) i e = hosted u (setNode s i e) := rfl
@[simp] theorem setPort_hosted (j : Nat) (e : PortEntry) : setPort (hosted u s) j e = hosted u (setPort s j e) := rfl
@[simp] theorem setLink_hosted (k : Nat) (l : LinkEntry) : setLink (hosted u s) k l = hosted u (setLink s k l) := rfl
@[simp] theorem setPairing_hosted (j : Nat) (st : Pairing) (l : Option Nat) :
    setPairing (hosted u s) j st l = hosted u (setPairing s j st l) := rfl
@[simp] theorem setPortCount_hosted (i : Nat) (f : Nat → Nat) :
    setPortCount (hosted u s) i f = hosted u (setPortCount s i f) := rfl
@[simp] theorem pairPorts_hosted (k j i : Nat) (p q : PortEntry) :
    pairPorts (hosted u s) k j p i q = hosted u (pairPorts s k j p i q) := rfl
@[simp] theorem refreshDomain_hosted (d : Nat) : refreshDomain (hosted u s) d = hosted u (refreshDomain s d) := rfl
@[simp] theorem leaveLink_hosted (j : Option Nat) : leaveLink (hosted u s) j = hosted u (leaveLink s j) := by cases j <;> rfl
@[simp] theorem recordFault_hosted (why : RecordReason) (l : Line) (off : Nat) :
    recordFault (hosted u s) why l off = (recordFault s why l off).onState (hosted u) := rfl

/-! Items queued and posted leave the database as it is. -/

theorem withSaid_hosted (xs : List Said) : withSaid (hosted u s) xs = hosted (withSaid u xs) s := by
  have h : withSaid (hosted u s) xs = voiced (withSaid u xs) (hosted u s) :=
    withSaid_voiced (s := u) (u := hosted u s) rfl rfl xs
  rw [h, withSaid_self u xs]
  rfl

theorem hosted_withSaid (xs : List Said) : hosted (withSaid s xs) s = withSaid s xs := by
  rw [← withSaid_hosted s s xs]
  rfl

/-! ### The steps -/

theorem updateLinkAttributes_hosted (k : Nat) : updateLinkAttributes k (hosted u s) = (updateLinkAttributes k s).onState (hosted u) := by
  simp only [updateLinkAttributes, hosted_topology, linkPorts_hosted, deriveAttrs_hosted, topoNow_hosted, setLink_hosted]
  split
  · rfl
  · next l _ =>
    split
    · rfl
    · next p q _ => by_cases h : deriveAttrs s p q = l.attrs <;> simp only [h, if_true, if_false] <;> rfl

theorem updateLinkState_hosted (k : Nat) : updateLinkState k (hosted u s) = (updateLinkState k s).onState (hosted u) := by
  simp only [updateLinkState, hosted_topology, linkPorts_hosted, topoNow_hosted, setLink_hosted]
  split
  · rfl
  · split
    · rfl
    · split
      · rfl
      · split <;> rfl

theorem retireLink_hosted (k : Nat) (why : TopoReason) : retireLink k why (hosted u s) = (retireLink k why s).onState (hosted u) := by
  simp only [retireLink, hosted_topology, leaveLink_hosted, topoNow_hosted, setLink_hosted]
  split <;> rfl

theorem movePort_hosted (j : Nat) (st : Pairing) (oldLink : Option Nat) (why : TopoReason) :
    movePort j st oldLink why (hosted u s) = (movePort j st oldLink why s).onState (hosted u) := by
  simp only [movePort, hosted_topology, setPairing_hosted, portItems_hosted]
  split <;> rfl

theorem repointPort_hosted (j : Nat) (f : PortReported) : repointPort j f (hosted u s) = (repointPort j f s).onState (hosted u) := by
  simp only [repointPort, hosted_topology, portProfile_hosted, topoNow_hosted, setPort_hosted]
  split <;> rfl

theorem evaluatePort_hosted (j : Nat) (old : Option Pairing) (oldLink : Option Nat) :
    evaluatePort j old oldLink (hosted u s) = (evaluatePort j old oldLink s).onState (hosted u) := by
  simp only [evaluatePort, hosted_topology, targetOf_hosted, claims_hosted, setPairing_hosted, portItems_hosted, pairPorts_hosted,
    newLink_hosted]
  split
  · rfl
  · next p _ =>
    split
    · rfl
    · next i q _ =>
      rcases Bool.eq_false_or_eq_true (claims s q p) with hclaims | hclaims
      · simp only [hclaims, Bool.not_true, Bool.false_eq_true, if_false]
        cases pairedTogether p q with
        | true => rfl
        | false => cases s.topology.links.lowestFree Config.linkEntries <;> rfl
      · simp only [hclaims, Bool.not_false, if_true, OpResult.onState_done]

theorem recheckClaimants_hosted (j i : Nat) : recheckClaimants j i (hosted u s) = (recheckClaimants j i s).onState (hosted u) := by
  simp only [recheckClaimants, hosted_topology, nextClaimant_hosted, setPairing_hosted, portItems_hosted]
  split
  · rfl
  · split
    · rfl
    · split <;> rfl

theorem removePort_hosted (j : Nat) (why : TopoReason) : removePort j why (hosted u s) = (removePort j why s).onState (hosted u) := by
  simp only [removePort, hosted_topology, linkPartner_hosted]
  split
  · rfl
  · split <;> rfl

theorem freePort_hosted (j : Nat) (why : TopoReason) (oldLink : Option Nat) (former : Option (Nat × Nat)) :
    freePort j why oldLink former (hosted u s) = (freePort j why oldLink former s).onState (hosted u) := by
  simp only [freePort, hosted_topology, setPortCount_hosted, portNetId_hosted]
  split <;> rfl

theorem orphanClaimants_hosted (id : Id32) (number i : Nat) (why : TopoReason) (former : Option (Nat × Nat)) :
    orphanClaimants id number i why former (hosted u s) = (orphanClaimants id number i why former s).onState (hosted u) := by
  simp only [orphanClaimants, hosted_topology, setPairing_hosted, portItems_hosted]
  split
  · rfl
  · split <;> rfl

theorem removePorts_hosted (n j : Nat) (why : TopoReason) (count : Nat) :
    removePorts n j why count (hosted u s) = (removePorts n j why count s).onState (hosted u) := by
  simp only [removePorts, hosted_topology]
  split <;> rfl

theorem freeNode_hosted (n : Nat) (why : TopoReason) (count : Nat) :
    freeNode n why count (hosted u s) = (freeNode n why count s).onState (hosted u) := by
  simp only [freeNode, hosted_topology]
  split <;> rfl

theorem reconvertPorts_hosted (n j : Nat) : reconvertPorts n j (hosted u s) = (reconvertPorts n j s).onState (hosted u) := by
  simp only [reconvertPorts, hosted_topology, portProfile_hosted, setPort_hosted]
  split <;> rfl

theorem sendEvent_hosted (e : Strike) : sendEvent e (hosted u s) = (sendEvent e s).onState (hosted u) := by
  by_cases h : s.paths.strikes.length < Config.strikeEvents <;> simp only [sendEvent, hosted_strikes, h, if_true, if_false] <;> rfl

theorem updateNode_hosted (i : Nat) (e : NodeEntry) (l : Line) :
    updateNode (hosted u s) i e l = (updateNode s i e l).onState (hosted u) := by
  simp only [updateNode, domainProfile_hosted, topoNow_hosted, setNode_hosted]
  split <;> rfl

theorem applyNodeReport_hosted (l : Line) (off : Nat) :
    applyNodeReport l off (hosted u s) = (applyNodeReport l off s).onState (hosted u) := by
  simp only [applyNodeReport, hosted_topology, hosted_profiles, findNode_hosted, updateNode_hosted, newNode_hosted, setNode_hosted,
    recordFault_hosted]
  split
  · rfl
  · split
    · rfl
    · split <;> rfl

theorem updatePort_hosted (j : Nat) (e : PortEntry) (f : PortReported) :
    updatePort (hosted u s) j e f = (updatePort s j e f).onState (hosted u) := by
  simp only [updatePort, portProfile_hosted, topoNow_hosted, setPort_hosted, leavePair_hosted]
  split
  · rfl
  · split <;> rfl

theorem applyPortReport_hosted (l : Line) (off : Nat) :
    applyPortReport l off (hosted u s) = (applyPortReport l off s).onState (hosted u) := by
  simp only [applyPortReport, hosted_topology, findNode_hosted, findPort_hosted, updatePort_hosted, newPort_hosted, setPort_hosted,
    setPortCount_hosted, recordFault_hosted]
  split
  · rfl
  · split
    · rfl
    · split <;> rfl

theorem applyPortWithdraw_hosted (l : Line) : applyPortWithdraw l (hosted u s) = (applyPortWithdraw l s).onState (hosted u) := by
  simp only [applyPortWithdraw, findNode_hosted, findPort_hosted]
  split
  · rfl
  · split <;> rfl

theorem applyNodeWithdraw_hosted (l : Line) : applyNodeWithdraw l (hosted u s) = (applyNodeWithdraw l s).onState (hosted u) := by
  simp only [applyNodeWithdraw, findNode_hosted]
  split <;> rfl

theorem applyRecord_hosted (l : Line) (off : Nat) : applyRecord l off (hosted u s) = (applyRecord l off s).onState (hosted u) := by
  unfold applyRecord
  split
  · exact applyNodeReport_hosted u s l off
  · exact applyPortReport_hosted u s l off
  · exact applyPortWithdraw_hosted u s l
  · exact applyNodeWithdraw_hosted u s l
  all_goals rfl

/-- A step of the topology unit on the database, as it follows from the application of a record. -/
def Op.onDatabase : Op → Bool
  | .applyRecord _ _ | .reconvertPorts _ _ | .linkAttributes _ | .linkState _ | .retireLink _ _ | .portMove _ _ _ _ | .repoint _ _
  | .evaluate _ _ _ | .claimants _ _ | .removePort _ _ | .freePort _ _ _ _ | .orphans _ _ _ _ _ | .removePorts _ _ _ _
  | .freeNode _ _ _ | .event _ => true
  | _ => false

/-- A step on the database does the same to it whatever else is in the part. -/
theorem runOp_hosted {op : Op} (hop : op.onDatabase = true) (given : Bool) (t : Thread) :
    runOp given t op (hosted u s) = (runOp given t op s).onState (hosted u) := by
  cases op with
  | applyRecord l off => exact applyRecord_hosted u s l off
  | reconvertPorts n j => exact reconvertPorts_hosted u s n j
  | linkAttributes k => exact updateLinkAttributes_hosted u s k
  | linkState k => exact updateLinkState_hosted u s k
  | retireLink k why => exact retireLink_hosted u s k why
  | portMove j st oldLink why => exact movePort_hosted u s j st oldLink why
  | repoint j f => exact repointPort_hosted u s j f
  | evaluate j old oldLink => exact evaluatePort_hosted u s j old oldLink
  | claimants j i => exact recheckClaimants_hosted u s j i
  | removePort j why => exact removePort_hosted u s j why
  | freePort j why oldLink former => exact freePort_hosted u s j why oldLink former
  | orphans id number i why former => exact orphanClaimants_hosted u s id number i why former
  | removePorts n j why count => exact removePorts_hosted u s n j why count
  | freeNode n why count => exact freeNode_hosted u s n why count
  | event e => exact sendEvent_hosted u s e
  | _ => cases hop

end

/-- A step on the database, in a thread with other steps to come. -/
theorem runOp_putOps {op : Op} (hop : op.onDatabase = true) {given : Bool} {t : Thread} {s s' : State} {push : List Op}
    (hrun : runOp given t op s = .done s' push) (ops : List Op) :
    runOp given t op (s.putOps t ops) = .done (s'.putOps t ops) push := by
  have hself : hosted s s' = s' := by
    have h : runOp given t op s = (runOp given t op s).onState (hosted s) := runOp_hosted s s hop given t
    rw [hrun] at h
    exact (OpResult.done.inj h).1.symm
  have h : runOp given t op (s.putOps t ops) = (runOp given t op s).onState (hosted (s.putOps t ops)) :=
    runOp_hosted (s.putOps t ops) s hop given t
  rw [h, hrun, ← hself]
  rfl

/-- The end of an operation with nothing behind it (R110, R111). -/
theorem settled_topologyIdle {s : State} {n : Nat} (hcalm : Calm s n) (hwaitTopology : s.arbiter.waitTopology = false)
    (hwaitPath : s.arbiter.waitPath = false) : settleAll (s.putOps .topology [.topologyEnd]) = topologyIdle s := by
  rw [settled_topologyEnd (hcalm.alone _) [] hwaitTopology hwaitPath]
  have hidle : Calm (topologyIdle s) n :=
    ⟨hcalm.released, hcalm.threads, hcalm.waiters, hcalm.turn, hcalm.strikeWait, hcalm.room⟩
  exact settled_calm hidle _

theorem Calm.withQueue {s : State} {n : Nat} (h : Calm s n) (q : List QueuedRecord) : Calm (withQueue s q) n :=
  ⟨h.released, h.threads, h.waiters, h.turn, h.strikeWait, h.room⟩

theorem exec_looseRecordApplication {s : State} (h : s.inReset = false) : exec .looseRecordApplication s = .next (applyLoose s) :=
  live_released h applyLoose

end Sys2Proof.Machine

/-!
PROOFS. A batch is applied as its members would be one by one (O47).
-/

namespace Sys2Proof.Machine

/-! ### The steps that apply a record (R65 to R67) -/

/-- A step of the application of records: one on the database, or the queueing of an item or a notice. -/
def Op.applying (op : Op) : Bool :=
  op.onDatabase || match op with
    | .ref _ | .post _ | .notice _ => true
    | _ => false

/-- The step leaves the grant and the work in hand, and adds steps of the same kind. -/
def OpResult.applies (s : State) : OpResult → Prop
  | .done s' push => s'.arbiter = s.arbiter ∧ s'.topology.work = s.topology.work ∧ ∀ o ∈ push, o.applying = true
  | .wait _ => True

theorem applying_append {a b : List Op} (ha : ∀ o ∈ a, o.applying = true) (hb : ∀ o ∈ b, o.applying = true) :
    ∀ o ∈ a ++ b, o.applying = true := fun o ho => (List.mem_append.1 ho).elim (ha o) (hb o)

theorem applying_portItems (s : State) (j : Nat) (old : Option Pairing) (oldLink : Option Nat) (why : TopoReason) :
    ∀ o ∈ portItems s j old oldLink why, o.applying = true := by
  unfold portItems
  split
  · simp
  · split <;> simp [Op.applying]

theorem applying_newLinkItems (k : Nat) (l : LinkEntry) : ∀ o ∈ newLinkItems k l, o.applying = true := by
  unfold newLinkItems
  split <;> simp [Op.applying, Op.onDatabase]

theorem applying_leavePair (s : State) (j : Nat) (e : PortEntry) : ∀ o ∈ leavePair s j e, o.applying = true := by
  unfold leavePair
  split
  · split
    · simp
    · split <;> simp [Op.applying, Op.onDatabase]
  · split <;> simp [Op.applying, Op.onDatabase]
  · simp
  · simp

theorem leaveLink_arbiter (s : State) (j : Option Nat) : (leaveLink s j).arbiter = s.arbiter := by cases j <;> rfl

theorem leaveLink_work (s : State) (j : Option Nat) : (leaveLink s j).topology.work = s.topology.work := by cases j <;> rfl

theorem applies_updateLinkAttributes (k : Nat) (s : State) : (updateLinkAttributes k s).applies s := by
  unfold updateLinkAttributes
  split
  · exact ⟨rfl, rfl, by simp⟩
  · split
    · exact ⟨rfl, rfl, by simp⟩
    · dsimp only
      split
      · exact ⟨rfl, rfl, by simp⟩
      · exact ⟨rfl, rfl, by simp [Op.applying]⟩

theorem applies_updateLinkState (k : Nat) (s : State) : (updateLinkState k s).applies s := by
  unfold updateLinkState
  split
  · exact ⟨rfl, rfl, by simp⟩
  · split
    · exact ⟨rfl, rfl, by simp⟩
    · dsimp only
      split
      · exact ⟨rfl, rfl, by simp [Op.applying, Op.onDatabase]⟩
      · split
        · exact ⟨rfl, rfl, by simp [Op.applying, Op.onDatabase]⟩
        · exact ⟨rfl, rfl, by simp⟩

theorem applies_retireLink (k : Nat) (why : TopoReason) (s : State) : (retireLink k why s).applies s := by
  unfold retireLink
  split
  · exact ⟨rfl, rfl, by simp⟩
  · exact ⟨(leaveLink_arbiter _ _).trans (leaveLink_arbiter _ _), (leaveLink_work _ _).trans (leaveLink_work _ _),
      by simp [Op.applying, Op.onDatabase]⟩

theorem applies_evaluatePort (j : Nat) (old : Option Pairing) (oldLink : Option Nat) (s : State) :
    (evaluatePort j old oldLink s).applies s := by
  unfold evaluatePort
  split
  · exact ⟨rfl, rfl, by simp⟩
  · split
    · exact ⟨rfl, rfl, applying_portItems _ _ _ _ _⟩
    · split
      · exact ⟨rfl, rfl, applying_portItems _ _ _ _ _⟩
      · split
        · exact ⟨rfl, rfl, applying_portItems _ _ _ _ _⟩
        · split
          · exact ⟨rfl, rfl, applying_append (applying_portItems _ _ _ _ _) (applying_portItems _ _ _ _ _)⟩
          · exact ⟨rfl, rfl, applying_append (applying_append (applying_newLinkItems _ _) (applying_portItems _ _ _ _ _))
              (applying_portItems _ _ _ _ _)⟩

theorem applies_recheckClaimants (j i : Nat) (s : State) : (recheckClaimants j i s).applies s := by
  unfold recheckClaimants
  split
  · exact ⟨rfl, rfl, by simp⟩
  · split
    · exact ⟨rfl, rfl, by simp⟩
    · split
      · exact ⟨rfl, rfl, by simp [Op.applying, Op.onDatabase]⟩
      · exact ⟨rfl, rfl, applying_append (applying_portItems _ _ _ _ _) (by simp [Op.applying, Op.onDatabase])⟩

theorem applies_orphanClaimants (id : Id32) (number i : Nat) (why : TopoReason) (former : Option (Nat × Nat)) (s : State) :
    (orphanClaimants id number i why former s).applies s := by
  unfold orphanClaimants
  split
  · exact ⟨rfl, rfl, by simp⟩
  · split
    · exact ⟨rfl, rfl, by simp [Op.applying, Op.onDatabase]⟩
    · exact ⟨rfl, rfl, applying_append (applying_portItems _ _ _ _ _) (by simp [Op.applying, Op.onDatabase])⟩

theorem applies_reconvertPorts (n j : Nat) (s : State) : (reconvertPorts n j s).applies s := by
  unfold reconvertPorts
  split
  · exact ⟨rfl, rfl, by simp⟩
  · refine ⟨rfl, rfl, applying_append (applying_append ?_ ?_) (by simp [Op.applying, Op.onDatabase])⟩
    · split <;> simp [Op.applying]
    · split <;> simp [Op.applying, Op.onDatabase]

theorem applies_updateNode (s : State) (i : Nat) (e : NodeEntry) (l : Line) : (updateNode s i e l).applies s := by
  unfold updateNode
  split
  · exact ⟨rfl, rfl, by simp⟩
  · refine ⟨rfl, rfl, applying_append (by simp [Op.applying]) ?_⟩
    split <;> simp [Op.applying, Op.onDatabase]

theorem applies_updatePort (s : State) (j : Nat) (e : PortEntry) (f : PortReported) : (updatePort s j e f).applies s := by
  unfold updatePort
  split
  · exact ⟨rfl, rfl, by simp⟩
  · split
    · refine ⟨rfl, rfl, applying_append ?_ (by simp [Op.applying])⟩
      unfold linkUpdates
      split <;> simp [Op.applying, Op.onDatabase]
    · exact ⟨rfl, rfl, applying_append (applying_leavePair _ _ _) (by simp [Op.applying, Op.onDatabase])⟩

theorem applies_applyRecord (l : Line) (off : Nat) (s : State) : (applyRecord l off s).applies s := by
  have hfault : ∀ why, (recordFault s why l off).applies s := fun _ => ⟨rfl, rfl, by simp [Op.applying]⟩
  unfold applyRecord
  split
  · unfold applyNodeReport
    split
    · exact hfault _
    · split
      · exact applies_updateNode _ _ _ _
      · split
        · exact hfault _
        · exact ⟨rfl, rfl, by simp [Op.applying]⟩
  · unfold applyPortReport
    split
    · exact hfault _
    · split
      · exact applies_updatePort _ _ _ _
      · split
        · exact hfault _
        · exact ⟨rfl, rfl, by simp [Op.applying, Op.onDatabase]⟩
  · unfold applyPortWithdraw
    split
    · exact ⟨rfl, rfl, by simp⟩
    · split
      · exact ⟨rfl, rfl, by simp⟩
      · exact ⟨rfl, rfl, by simp [Op.applying, Op.onDatabase]⟩
  · unfold applyNodeWithdraw
    split
    · exact ⟨rfl, rfl, by simp⟩
    · exact ⟨rfl, rfl, by simp [Op.applying, Op.onDatabase]⟩
  all_goals exact ⟨rfl, rfl, by simp⟩

theorem applies_onDatabase {op : Op} (hop : op.onDatabase = true) (given : Bool) (t : Thread) (s : State) :
    (runOp given t op s).applies s := by
  cases op with
  | applyRecord l off => exact applies_applyRecord l off s
  | reconvertPorts n j => exact applies_reconvertPorts n j s
  | linkAttributes k => exact applies_updateLinkAttributes k s
  | linkState k => exact applies_updateLinkState k s
  | retireLink k why => exact applies_retireLink k why s
  | portMove j st oldLink why =>
    simp only [runOp, movePort]
    split
    · exact ⟨rfl, rfl, by simp⟩
    · exact ⟨rfl, rfl, applying_portItems _ _ _ _ _⟩
  | repoint j f =>
    simp only [runOp, repointPort]
    split <;> exact ⟨rfl, rfl, by simp⟩
  | evaluate j old oldLink => exact applies_evaluatePort j old oldLink s
  | claimants j i => exact applies_recheckClaimants j i s
  | removePort j why =>
    simp only [runOp, removePort]
    split
    · exact ⟨rfl, rfl, by simp⟩
    · split <;> exact ⟨rfl, rfl, by simp [Op.applying, Op.onDatabase]⟩
  | freePort j why oldLink former =>
    simp only [runOp, freePort]
    split
    · exact ⟨rfl, rfl, by simp⟩
    · exact ⟨rfl, rfl, by simp [Op.applying, Op.onDatabase]⟩
  | orphans id number i why former => exact applies_orphanClaimants id number i why former s
  | removePorts n j why count =>
    simp only [runOp, removePorts]
    split <;> exact ⟨rfl, rfl, by simp [Op.applying, Op.onDatabase]⟩
  | freeNode n why count =>
    simp only [runOp, freeNode]
    split
    · exact ⟨rfl, rfl, by simp⟩
    · exact ⟨rfl, rfl, by simp [Op.applying]⟩
  | event e =>
    simp only [runOp, sendEvent]
    split
    · exact ⟨rfl, rfl, by simp⟩
    · trivial
  | _ => cases hop

/-! ### The steps of a voice -/

section
variable (s u : State)

theorem withTurn_voiced (t : Thread) {f : State → OpResult} (hf : ∀ v, f (voiced v u) = (f v).onState (voiced · u)) :
    withTurn t (voiced s u) f = (withTurn t s f).onState (voiced · u) := by
  unfold withTurn
  simp only [show (voiced s u).notices = s.notices from rfl]
  split
  · exact hf { s with notices := { s.notices with turn := [t] } }
  · split
    · exact hf s
    · rfl

theorem queueRef_voiced (given : Bool) (t : Thread) (r : Ref) :
    queueRef given t r (voiced s u) = (queueRef given t r s).onState (voiced · u) := by
  unfold queueRef
  rw [show refIdle (voiced s u) r = refIdle s r from rfl, show hasPlace given (voiced s u) = hasPlace given s from rfl]
  split
  · rfl
  · split <;> rfl

theorem postNotice_voiced (t : Thread) (n : Notice) : postNotice t n (voiced s u) = (postNotice t n s).onState (voiced · u) := by
  refine withTurn_voiced s u t fun v => ?_
  rw [show noticeEnabled (voiced v u) n = noticeEnabled v n from noticeEnabled_congr rfl n,
    show ringOpen (voiced v u) = ringOpen v from rfl, show (voiced v u).notices = v.notices from rfl]
  split
  · rfl
  · split
    · rfl
    · split <;> rfl

theorem writeNotice_voiced (given : Bool) (t : Thread) (n : Notice) :
    writeNotice given t n (voiced s u) = (writeNotice given t n s).onState (voiced · u) := by
  unfold writeNotice
  rw [show hasPlace given (voiced s u) = hasPlace given s from rfl, show (voiced s u).decoder = s.decoder from rfl]
  split
  · rfl
  · split <;> rfl

end

/-! ### A step elsewhere -/

/-- The state with other records in the intake unit and other steps in a thread. -/
def elsewhere (i : Intake) (t : Thread) (ops : List Op) (s : State) : State := (withIntake s i).putOps t ops

theorem OpResult.onState_onState (f g : State → State) (x : OpResult) : (x.onState f).onState g = x.onState (g ∘ f) := by
  cases x <;> rfl

/-- An applying step reads and changes nothing of the intake unit and of the steps to come. -/
theorem runOp_elsewhere {op : Op} (hop : op.applying = true) (given : Bool) (t u : Thread) (i : Intake) (ops : List Op) (s : State) :
    runOp given t op (elsewhere i u ops s) = (runOp given t op s).onState (elsewhere i u ops) := by
  have hvoice : (∀ v, runOp given t op (voiced s v) = (runOp given t op s).onState (voiced · v)) →
      runOp given t op (elsewhere i u ops s) = (runOp given t op s).onState (elsewhere i u ops) := fun h => by
    have hself : runOp given t op s = (runOp given t op s).onState (voiced · s) := h s
    have hthere : runOp given t op (elsewhere i u ops s) = (runOp given t op s).onState (voiced · (elsewhere i u ops s)) :=
      h (elsewhere i u ops s)
    rw [hthere, hself, OpResult.onState_onState, OpResult.onState_onState]
    rfl
  cases op with
  | ref r => exact hvoice fun v => queueRef_voiced s v given t r
  | post n => exact hvoice fun v => postNotice_voiced s v t n
  | notice n => exact hvoice fun v => writeNotice_voiced s v given t n
  | _ =>
    have hdatabase : Op.onDatabase _ = true := (Bool.or_false _).symm.trans hop
    have hself := runOp_hosted s s hdatabase given t
    have hthere := runOp_hosted (elsewhere i u ops s) s hdatabase given t
    rw [show hosted s s = s from rfl] at hself
    rw [show hosted (elsewhere i u ops s) s = elsewhere i u ops s from rfl] at hthere
    rw [hthere, hself, OpResult.onState_onState, OpResult.onState_onState]
    rfl

theorem applies_runOp {op : Op} (hop : op.applying = true) (given : Bool) (t : Thread) (s : State) : (runOp given t op s).applies s := by
  cases op with
  | ref r =>
    simp only [runOp, queueRef]
    split
    · exact ⟨rfl, rfl, by simp⟩
    · split
      · exact ⟨rfl, rfl, by simp⟩
      · trivial
  | post n =>
    have hjudged : ∀ v : State, v.arbiter = s.arbiter → v.topology = s.topology →
        (if !noticeEnabled v n then OpResult.done (endTurn v) []
          else if ringOpen v then .done v [.notice n]
          else .done (endTurn (if v.notices.lost then v else noteStatus (setLost v))) []).applies s := fun v harb htop => by
      split
      · exact ⟨harb, congrArg Topology.work htop, by simp⟩
      · split
        · exact ⟨harb, congrArg Topology.work htop, by simp [Op.applying]⟩
        · split <;> exact ⟨harb, congrArg Topology.work htop, by simp⟩
    simp only [runOp, postNotice, withTurn]
    split
    · exact hjudged _ rfl rfl
    · split
      · exact hjudged s rfl rfl
      · trivial
  | notice n =>
    simp only [runOp, writeNotice]
    split
    · exact ⟨rfl, rfl, by simp⟩
    · split
      · exact ⟨rfl, rfl, by simp⟩
      · trivial
  | _ => exact applies_onDatabase ((Bool.or_false _).symm.trans hop) given t s

/-- An applying step leaves the intake unit as it is. -/
theorem intake_of_applying {op : Op} (hop : op.applying = true) {given : Bool} {t : Thread} {s s' : State} {push : List Op}
    (hrun : runOp given t op s = .done s' push) : s'.intake = s.intake := by
  have hsame : elsewhere s.intake t (s.threads.get t) s = s := by
    simp only [elsewhere, withIntake, State.putOps, Threads.put_get]
  have h := runOp_elsewhere hop given t t s.intake (s.threads.get t) s
  rw [hsame, hrun] at h
  rw [(OpResult.done.inj h).1]
  rfl

/-! ### The steps of a record, one after another -/

/-- The only operation under way comes to rest where it waits, with its steps still to come. -/
theorem settled_wait {t : Thread} {s s' : State} {op : Op} {rest : List Op} (h : Alone t s)
    (hrun : runOp false t op (s.putOps t (op :: rest)) = .wait s') :
    settleAll (s.putOps t (op :: rest)) = s' ∧ s'.threads.get t = op :: rest := by
  have hwait : WaitFrame t op (s.putOps t (op :: rest)) s' := by
    have := runOp_framed false t op (s.putOps t (op :: rest))
    rw [hrun] at this
    exact this
  have hthreads : s'.threads = (s.putOps t (op :: rest)).threads := by
    cases hwait with
    | room h | turn _ _ _ _ h | strikes _ _ h => subst h; rfl
  have hget : s'.threads.get t = op :: rest := by rw [hthreads, State.putOps_threads, Threads.get_put_self]
  have hstuck : canRun s' t = false := by
    cases hwait with
    | room h => simp [canRun, h, beginWait]
    | turn u r hs hne _ =>
      rcases h.turn with hturn | hturn
      · exact absurd (hturn.symm.trans hs) (by simp)
      · exact absurd (List.cons.inj (hturn.symm.trans hs)).1.symm hne
    | strikes e ho h =>
      have hhead : s'.threads.get t = .event e :: rest := by rw [hget, ho]
      have hwaits : waitsForStrikes s' t = true := by
        unfold waitsForStrikes
        rw [hhead, h]
        rfl
      simp [canRun, hwaits]
  have hquiet : nextThread s' = none := by
    rw [Machine.nextThread, List.find?_eq_none]
    intro u _
    by_cases hu : u = t
    · rw [hu, hstuck]
      exact Bool.false_ne_true
    · simp [canRun, hthreads, Threads.get_put_ne _ _ hu, h.threads u hu]
  refine ⟨?_, hget⟩
  rw [settleAll_step (h.nextThread op rest)]
  simp only [micro, State.putOps_threads, Threads.get_put_self, hrun]
  exact settleAll_of_quiescent hquiet

/-- What the steps of an application leave of a state: it is as it was but for the database, the strike queue and what was queued and
posted. -/
structure AppliedFrom (s v : State) : Prop where
  alone : Alone .topology v
  arbiter : v.arbiter = s.arbiter
  work : v.topology.work = s.topology.work
  intake : v.intake = s.intake

/-- When an application ends without waiting, it runs in the same way with other steps behind it and other records in the queue. -/
theorem applied_elsewhere {s : State} {ops : List Op} (hops : ∀ o ∈ ops, o.applying = true) (halone : Alone .topology s)
    (hend : (settleAll (s.putOps .topology (ops ++ [.topologyEnd]))).threads = Threads.none) :
    ∃ v, AppliedFrom s v ∧
      ∀ i rest, settleAll (elsewhere i .topology (ops ++ rest) s) = settleAll (elsewhere i .topology rest v) := by
  induction hm : settleMeasure (s.putOps .topology (ops ++ [.topologyEnd])) using Nat.strong_induction_on generalizing s ops with
  | _ m ih =>
    cases ops with
    | nil => exact ⟨s, ⟨halone, rfl, rfl, rfl⟩, fun _ _ => rfl⟩
    | cons op ops =>
      obtain ⟨hop, hops⟩ := List.forall_mem_cons.1 hops
      have hthere := runOp_elsewhere hop false .topology .topology
      have hhere : runOp false .topology op (s.putOps .topology (op :: (ops ++ [.topologyEnd]))) =
          (runOp false .topology op s).onState (elsewhere s.intake .topology (op :: (ops ++ [.topologyEnd]))) :=
        hthere s.intake (op :: (ops ++ [Op.topologyEnd])) s
      cases hrun : runOp false .topology op s with
      | wait s' =>
        rw [hrun] at hhere
        obtain ⟨hsettled, hget⟩ := settled_wait halone hhere
        rw [List.cons_append, hsettled] at hend
        rw [hend] at hget
        cases hget
      | done s' push =>
        have hnow := applies_runOp hop false .topology s
        rw [hrun] at hhere hnow
        obtain ⟨harb, hwork, hpush⟩ := hnow
        have hintake := intake_of_applying hop hrun
        have hdone : DoneFrame .topology s s' := by
          have := runOp_framed false .topology op s
          rwa [hrun] at this
        have hputs : elsewhere s.intake .topology (op :: (ops ++ [.topologyEnd])) s' =
            s'.putOps .topology (op :: (ops ++ [.topologyEnd])) := by
          rw [← hintake]
          rfl
        rw [OpResult.onState_done, hputs] at hhere
        have hstep := settled_step halone hhere
        have hmicro : micro false .topology (s.putOps .topology (op :: (ops ++ [.topologyEnd]))) =
            s'.putOps .topology ((push ++ ops) ++ [.topologyEnd]) := by
          simp only [micro, State.putOps_threads, Threads.get_put_self, hhere, State.putOps_putOps, List.append_assoc]
        have hless := settleMeasure_micro (canRun_of_nextThread (halone.nextThread op (ops ++ [.topologyEnd])))
        rw [hmicro] at hless
        rw [List.cons_append, hstep, ← List.append_assoc] at hend
        obtain ⟨v, hv, hrest⟩ := ih _ (hm ▸ hless) (applying_append hpush hops) (halone.done hdone) hend rfl
        refine ⟨v, ⟨hv.alone, hv.arbiter.trans harb, hv.work.trans hwork, hv.intake.trans hintake⟩, fun i rest => ?_⟩
        have hthat := hthere i (op :: (ops ++ rest)) s
        rw [hrun] at hthat
        rw [← hrest i rest, List.append_assoc]
        exact settled_step (s := withIntake s i) (s' := withIntake s' i)
          ⟨halone.threads, halone.waiters, halone.turn, halone.strikeWait⟩ hthat

/-! ### Members that refresh a domain or fail (R68, R70, R75) -/

theorem applyRecord_domainRefresh {l : Line} (h : recKindCode l = 5) (off : Nat) (s : State) :
    applyRecord l off s = .done (refreshDomain s (recByte8 l)) [] := by
  simp only [applyRecord, recKind, h]

theorem applyRecord_nodeReport {l : Line} (h : recKindCode l = 1) (off : Nat) (s : State) :
    applyRecord l off s = applyNodeReport l off s := by
  simp only [applyRecord, recKind, h]

theorem applyNodeReport_profileMissing {l : Line} {s : State} (h : s.profiles.domains.get? (recByte8 l) = none) (off : Nat) :
    applyNodeReport l off s = .done s [.post (.recordFault .profileMissing l off)] := by
  refine if_pos ?_
  rw [Table.has, h]
  rfl

theorem refreshDomain_withSaid (s : State) (xs : List Said) (d : Nat) :
    refreshDomain (withSaid s xs) d = withSaid (refreshDomain s d) xs := by
  rw [← hosted_withSaid s xs, refreshDomain_hosted, ← withSaid_hosted]
  rfl

/-- The state after the domain refreshes among the members. -/
def membersRefreshed (xs : List QueuedRecord) (s : State) : State :=
  (xs.filter (fun x => recKindCode x.record == 5)).foldl (fun u x => refreshDomain u (recByte8 x.record)) s

/-- The faults of the node reports among the members. -/
def membersFaults (xs : List QueuedRecord) : List Said :=
  (xs.filter (fun x => recKindCode x.record == 1)).map (fun x => .post (.recordFault .profileMissing x.record x.offset))

theorem membersRefreshed_withSaid (xs : List QueuedRecord) (s : State) (said : List Said) :
    membersRefreshed xs (withSaid s said) = withSaid (membersRefreshed xs s) said := by
  unfold membersRefreshed
  induction xs.filter _ generalizing s with
  | nil => rfl
  | cons x xs ih => rw [List.foldl_cons, List.foldl_cons, refreshDomain_withSaid, ih]

theorem membersRefreshed_frame (xs : List QueuedRecord) (s : State) :
    ∃ t : Topology, membersRefreshed xs s = withTopology s t ∧ t.strikeWait = s.topology.strikeWait := by
  unfold membersRefreshed
  induction xs.filter _ generalizing s with
  | nil => exact ⟨s.topology, rfl, rfl⟩
  | cons x xs ih => exact ih (refreshDomain s (recByte8 x.record))

/-- The step of a member. -/
def memberOp (x : QueuedRecord) : Op := .applyRecord x.record x.offset

theorem settled_members (xs : List QueuedRecord) (rest : List Op) {s : State} {n : Nat}
    (hxs : ∀ x ∈ xs, recKindCode x.record = 5 ∨ (recKindCode x.record = 1 ∧ s.profiles.domains.get? (recByte8 x.record) = none))
    (hcalm : Calm s (n + places s (membersFaults xs))) : settleAll (s.putOps .topology (xs.map memberOp ++ rest)) =
      settleAll ((withSaid (membersRefreshed xs s) (membersFaults xs)).putOps .topology rest) := by
  induction xs generalizing s with
  | nil => rfl
  | cons x xs ih =>
    obtain ⟨hx, hxs⟩ := List.forall_mem_cons.1 hxs
    rw [List.map_cons, List.cons_append]
    rcases hx with h5 | ⟨h1, hprofile⟩
    · have hrun : runOp false .topology (memberOp x) s = .done (refreshDomain s (recByte8 x.record)) [] :=
        applyRecord_domainRefresh h5 x.offset s
      have hfaults : membersFaults (x :: xs) = membersFaults xs := by simp [membersFaults, h5]
      have hrefreshed : membersRefreshed (x :: xs) s = membersRefreshed xs (refreshDomain s (recByte8 x.record)) := by
        simp [membersRefreshed, h5]
      rw [settled_step (hcalm.alone _) (runOp_putOps rfl hrun _), hfaults, hrefreshed]
      rw [hfaults] at hcalm
      exact ih hxs ⟨hcalm.released, hcalm.threads, hcalm.waiters, hcalm.turn, hcalm.strikeWait, hcalm.room⟩
    · generalize hfault : Said.post (.recordFault .profileMissing x.record x.offset) = fault
      have hrun : runOp false .topology (memberOp x) s = .done s ([fault].map Said.op) := by
        rw [← hfault]
        exact (applyRecord_nodeReport h1 x.offset s).trans (applyNodeReport_profileMissing hprofile x.offset)
      have hfaults : membersFaults (x :: xs) = fault :: membersFaults xs := by simp [membersFaults, h1, hfault]
      have hrefreshed : membersRefreshed (x :: xs) s = membersRefreshed xs s := by simp [membersRefreshed, h1]
      have hplaces : places s (membersFaults (x :: xs)) = places s [fault] + places s (membersFaults xs) := by
        rw [hfaults]
        exact places_append s [fault] (membersFaults xs)
      have hroom : Calm s (n + places s (membersFaults xs) + places s [fault]) := hcalm.fewer (by omega)
      have hsaid := hroom.withSaid [fault]
      rw [← places_congr (withSaid_control [fault] s)] at hsaid
      rw [settled_step (hcalm.alone _) (runOp_putOps rfl hrun _), settled_said _ _ _ hroom,
        ih (fun y hy => by rw [withSaid_profiles]; exact hxs y hy) hsaid, membersRefreshed_withSaid, ← withSaid_append, hfaults,
        hrefreshed]
      rfl

/-! ### The batch at the head (R67) -/

/-- Behind the opening marker, the members up to the closing marker are applied, and the loose records among them stay. -/
theorem splitBatch_closed {mid : List QueuedRecord} {closing : QueuedRecord} (tail : List QueuedRecord)
    (hmid : ∀ x ∈ mid, x.role = .loose ∨ x.role = .member) (hclosing : closing.role = .closing) :
    splitBatch (mid ++ closing :: tail) = (membersOf mid, looseOf mid ++ tail) := by
  induction mid with
  | nil => simp [splitBatch, hclosing, membersOf, looseOf]
  | cons x mid ih =>
    obtain ⟨hx, hmid⟩ := List.forall_mem_cons.1 hmid
    rcases hx with hx | hx <;> simp [splitBatch, hx, ih hmid, membersOf, looseOf]

/-- A closed batch at the head is applied under its grant. -/
theorem applyBatch_granted {s : State} {marker closing : QueuedRecord} {mid tail : List QueuedRecord} (hgranted : granted s .intake = true)
    (hmarker : marker.role = .opening) (hqueue : s.intake.queue = marker :: (mid ++ closing :: tail))
    (hclosing : closing.role = .closing) : applyBatch s =
      launch (withQueue s (splitBatch (mid ++ closing :: tail)).2) .topology
        ((splitBatch (mid ++ closing :: tail)).1.map memberOp ++ [.ref .status, .topologyEnd]) := by
  have happlicable : headApplicable s = true := (headApplicable_iff s).2
    ⟨marker, _, hqueue, .inr ⟨hmarker, closing, by simp, hclosing⟩⟩
  unfold applyBatch
  rw [hqueue]
  refine if_pos ?_
  rw [hgranted, happlicable, hmarker]
  rfl

theorem exec_batchApplication {s : State} (h : s.inReset = false) : exec .batchApplication s = .next (applyBatch s) :=
  live_released h applyBatch

/-- A batch of refreshes and failing reports. -/
theorem applyBatch_simple {s : State} {marker closing : QueuedRecord} {mid tail : List QueuedRecord}
    (hgrant : TopologyGranted s .intake) (hmarker : marker.role = .opening)
    (hqueue : s.intake.queue = marker :: (mid ++ closing :: tail)) (hclosing : closing.role = .closing)
    (hmid : ∀ x ∈ mid, x.role = .loose ∨ (x.role = .member ∧ (recKindCode x.record = 5 ∨
      (recKindCode x.record = 1 ∧ s.profiles.domains.get? (recByte8 x.record) = none))))
    (hcalm : Calm s (places s (membersFaults (membersOf mid) ++ [.ref .status]))) :
    applyBatch s = topologyIdle (withSaid (membersRefreshed (membersOf mid) (withQueue s (looseOf mid ++ tail)))
      (membersFaults (membersOf mid) ++ [.ref .status])) := by
  have hgranted := granted_of_topologyGranted hgrant hcalm
  obtain ⟨-, hwaitTopology, hwaitPath, -⟩ := hgrant
  rw [applyBatch_granted hgranted hmarker hqueue hclosing,
    splitBatch_closed tail (fun x hx => (hmid x hx).imp_right And.left) hclosing]
  generalize hitems : membersFaults (membersOf mid) ++ [.ref .status] = items at hcalm ⊢
  have hplaces : places s items = places s (membersFaults (membersOf mid)) + 1 := by rw [← hitems, places_append]; rfl
  have hstart : Calm (withQueue s (looseOf mid ++ tail)) (1 + places s (membersFaults (membersOf mid))) :=
    (hcalm.fewer (by omega)).withQueue _
  have hmembers : ∀ x ∈ membersOf mid, recKindCode x.record = 5 ∨
      (recKindCode x.record = 1 ∧ s.profiles.domains.get? (recByte8 x.record) = none) := fun x hx => by
    obtain ⟨hx, hrole⟩ := List.mem_filter.1 hx
    exact (hmid x hx).elim (fun h => by simp [h] at hrole) And.right
  obtain ⟨t, hrefreshed, hwait⟩ := membersRefreshed_frame (membersOf mid) (withQueue s (looseOf mid ++ tail))
  have hsettled := settled_members (n := 1) (membersOf mid) [.ref .status, .topologyEnd] (s := withQueue s (looseOf mid ++ tail))
    hmembers hstart
  rw [hrefreshed] at hsettled ⊢
  have hmoved : Calm (withTopology (withQueue s (looseOf mid ++ tail)) t)
      (1 + places (withTopology (withQueue s (looseOf mid ++ tail)) t) (membersFaults (membersOf mid))) :=
    ⟨hstart.released, hstart.threads, hstart.waiters, hstart.turn, hwait.trans hstart.strikeWait, hstart.room⟩
  have hsaid := hmoved.withSaid
  have hended := Calm.withSaid (n := 0) [.ref .status] hsaid
  rw [launch_calm hstart, hsettled]
  refine (settled_said (n := 0) .topology [.ref .status] [.topologyEnd] hsaid).trans ?_
  rw [settled_topologyIdle hended (by simpa [withTopology, withQueue] using hwaitTopology)
    (by simpa [withTopology, withQueue] using hwaitPath), ← withSaid_append, hitems]

/-- A batch whose first member is applied as a loose record, and the rest of the batch behind it. -/
theorem applyBatch_first {s u : State} {marker first closing : QueuedRecord} {mid tail : List QueuedRecord}
    (hgrant : TopologyGranted s .intake) (hmarker : marker.role = .opening) (hcalm : Calm s 1)
    (hqueue : s.intake.queue = marker :: first :: (mid ++ closing :: tail)) (hfirst : first.role = .member)
    (hclosing : closing.role = .closing)
    (hloose : applyLoose (withQueue s [⟨first.record, first.offset, .loose⟩]) = u) (hu : Calm u 0) :
    applyBatch s = applyBatch { withQueue u (marker :: (mid ++ closing :: tail)) with
      topology := { u.topology with work := some .intake }, arbiter := s.arbiter } := by
  have hgranted := granted_of_topologyGranted hgrant hcalm
  obtain ⟨hholder, hwaitTopology, hwaitPath, hwork⟩ := hgrant
  have hlaunch : applyLoose (withQueue s [⟨first.record, first.offset, .loose⟩]) =
      settleAll ((withQueue s []).putOps .topology [memberOp first, .topologyEnd]) := by
    rw [← launch_calm (hcalm.withQueue [])]
    exact if_pos (by rw [show granted (withQueue s [⟨first.record, first.offset, .loose⟩]) .intake = true from hgranted]; rfl)
  have halone : Alone .topology (withQueue s []) := (hcalm.withQueue []).alone _
  rw [hlaunch] at hloose
  obtain ⟨v, hv, hthere⟩ := applied_elsewhere (s := withQueue s []) (ops := [memberOp first])
    (by simp [memberOp, Op.applying, Op.onDatabase])
    halone (by rw [List.singleton_append, hloose, hu.threads])
  obtain ⟨halonev, harb, hworkv, hintake⟩ := hv
  have hidle : u = (topologyIdle v).putOps .topology [] := by
    have hend := hthere (withQueue s []).intake [.topologyEnd]
    rw [show elsewhere (withQueue s []).intake .topology ([memberOp first] ++ [.topologyEnd]) (withQueue s []) =
      (withQueue s []).putOps .topology [memberOp first, .topologyEnd] from rfl, hloose, ← hintake] at hend
    have hwaits : v.arbiter.waitTopology = false ∧ v.arbiter.waitPath = false := by
      rw [harb]
      exact ⟨hwaitTopology, hwaitPath⟩
    refine hend.trans ((settled_topologyEnd halonev [] hwaits.1 hwaits.2).trans (settled_nil ?_))
    exact ⟨halonev.threads, halonev.waiters, halonev.turn, halonev.strikeWait⟩
  have hsame : ({ v with topology := { v.topology with work := some .intake }, arbiter := s.arbiter } : State) = v := by
    rw [← hwork, show s.topology.work = v.topology.work from hworkv.symm, show s.arbiter = v.arbiter from harb.symm]
  have hsplit : splitBatch (first :: (mid ++ closing :: tail)) =
      (first :: (splitBatch (mid ++ closing :: tail)).1, (splitBatch (mid ++ closing :: tail)).2) := by
    simp [splitBatch, hfirst]
  generalize hw : ({ withQueue u (marker :: (mid ++ closing :: tail)) with
      topology := { u.topology with work := some .intake }, arbiter := s.arbiter } : State) = w
  have hcalmw : Calm w 0 := by
    subst hw
    exact ⟨hu.released, hu.threads, hu.waiters, hu.turn, hu.strikeWait, hu.room⟩
  have hgrantedw : granted w .intake = true :=
    granted_of_topologyGranted (by subst hw; exact ⟨hholder, hwaitTopology, hwaitPath, rfl⟩) hcalmw
  rw [applyBatch_granted (mid := first :: mid) hgranted hmarker hqueue hclosing,
    applyBatch_granted hgrantedw hmarker (by subst hw; rfl) hclosing, launch_calm (hcalm.withQueue _),
    launch_calm (hcalmw.withQueue _), List.cons_append, hsplit]
  refine (hthere { s.intake with queue := (splitBatch (mid ++ closing :: tail)).2 } _).trans (congrArg settleAll ?_)
  rw [← hsame, ← hw, hidle]
  simp only [elsewhere, withIntake, withQueue, State.putOps, topologyIdle, hintake, Threads.put_put]
  rfl

/-- Settles O47: the members in full, the first member apart, and the batch that is still open. -/
theorem batchApplied : Obligations.BatchApplied := by
  intro s marker closing mid tail hgrant hmarker
  refine ⟨fun hqueue hclosing hmid => ?_, fun first u hcalm hqueue hfirst hclosing hexec hu => ?_,
    fun hreleased hqueue hopen => ?_⟩
  · intro items hcalm
    rw [exec_batchApplication hcalm.released,
      applyBatch_simple hgrant hmarker hqueue hclosing hmid hcalm]
    rfl
  · have hloose : applyLoose (withQueue s [⟨first.record, first.offset, .loose⟩]) = u :=
      Host.Outcome.next.inj ((exec_looseRecordApplication (hcalm.withQueue _).released).symm.trans hexec)
    rw [exec_batchApplication hcalm.released,
      applyBatch_first hgrant hmarker hcalm hqueue hfirst hclosing hloose hu]
    refine (exec_batchApplication ?_).symm
    exact hu.released
  · have happlicable : headApplicable s = false := Bool.eq_false_iff.2 fun h => by
      obtain ⟨x, behind, hx, hrole⟩ := (headApplicable_iff s).1 h
      obtain ⟨rfl, rfl⟩ := List.cons.inj (hqueue.symm.trans hx)
      rcases hrole with hrole | ⟨-, y, hy, hrole⟩
      · rw [hmarker] at hrole
        cases hrole
      · exact hopen y hy hrole
    have hkept : applyBatch s = s := by
      unfold applyBatch
      rw [hqueue]
      exact if_neg (by simp [happlicable])
    rw [exec_batchApplication hreleased, hkept]

end Sys2Proof.Machine

/-!
PROOFS. The steps of the topology unit as effects on the database and the strike queue (R81, R87, R90, R91, R100 to R104).
-/

namespace Sys2Proof.Machine

/-! ### Effects on the database -/

/-- What no step of the topology unit changes before it ends; the strike queue only grows (R104). -/
structure Steady (s v : State) : Prop where
  arbiter : v.arbiter = s.arbiter
  profiles : v.profiles = s.profiles
  strikeWait : v.topology.strikeWait = s.topology.strikeWait
  strikes : s.paths.strikes.length ≤ v.paths.strikes.length

theorem Steady.refl (s : State) : Steady s s := ⟨rfl, rfl, rfl, Nat.le_refl _⟩

theorem Steady.trans {s t v : State} (h : Steady s t) (k : Steady t v) : Steady s v :=
  ⟨k.arbiter.trans h.arbiter, k.profiles.trans h.profiles, k.strikeWait.trans h.strikeWait, h.strikes.trans k.strikes⟩

/-- An effect that reads the database, and changes the topology tables and the strike queue alone. -/
structure OnDatabase (f : State → Effect) : Prop where
  hosted : ∀ u s, f (hosted u s) = { state := Machine.hosted u (f s).state, said := (f s).said }
  steady : ∀ s, Steady s (f s).state

theorem withSaid_strikes (s : State) (xs : List Said) : (withSaid s xs).paths.strikes = s.paths.strikes := by
  rw [withSaid_self s xs]
  rfl

section
variable {f g : State → Effect}

theorem OnDatabase.state_eq (h : OnDatabase f) (s : State) : Machine.hosted s (f s).state = (f s).state :=
  (congrArg Effect.state (h.hosted s s)).symm

/-- The items of one effect do not change what the next one does. -/
theorem OnDatabase.withSaid (h : OnDatabase f) (s : State) (xs : List Said) :
    f (withSaid s xs) = { state := Machine.withSaid (f s).state xs, said := (f s).said } := by
  rw [← hosted_withSaid s xs, h.hosted, ← withSaid_hosted, h.state_eq]

theorem OnDatabase.after_andThen (h : OnDatabase f) (x : Effect) : (x.andThen f).after = (f x.after).after := by
  simp only [Effect.after, Effect.andThen, h.withSaid, withSaid_append]

theorem OnDatabase.said_andThen (h : OnDatabase f) (x : Effect) : (x.andThen f).said = x.said ++ (f x.after).said := by
  simp only [Effect.after, Effect.andThen, h.withSaid]

theorem OnDatabase.none : OnDatabase Effect.none := ⟨fun _ _ => rfl, Steady.refl⟩

theorem OnDatabase.andThen (hf : OnDatabase f) (hg : OnDatabase g) : OnDatabase (fun s => (f s).andThen g) where
  hosted u s := by simp only [Effect.andThen, hf.hosted, hg.hosted]
  steady s := (hf.steady s).trans (hg.steady _)

theorem OnDatabase.each {f : State → Nat → Effect} (h : ∀ i, OnDatabase (fun s => f s i)) (xs : List Nat) :
    OnDatabase (fun s => Effect.each s f xs) := by
  induction xs with
  | nil => exact OnDatabase.none
  | cons i xs ih =>
    simp only [Effect.each_cons]
    exact (h i).andThen ih

theorem OnDatabase.control (h : OnDatabase f) (s : State) : (f s).state.control = s.control := by
  rw [← h.state_eq]
  rfl

theorem OnDatabase.after_control (h : OnDatabase f) (s : State) : (f s).after.control = s.control :=
  (withSaid_control _ _).trans (h.control s)

theorem OnDatabase.steady_after (h : OnDatabase f) (s : State) : Steady s (f s).after where
  arbiter := by rw [Effect.after, withSaid_arbiter, (h.steady s).arbiter]
  profiles := by rw [Effect.after, withSaid_profiles, (h.steady s).profiles]
  strikeWait := by rw [Effect.after, withSaid_topology, (h.steady s).strikeWait]
  strikes := by rw [Effect.after, withSaid_strikes]; exact (h.steady s).strikes

theorem Calm.onState (hf : OnDatabase f) {s : State} {n : Nat} (h : Calm s n) : Calm (f s).state n := by
  rw [← hf.state_eq]
  exact ⟨h.released, h.threads, h.waiters, h.turn, (hf.steady s).strikeWait.trans h.strikeWait, h.room⟩

theorem Calm.onAfter (hf : OnDatabase f) {s : State} {n : Nat} (h : Calm s (n + places s (f s).said)) : Calm (f s).after n := by
  rw [← places_congr (hf.control s)] at h
  exact (h.onState hf).withSaid _

end

/-! ### The steps that carry out an effect -/

/-- In the states of `P` with room for its items and its strike events, the steps have the effect `f` and are done. -/
def Does (P : State → Prop) (ops : List Op) (f : State → Effect) : Prop :=
  ∀ ⦃s : State⦄ ⦃n : Nat⦄, P s → Calm s (n + places s (f s).said) → (f s).state.paths.strikes.length ≤ 32 → ∀ rest,
    settleAll (s.putOps .topology (ops ++ rest)) = settleAll ((f s).after.putOps .topology rest)

/-- Steps that have the effect `f` and leave the steps `more`, which have the effect `g`. -/
theorem Does.before {P Q : State → Prop} {ops more : List Op} {f g : State → Effect} (hf : OnDatabase f) (hg : OnDatabase g)
    (h : ∀ ⦃s : State⦄ ⦃n : Nat⦄, P s → Calm s (n + places s (f s).said) → (f s).state.paths.strikes.length ≤ 32 → ∀ rest,
      settleAll (s.putOps .topology (ops ++ rest)) = settleAll ((f s).after.putOps .topology (more ++ rest)))
    (k : Does Q more g) (hQ : ∀ s, P s → Q (f s).after) : Does P ops (fun s => (f s).andThen g) := by
  intro s n hs hcalm hstrikes rest
  change Calm s (n + places s ((f s).andThen g).said) at hcalm
  have hplaces : places s ((f s).andThen g).said = places s (f s).said + places s (g (f s).after).said := by
    rw [hg.said_andThen, places_append]
  have hcalmf : Calm s (n + places s (g (f s).after).said + places s (f s).said) := hcalm.fewer (by omega)
  have hcalmg := hcalmf.onAfter hf
  rw [← places_congr (hf.after_control s)] at hcalmg
  have hstrikesf : (f s).state.paths.strikes.length ≤ 32 := (hg.steady _).strikes.trans hstrikes
  have hstrikesg : (g (f s).after).state.paths.strikes.length ≤ 32 := by
    rw [Effect.after, hg.withSaid, withSaid_strikes]
    exact hstrikes
  rw [h hs hcalmf hstrikesf, k (hQ s hs) hcalmg hstrikesg, hg.after_andThen]

/-- Steps after steps have one effect after the other. -/
theorem Does.andThen {P Q : State → Prop} {a b : List Op} {f g : State → Effect} (h : Does P a f) (k : Does Q b g)
    (hf : OnDatabase f) (hg : OnDatabase g) (hQ : ∀ s, P s → Q (f s).after) : Does P (a ++ b) (fun s => (f s).andThen g) :=
  Does.before hf hg (fun s n hs hcalm hstrikes rest => by rw [List.append_assoc, h hs hcalm hstrikes]) k hQ

theorem Does.pointwise {P : State → Prop} {ops : List Op} {f : State → Effect} (h : ∀ s, P s → Does (· = s) ops f) : Does P ops f :=
  fun s _ hs => h s hs rfl

theorem Does.weaken {P Q : State → Prop} {ops : List Op} {f : State → Effect} (h : Does Q ops f) (hPQ : ∀ s, P s → Q s) : Does P ops f :=
  fun _ _ hs => h (hPQ _ hs)

theorem Does.congr {P : State → Prop} {ops : List Op} {f g : State → Effect} (h : Does P ops f) (hfg : ∀ s, P s → f s = g s) :
    Does P ops g := fun s _ hs => by
  rw [← hfg s hs]
  exact h hs

theorem Does.nil (P : State → Prop) : Does P [] Effect.none := fun _ _ _ _ _ _ => rfl

/-- The state with strike events sent (R104). -/
def sent (s : State) (es : List Strike) : State := { s with paths := { s.paths with strikes := s.paths.strikes ++ es } }

theorem sent_nil (s : State) : sent s [] = s := by simp [sent]

theorem sent_withSaid (s : State) (es : List Strike) (xs : List Said) : withSaid (sent s es) xs = sent (withSaid s xs) es := by
  have h : withSaid (sent s es) xs = voiced (withSaid s xs) (sent s es) := withSaid_voiced (s := s) (u := sent s es) rfl rfl xs
  rw [h, withSaid_self s xs]
  rfl

theorem Calm.sent {s : State} {n : Nat} (h : Calm s n) (es : List Strike) : Calm (sent s es) n :=
  ⟨h.released, h.threads, h.waiters, h.turn, h.strikeWait, h.room⟩

theorem settled_events (es : List Strike) (rest : List Op) {s : State} {n : Nat} (h : Calm s n)
    (hroom : (s.paths.strikes ++ es).length ≤ 32) :
    settleAll (s.putOps .topology (es.map Op.event ++ rest)) = settleAll ((sent s es).putOps .topology rest) := by
  induction es generalizing s with
  | nil => rw [sent_nil]; rfl
  | cons e es ih =>
    have hone : s.paths.strikes.length < Config.strikeEvents := by
      simp only [List.length_append, List.length_cons] at hroom
      show _ < 32
      omega
    have hrun : runOp false .topology (.event e) s = .done (sent s [e]) [] := if_pos hone
    have hsent : sent (sent s [e]) es = sent s (e :: es) := by simp [sent]
    rw [List.map_cons, List.cons_append, settled_step (h.alone _) (runOp_putOps rfl hrun _), ← hsent]
    exact ih (h.sent [e]) (by simpa [sent] using hroom)

/-- Items and events among them, one after another. -/
theorem settled_sent (xs : List Said) (es : List Strike) (ys : List Said) (rest : List Op) {s : State} {n : Nat}
    (h : Calm s (n + places s (xs ++ ys))) (hroom : (s.paths.strikes ++ es).length ≤ 32) :
    settleAll (s.putOps .topology (xs.map Said.op ++ (es.map Op.event ++ (ys.map Said.op ++ rest)))) =
      settleAll ((withSaid (sent s es) (xs ++ ys)).putOps .topology rest) := by
  rw [places_append] at h
  have hfirst : Calm s (n + places s ys + places s xs) := h.fewer (by omega)
  have hsecond := hfirst.withSaid
  rw [← places_congr (withSaid_control xs s)] at hsecond
  rw [settled_said _ _ _ hfirst, settled_events es _ hsecond (by rw [withSaid_strikes]; exact hroom), ← sent_withSaid,
    settled_said (n := n) .topology ys rest, ← withSaid_append]
  rw [sent_withSaid]
  exact hsecond.sent es

/-- A step that changes the tables and adds items, strike events among them, and further steps. -/
theorem settled_onDatabase {op : Op} (hop : op.onDatabase = true) {f : State → Effect} (hf : OnDatabase f) {s v : State}
    {xs ys : List Said} {es : List Strike} {more : List Op} {n : Nat}
    (hrun : runOp false .topology op s = .done v (xs.map Said.op ++ (es.map Op.event ++ (ys.map Said.op ++ more))))
    (heffect : f s = { state := sent v es, said := xs ++ ys }) (hcalm : Calm s (n + places s (f s).said))
    (hstrikes : (f s).state.paths.strikes.length ≤ 32) (rest : List Op) :
    settleAll (s.putOps .topology (op :: rest)) = settleAll ((f s).after.putOps .topology (more ++ rest)) := by
  have hmoved := hcalm.onState hf
  rw [← places_congr (hf.control s)] at hmoved
  rw [heffect] at hmoved hstrikes
  have hv : Calm v (n + places v (xs ++ ys)) :=
    ⟨hmoved.released, hmoved.threads, hmoved.waiters, hmoved.turn, hmoved.strikeWait, hmoved.room⟩
  rw [settled_step (hcalm.alone _) (runOp_putOps hop hrun _)]
  simp only [List.append_assoc]
  rw [settled_sent xs es ys (more ++ rest) hv hstrikes, heffect]
  rfl

/-- A single step, and the steps that it adds behind its items. -/
theorem Does.stepThen {P Q : State → Prop} {op : Op} (hop : op.onDatabase = true) {f g : State → Effect} (hf : OnDatabase f)
    (hg : OnDatabase g) {more : List Op}
    (h : ∀ s, P s → runOp false .topology op s = .done (f s).state ((f s).said.map Said.op ++ more)) (k : Does Q more g)
    (hQ : ∀ s, P s → Q (f s).after) : Does P [op] (fun s => (f s).andThen g) :=
  Does.before hf hg (fun s n hs hcalm hstrikes rest =>
    settled_onDatabase hop hf (v := (f s).state) (xs := (f s).said) (ys := []) (es := []) (by simpa using h s hs) (by simp [sent_nil])
      hcalm hstrikes rest) k hQ

/-- A single step that only adds others. -/
theorem Does.becomes {P : State → Prop} {op : Op} (hop : op.onDatabase = true) {g : State → Effect} (hg : OnDatabase g)
    {more : List Op} (h : ∀ s, P s → runOp false .topology op s = .done s more) (k : Does P more g) : Does P [op] g :=
  Does.stepThen (f := Effect.none) hop OnDatabase.none hg h k fun _ hs => hs

/-- A single step that is done with its items. -/
theorem Does.step {P : State → Prop} {op : Op} (hop : op.onDatabase = true) {f : State → Effect} (hf : OnDatabase f)
    (h : ∀ s, P s → ∃ v xs es ys, runOp false .topology op s = .done v (xs.map Said.op ++ (es.map Op.event ++ ys.map Said.op)) ∧
      f s = { state := sent v es, said := xs ++ ys }) : Does P [op] f := by
  intro s n hs hcalm hstrikes rest
  obtain ⟨v, xs, es, ys, hrun, heffect⟩ := h s hs
  exact settled_onDatabase hop hf (more := []) (by rw [hrun, List.append_nil]) heffect hcalm hstrikes rest

/-- The same without strike events. -/
theorem Does.plainStep {P : State → Prop} {op : Op} (hop : op.onDatabase = true) {f : State → Effect} (hf : OnDatabase f)
    (h : ∀ s, P s → runOp false .topology op s = .done (f s).state ((f s).said.map Said.op)) : Does P [op] f :=
  Does.step hop hf fun s hs => ⟨(f s).state, (f s).said, [], [], by simpa using h s hs, by simp [sent_nil]⟩

/-! ### Links (R100 to R103) -/

theorem onDatabase_linkRetired (k : Nat) (why : TopoReason) : OnDatabase (fun s => linkRetired s k why) where
  hosted u s := by
    simp only [linkRetired, hosted_topology, hosted_arbiter]
    cases s.topology.links.get? k <;> rfl
  steady s := by
    dsimp only [linkRetired]
    split
    · exact Steady.refl s
    · exact ⟨rfl, rfl, rfl, by simp⟩

theorem leaveLink_eq (s : State) (j : Option Nat) :
    leaveLink s j = withTopology s { s.topology with ports := unlinkPort s.topology.ports j } := by
  cases j <;> rfl

/-- A link is retired (R103). -/
theorem does_retireLink (P : State → Prop) (k : Nat) (why : TopoReason) : Does P [.retireLink k why] (fun s => linkRetired s k why) := by
  refine Does.step rfl (onDatabase_linkRetired k why) fun s _ => ?_
  simp only [runOp, retireLink, linkRetired, leaveLink_eq]
  cases s.topology.links.get? k with
  | none => exact ⟨s, [], [], [], rfl, by rw [sent_nil]; rfl⟩
  | some l =>
    exact ⟨_, [.ref (.link k), .post (.linkRetired k why (l.retiredAt s.arbiter.grantTime) l.state)], [⟨.retire, k⟩], [], rfl, rfl⟩

theorem onDatabase_linkStateRederived (k : Nat) : OnDatabase (fun s => linkStateRederived s k) where
  hosted u s := by
    simp only [linkStateRederived, hosted_topology, hosted_arbiter]
    cases s.topology.links.get? k with
    | none => rfl
    | some l =>
      dsimp only
      cases l.endA.port.bind s.topology.ports.get? with
      | none => rfl
      | some p =>
        cases l.endB.port.bind s.topology.ports.get? with
        | none => rfl
        | some q =>
          dsimp only
          split
          · rfl
          · split <;> rfl
  steady s := by
    dsimp only [linkStateRederived]
    split
    · exact Steady.refl s
    · split
      · split
        · exact ⟨rfl, rfl, rfl, by simp⟩
        · split
          · exact ⟨rfl, rfl, rfl, by simp⟩
          · exact Steady.refl s
      · exact Steady.refl s

/-- A link's state is derived again (R101). -/
theorem does_linkState (P : State → Prop) (k : Nat) : Does P [.linkState k] (fun s => linkStateRederived s k) := by
  refine Does.step rfl (onDatabase_linkStateRederived k) fun s _ => ?_
  have hnothing : ∃ v xs es ys, OpResult.done s [] = .done v (List.map Said.op xs ++ (List.map Op.event es ++ List.map Said.op ys)) ∧
      Effect.none s = { state := sent v es, said := xs ++ ys } := ⟨s, [], [], [], rfl, by rw [sent_nil]; rfl⟩
  simp only [runOp, updateLinkState, linkStateRederived, linkPorts_eq]
  cases s.topology.links.get? k with
  | none => exact hnothing
  | some l =>
    dsimp only
    cases l.endA.port.bind s.topology.ports.get? with
    | none => exact hnothing
    | some p =>
      cases l.endB.port.bind s.topology.ports.get? with
      | none => exact hnothing
      | some q =>
        simp only [Option.bind_some, Option.map_some, Bool.and_eq_false_iff, Bool.and_eq_true]
        by_cases hdown : l.state = .up ∧ (p.reported.up = false ∨ q.reported.up = false)
        · simp only [if_pos hdown]
          exact ⟨_, [.ref (.link k), .post (.linkDown k .portDown { l with state := .down, changed := s.arbiter.grantTime }
            (!p.reported.up) (!q.reported.up))], [⟨.down, k⟩], [], rfl, rfl⟩
        · simp only [if_neg hdown]
          by_cases hup : l.state = .down ∧ p.reported.up = true ∧ q.reported.up = true
          · simp only [if_pos hup]
            exact ⟨_, [.ref (.link k), .post (.linkUp k .recovered { l with state := .up, changed := s.arbiter.grantTime })],
              [⟨.up, k⟩], [], rfl, rfl⟩
          · simp only [if_neg hup]
            exact hnothing

theorem onDatabase_linkRederived (k : Nat) : OnDatabase (fun s => linkRederived s k) where
  hosted u s := by
    simp only [linkRederived, hosted_topology, hosted_arbiter, deriveAttrs_hosted]
    cases s.topology.links.get? k with
    | none => rfl
    | some l =>
      dsimp only
      cases l.endA.port.bind s.topology.ports.get? with
      | none => rfl
      | some p =>
        cases l.endB.port.bind s.topology.ports.get? with
        | none => rfl
        | some q => by_cases h : deriveAttrs s p q = l.attrs <;> simp only [h, if_true, if_false] <;> rfl
  steady s := by
    dsimp only [linkRederived]
    split
    · exact Steady.refl s
    · split
      · split
        · exact Steady.refl s
        · exact ⟨rfl, rfl, rfl, Nat.le_refl _⟩
      · exact Steady.refl s

/-- A link's attributes are derived again (R102). -/
theorem does_linkAttributes (P : State → Prop) (k : Nat) : Does P [.linkAttributes k] (fun s => linkRederived s k) :=
  Does.plainStep rfl (onDatabase_linkRederived k) fun s _ => updateLinkAttributes_eq k s

/-! ### Ports -/

theorem portItems_eq (s : State) (j : Nat) (old : Option Pairing) (oldLink : Option Nat) (why : TopoReason) :
    portItems s j old oldLink why = (portSaid s j old oldLink why).map Said.op := by
  unfold portItems portSaid
  cases s.topology.ports.get? j with
  | none => rfl
  | some e =>
    dsimp only
    split <;> rfl

theorem setPairing_eq {s : State} {j : Nat} {e : PortEntry} (he : s.topology.ports.get? j = some e) (st : Pairing) :
    setPairing s j st none = withTopology s { s.topology with ports := s.topology.ports.set j (e.unpaired st) } := by
  rw [setPairing, Table.modify, he]
  rfl

theorem onDatabase_portLeft (j : Nat) (st : Pairing) (oldLink : Option Nat) (why : TopoReason) :
    OnDatabase (fun s => portLeft s j st oldLink why) where
  hosted u s := by
    simp only [portLeft, hosted_topology]
    cases s.topology.ports.get? j <;> rfl
  steady s := by
    dsimp only [portLeft]
    split
    · exact Steady.refl s
    · exact ⟨rfl, rfl, rfl, Nat.le_refl _⟩

theorem movePort_eq (j : Nat) (st : Pairing) (oldLink : Option Nat) (why : TopoReason) (s : State) : movePort j st oldLink why s =
    .done (portLeft s j st oldLink why).state ((portLeft s j st oldLink why).said.map Said.op) := by
  simp only [movePort, portLeft]
  cases he : s.topology.ports.get? j with
  | none => rfl
  | some e =>
    simp only [setPairing_eq he, portItems_eq]
    rfl

/-- A port takes a pairing state without a link (R87). -/
theorem does_portMove (P : State → Prop) (j : Nat) (st : Pairing) (oldLink : Option Nat) (why : TopoReason) :
    Does P [.portMove j st oldLink why] (fun s => portLeft s j st oldLink why) :=
  Does.plainStep rfl (onDatabase_portLeft j st oldLink why) fun s _ => movePort_eq j st oldLink why s

/-! ### Pairing (R81, R98 to R100) -/

theorem lowestFree_eq (t : Table LinkEntry) :
    t.lowestFree Config.linkEntries = (List.range 1024).find? (fun k => (t.get? k).isNone) := by
  simp only [Table.lowestFree, Table.has, Option.not_isSome]
  rfl

theorem newLink_eq_madeLink (s : State) (j : Nat) (p : PortEntry) (m : Nat) (q : PortEntry) : newLink s j p m q = madeLink s j p m q := by
  simp only [newLink, madeLink, Bool.and_eq_true]
  rfl

/-- A new link that is not UP sends a DOWN event (R100, R104). -/
def newLinkEvents (k : Nat) (p q : PortEntry) : List Strike :=
  if p.reported.up = true ∧ q.reported.up = true then [] else [⟨.down, k⟩]

/-- What a new link queues and posts (R100). -/
def newLinkSaid (s : State) (k j : Nat) (p : PortEntry) (m : Nat) (q : PortEntry) : List Said :=
  let l := madeLink s j p m q
  [.ref (.link k), .ref .status,
    .post (if p.reported.up = true ∧ q.reported.up = true then .linkUp k .new l else .linkDown k .new l false false)]

theorem newLinkItems_eq (s : State) (k j : Nat) (p : PortEntry) (m : Nat) (q : PortEntry) :
    newLinkItems k (newLink s j p m q) = (newLinkSaid s k j p m q).map Said.op ++ (newLinkEvents k p q).map Op.event := by
  have hstate : (madeLink s j p m q).state = if p.reported.up = true ∧ q.reported.up = true then .up else .down := rfl
  rw [newLink_eq_madeLink]
  by_cases hup : p.reported.up = true ∧ q.reported.up = true
  · rw [if_pos hup] at hstate
    simp only [newLinkItems, hstate, newLinkSaid, newLinkEvents, if_pos hup]
    rfl
  · rw [if_neg hup] at hstate
    simp only [newLinkItems, hstate, newLinkSaid, newLinkEvents, if_neg hup]
    rfl

theorem onDatabase_portsPaired (k j : Nat) (p : PortEntry) (m : Nat) (q : PortEntry) (old : Option Pairing) (oldLink : Option Nat)
    (why : TopoReason) : OnDatabase (fun s => portsPaired s k j p m q old oldLink why) where
  hosted _ _ := rfl
  steady s := ⟨rfl, rfl, rfl, by simp [portsPaired]⟩

/-- Two ports are paired on a link: the items and the event of the link, then the items of the two ports. -/
theorem portsPaired_eq (s : State) (k j : Nat) (p : PortEntry) (m : Nat) (q : PortEntry) (old : Option Pairing) (oldLink : Option Nat)
    (why : TopoReason) : portsPaired s k j p m q old oldLink why =
      { state := sent (pairPorts s k j p m q) (newLinkEvents k p q)
        said := newLinkSaid s k j p m q ++ (portSaid (pairPorts s k j p m q) j old oldLink why ++
          portSaid (pairPorts s k j p m q) m (some q.pairing) q.link why) } := by
  have hpair : pairPorts s k j p m q = setPairing (setPairing (setLink s k (madeLink s j p m q)) j .paired (some k)) m .paired (some k) := by
    rw [pairPorts, newLink_eq_madeLink]
  rw [hpair]
  exact congrArg (Effect.mk _) (List.append_assoc _ _ _)

theorem portEvaluated_hosted (u s : State) (j : Nat) (old : Option Pairing) (oldLink : Option Nat) :
    portEvaluated (hosted u s) j old oldLink =
    { state := hosted u (portEvaluated s j old oldLink).state, said := (portEvaluated s j old oldLink).said } := by
  simp only [portEvaluated, hosted_topology, targetOf_hosted]
  cases s.topology.ports.get? j with
  | none => rfl
  | some p =>
    dsimp only
    cases targetOf s p with
    | none => rfl
    | some target =>
      by_cases hclaims : claims s target.2 p = false
      · simp only [claims_hosted, hclaims, if_true]
        rfl
      · simp only [claims_hosted, hclaims]
        cases (List.range 1024).find? (fun k => (s.topology.links.get? k).isNone) with
        | none => rfl
        | some k => exact (onDatabase_portsPaired k j p target.1 target.2 old oldLink .reported).hosted u s

theorem onDatabase_portEvaluated (j : Nat) (old : Option Pairing) (oldLink : Option Nat) :
    OnDatabase (fun s => portEvaluated s j old oldLink) where
  hosted u s := portEvaluated_hosted u s j old oldLink
  steady s := by
    dsimp only [portEvaluated]
    split
    · exact Steady.refl s
    · split
      · exact ⟨rfl, rfl, rfl, Nat.le_refl _⟩
      · split
        · exact ⟨rfl, rfl, rfl, Nat.le_refl _⟩
        · split
          · exact (onDatabase_portsPaired _ _ _ _ _ _ _ _).steady s
          · exact ⟨rfl, rfl, rfl, Nat.le_refl _⟩

/-- The port is in no pair: it is UNANSWERED. -/
def Unpaired (j : Nat) (s : State) : Prop := ∀ p, s.topology.ports.get? j = some p → p.pairing = .unanswered

/-- A port in no pair is evaluated against its target (R81). -/
theorem does_evaluate (j : Nat) (old : Option Pairing) (oldLink : Option Nat) :
    Does (Unpaired j) [.evaluate j old oldLink] (fun s => portEvaluated s j old oldLink) := by
  refine Does.step rfl (onDatabase_portEvaluated j old oldLink) fun s hs => ?_
  have hplain : ∀ (v : State) (xs : List Said), ∃ w ys es zs,
      OpResult.done v (xs.map Said.op) = .done w (ys.map Said.op ++ (es.map Op.event ++ zs.map Said.op)) ∧
        ({ state := v, said := xs } : Effect) = { state := sent w es, said := ys ++ zs } := fun v xs =>
    ⟨v, xs, [], [], by simp, by simp [sent_nil]⟩
  simp only [runOp, evaluatePort, portEvaluated, portItems_eq, lowestFree_eq]
  cases hp : s.topology.ports.get? j with
  | none => exact hplain s []
  | some p =>
    dsimp only
    cases targetOf s p with
    | none => exact hplain _ _
    | some target =>
      obtain ⟨m, q⟩ := target
      have hapart : pairedTogether p q = false := by simp [pairedTogether, hs p hp]
      rcases Bool.eq_false_or_eq_true (claims s q p) with hclaims | hclaims
      · simp only [hclaims, hapart, Bool.not_true, Bool.false_eq_true, if_false, Bool.true_eq_false]
        cases (List.range 1024).find? (fun k => (s.topology.links.get? k).isNone) with
        | none =>
          rw [← List.map_append]
          exact hplain _ _
        | some k =>
          refine ⟨_, _, _, _, ?_, portsPaired_eq s k j p m q old oldLink .reported⟩
          dsimp only
          rw [newLinkItems_eq, List.append_assoc, List.append_assoc, ← List.map_append]
      · simp only [hclaims, Bool.not_false, if_true]
        exact hplain _ _

/-! ### One port after another (R82, R90) -/

/-- An entry in its place in the table, replaced. -/
theorem Table.set_middle {α : Type} {before after : Table α} {c : Nat} {e : α} (h : Table.ascending (before ++ (c, e) :: after)) (a : α) :
    Table.set (before ++ (c, e) :: after) c a = before ++ (c, a) :: after := by
  induction before with
  | nil => simp [Table.set]
  | cons x before ih =>
    obtain ⟨hx, hrest⟩ := Table.ascending_cons.1 h
    have hlt : x.1 < c := hx (c, e) (by simp)
    simp only [List.cons_append, Table.set, if_neg (Nat.not_lt.2 hlt.le), if_neg (Nat.ne_of_gt hlt), ih hrest]

theorem Table.ascending_append {α : Type} {before after : Table α} (h : Table.ascending (before ++ after)) :
    ∀ x ∈ before, ∀ y ∈ after, x.1 < y.1 := by
  intro x hx y hy
  rw [Table.ascending, Table.keys, List.map_append, List.pairwise_append] at h
  exact h.2.2 _ (List.mem_map_of_mem hx) _ (List.mem_map_of_mem hy)

/-- The next entry stands behind entries that do not count. -/
theorem Table.nextFrom_split {α : Type} {t : Table α} {b i : Nat} (h : t.wf b = true) {W : Nat × α → Bool} {c : Nat} {e : α}
    (hnext : t.nextFrom i b (fun k a => W (k, a)) = some (c, e)) :
    ∃ before after, t = before ++ (c, e) :: after ∧ i ≤ c ∧ W (c, e) = true ∧
      (∀ x ∈ before, x.1 < c ∧ (i ≤ x.1 → W x = false)) ∧
      ∀ x ∈ after, c < x.1 := by
  obtain ⟨hfound, before, after, rfl, hbefore⟩ := List.find?_eq_some_iff_append.1 hnext
  obtain ⟨hasc, hlt⟩ := (Table.wf_iff _ b).1 h
  simp only [Bool.and_eq_true, decide_eq_true_eq] at hfound
  refine ⟨before, after, rfl, hfound.1.1, hfound.2, fun x hx => ⟨Table.ascending_append hasc x hx _ List.mem_cons_self, fun hi => ?_⟩,
    fun x hx => ?_⟩
  · have hx' := hbefore x hx
    have hxlt : x.1 < b := hlt x.1 (List.mem_map_of_mem (List.mem_append_left _ hx))
    simpa [hi, hxlt] using hx'
  · exact (Table.ascending_cons.1 (List.Pairwise.sublist ((List.sublist_append_right before _).map _) hasc)).1 x hx

theorem Table.nextFrom_eq_none {α : Type} {t : Table α} {b i : Nat} (h : t.wf b = true) {W : Nat × α → Bool}
    (hnext : t.nextFrom i b (fun k a => W (k, a)) = none) : ∀ x ∈ t, i ≤ x.1 → W x = false := by
  intro x hx hi
  have hlt : x.1 < b := ((Table.wf_iff t b).1 h).2 x.1 (List.mem_map_of_mem hx)
  simpa [hi, hlt] using List.find?_eq_none.1 hnext x hx

theorem Table.get?_of_nextFrom {α : Type} {t : Table α} {b i : Nat} (h : t.wf b = true) {f : Nat → α → Bool} {c : Nat} {e : α}
    (hnext : t.nextFrom i b f = some (c, e)) : t.get? c = some e :=
  Table.get?_of_mem ((Table.wf_iff t b).1 h).1 (List.mem_of_find?_eq_some hnext)

/-- The ports of index `i` and above that count and are not in the state yet. -/
def leftFrom (W : Nat × PortEntry → Bool) (st : Pairing) (i : Nat) (x : Nat × PortEntry) : Bool :=
  decide (i ≤ x.1) && W x && x.2.pairing ≠ st

theorem portSaid_congr {u v : State} {j : Nat} (hport : u.topology.ports.get? j = v.topology.ports.get? j)
    (hnodes : u.topology.nodes = v.topology.nodes) (old : Option Pairing) (oldLink : Option Nat) (why : TopoReason) :
    portSaid u j old oldLink why = portSaid v j old oldLink why := by
  unfold portSaid
  rw [hport, hnodes]

section
variable {s : State} {W : Nat × PortEntry → Bool} {st : Pairing} {oldLink : Nat × PortEntry → Option Nat} {why : TopoReason} {i : Nat}

theorem portsLeft_congr {which which' : Nat × PortEntry → Bool} (h : ∀ x ∈ s.topology.ports, which x = which' x) :
    portsLeft s which st oldLink why = portsLeft s which' st oldLink why := by
  have hmap : s.topology.ports.map (fun x => if which x then (x.1, x.2.unpaired st) else x) =
      s.topology.ports.map (fun x => if which' x then (x.1, x.2.unpaired st) else x) :=
    List.map_congr_left fun x hx => by rw [h x hx]
  simp only [portsLeft, hmap, List.filter_congr h]

theorem portsLeft_false {which : Nat × PortEntry → Bool} (h : ∀ x ∈ s.topology.ports, which x = false) :
    portsLeft s which st oldLink why = .none s := by
  have hmap : s.topology.ports.map (fun x => if which x then (x.1, x.2.unpaired st) else x) = s.topology.ports :=
    (List.map_congr_left fun x hx => if_neg (by simp [h x hx])).trans (List.map_id _)
  have hfilter : s.topology.ports.filter which = [] := List.filter_eq_nil_iff.2 fun x hx => by simp [h x hx]
  simp only [portsLeft, hmap, hfilter]
  rfl

/-- No port counts from here on. -/
theorem portsLeft_done (hwf : s.topology.ports.wf Config.portEntries = true)
    (hnext : s.topology.ports.nextFrom i Config.portEntries (fun c e => W (c, e)) = none) :
    portsLeft s (leftFrom W st i) st oldLink why = .none s :=
  portsLeft_false fun x hx => by
    by_cases hi : i ≤ x.1
    · simp [leftFrom, Table.nextFrom_eq_none hwf hnext x hx hi]
    · simp [leftFrom, hi]

/-- The next port that counts is in the state already. -/
theorem portsLeft_skip (hwf : s.topology.ports.wf Config.portEntries = true) {c : Nat} {e : PortEntry}
    (hnext : s.topology.ports.nextFrom i Config.portEntries (fun c e => W (c, e)) = some (c, e)) (he : e.pairing = st) :
    portsLeft s (leftFrom W st i) st oldLink why = portsLeft s (leftFrom W st (c + 1)) st oldLink why := by
  obtain ⟨before, after, htable, hic, -, hbefore, hafter⟩ := Table.nextFrom_split hwf hnext
  refine portsLeft_congr fun x hx => ?_
  rw [htable, List.mem_append, List.mem_cons] at hx
  rcases hx with hx | rfl | hx
  · obtain ⟨hlt, hW⟩ := hbefore x hx
    by_cases hi : i ≤ x.1
    · simp [leftFrom, hW hi]
    · simp [leftFrom, hi, show ¬ c + 1 ≤ x.1 by omega]
  · simp [leftFrom, he]
  · have := hafter x hx
    simp [leftFrom, show i ≤ x.1 by omega, show c + 1 ≤ x.1 by omega]

/-- The next port that counts changes its state, and then the others do. -/
theorem portsLeft_next (hwf : s.topology.ports.wf Config.portEntries = true) {c : Nat} {e : PortEntry}
    (hnext : s.topology.ports.nextFrom i Config.portEntries (fun c e => W (c, e)) = some (c, e)) (he : e.pairing ≠ st) :
    portsLeft s (leftFrom W st i) st oldLink why = (portLeft s c st (oldLink (c, e)) why).andThen (fun u =>
      portsLeft u (leftFrom W st (c + 1)) st oldLink why) := by
  obtain ⟨before, after, htable, hic, hW, hbefore, hafter⟩ := Table.nextFrom_split hwf hnext
  have hasc : s.topology.ports.ascending := ((Table.wf_iff _ _).1 hwf).1
  have hget : s.topology.ports.get? c = some e := Table.get?_of_nextFrom hwf hnext
  have hset : s.topology.ports.set c (e.unpaired st) = before ++ (c, e.unpaired st) :: after := by
    rw [htable] at hasc ⊢
    exact Table.set_middle hasc _
  have hout : ∀ x ∈ before, leftFrom W st i x = false ∧ leftFrom W st (c + 1) x = false := fun x hx => by
    obtain ⟨hlt, hWx⟩ := hbefore x hx
    refine ⟨?_, by simp [leftFrom, show ¬ c + 1 ≤ x.1 by omega]⟩
    by_cases hi : i ≤ x.1
    · simp [leftFrom, hWx hi]
    · simp [leftFrom, hi]
  have hsame : ∀ x ∈ after, leftFrom W st i x = leftFrom W st (c + 1) x := fun x hx => by
    have := hafter x hx
    simp [leftFrom, show i ≤ x.1 by omega, show c + 1 ≤ x.1 by omega]
  have hhere : leftFrom W st i (c, e) = true := by simp [leftFrom, hic, hW, he]
  have hthere : leftFrom W st (c + 1) (c, e.unpaired st) = false := by simp [leftFrom]
  have hmap : s.topology.ports.map (fun x => if leftFrom W st i x then (x.1, x.2.unpaired st) else x) =
      (s.topology.ports.set c (e.unpaired st)).map (fun x => if leftFrom W st (c + 1) x then (x.1, x.2.unpaired st) else x) := by
    have hbeforeMap : before.map (fun x => if leftFrom W st i x then (x.1, x.2.unpaired st) else x) =
        before.map (fun x => if leftFrom W st (c + 1) x then (x.1, x.2.unpaired st) else x) :=
      List.map_congr_left fun x hx => by rw [(hout x hx).1, (hout x hx).2]
    have hafterMap : after.map (fun x => if leftFrom W st i x then (x.1, x.2.unpaired st) else x) =
        after.map (fun x => if leftFrom W st (c + 1) x then (x.1, x.2.unpaired st) else x) :=
      List.map_congr_left fun x hx => by rw [hsame x hx]
    rw [hset, htable]
    simp only [List.map_append, List.map_cons, hbeforeMap, hafterMap, hhere, hthere, if_true, Bool.false_eq_true, if_false]
  have hnone : ∀ n, (∀ x ∈ before, leftFrom W st n x = false) → before.filter (leftFrom W st n) = [] := fun n h =>
    List.filter_eq_nil_iff.2 fun x hx => by simp [h x hx]
  have hfilter : s.topology.ports.filter (leftFrom W st i) = (c, e) :: after.filter (leftFrom W st (c + 1)) := by
    rw [htable, List.filter_append, hnone i fun x hx => (hout x hx).1, List.nil_append, List.filter_cons_of_pos hhere,
      List.filter_congr hsame]
  have hfilter' : (s.topology.ports.set c (e.unpaired st)).filter (leftFrom W st (c + 1)) = after.filter (leftFrom W st (c + 1)) := by
    rw [hset, List.filter_append, hnone (c + 1) fun x hx => (hout x hx).2, List.nil_append,
      List.filter_cons_of_neg (by simp [hthere])]
  have hmapGet : Table.get? ((s.topology.ports.set c (e.unpaired st)).map
      (fun x => if leftFrom W st (c + 1) x then (x.1, x.2.unpaired st) else x)) c = some (e.unpaired st) := by
    have hascMap : Table.ascending ((s.topology.ports.set c (e.unpaired st)).map
        (fun x => if leftFrom W st (c + 1) x then (x.1, x.2.unpaired st) else x)) :=
      Table.ascending_map (Table.ascending_set hasc _ _) _ fun x => by split <;> rfl
    refine Table.get?_of_mem hascMap (x := (c, e.unpaired st)) (List.mem_map.2 ⟨(c, e.unpaired st), by rw [hset]; simp, ?_⟩)
    rw [if_neg (by simp [hthere])]
  simp only [portsLeft, portLeft, hget, Effect.andThen, hmap, hfilter, hfilter', List.flatMap_cons]
  refine congrArg (Effect.mk _) (congrArg (· ++ _) ?_)
  refine portSaid_congr ?_ ?_ _ _ _
  · exact hmapGet.trans (Table.get?_set_self _ _ _).symm
  · rfl

end

/-- A step of a sweep over the ports from index `i` upward: the next that counts takes the state, unless it has it already. -/
def sweepStep (W : Nat × PortEntry → Bool) (st : Pairing) (oldLink : Nat × PortEntry → Option Nat) (why : TopoReason) (loop : Nat → Op)
    (i : Nat) (s : State) : OpResult :=
  match s.topology.ports.nextFrom i Config.portEntries (fun c e => W (c, e)) with
  | none => .done s []
  | some (c, e) =>
    if e.pairing = st then .done s [loop (c + 1)]
    else .done (portLeft s c st (oldLink (c, e)) why).state
      ((portLeft s c st (oldLink (c, e)) why).said.map Said.op ++ [loop (c + 1)])

theorem onDatabase_portsLeft (which : Nat × PortEntry → Bool) (st : Pairing) (oldLink : Nat × PortEntry → Option Nat) (why : TopoReason) :
    OnDatabase (fun s => portsLeft s which st oldLink why) where
  hosted _ _ := rfl
  steady _ := ⟨rfl, rfl, rfl, Nat.le_refl _⟩

/-- The ports that count change one by one as they would at once (R82). -/
theorem does_sweep {W : Nat × PortEntry → Bool} {st : Pairing} {oldLink : Nat × PortEntry → Option Nat} {why : TopoReason}
    {loop : Nat → Op} (hloop : ∀ i, (loop i).onDatabase = true) {Q : State → Prop}
    (hwf : ∀ s, Q s → s.topology.ports.wf Config.portEntries = true)
    (hrun : ∀ s i, Q s → runOp false .topology (loop i) s = sweepStep W st oldLink why loop i s)
    (hkeep : ∀ s c e l, Q s → s.topology.ports.get? c = some e → W (c, e) = true → Q (portLeft s c st l why).after) (i : Nat) :
    Does Q [loop i] (fun s => portsLeft s (leftFrom W st i) st oldLink why) := by
  induction hm : Config.portEntries - i using Nat.strong_induction_on generalizing i with
  | _ m ih =>
    intro s n hs hcalm hstrikes rest
    change Calm s (n + places s (portsLeft s (leftFrom W st i) st oldLink why).said) at hcalm
    change (portsLeft s (leftFrom W st i) st oldLink why).state.paths.strikes.length ≤ 32 at hstrikes
    change settleAll (s.putOps .topology (loop i :: rest)) =
      settleAll ((portsLeft s (leftFrom W st i) st oldLink why).after.putOps .topology rest)
    have hstep := hrun s i hs
    unfold sweepStep at hstep
    cases hnext : s.topology.ports.nextFrom i Config.portEntries (fun c e => W (c, e)) with
    | none =>
      rw [hnext] at hstep
      rw [settled_step (hcalm.alone _) (runOp_putOps (hloop i) hstep _), portsLeft_done (hwf s hs) hnext]
      rfl
    | some x =>
      obtain ⟨c, e⟩ := x
      have hrange : i ≤ c ∧ c < Config.portEntries := Table.nextFrom_range hnext
      have hrest := ih (Config.portEntries - (c + 1)) (by omega) (c + 1) rfl
      rw [hnext] at hstep
      by_cases he : e.pairing = st
      · simp only [if_pos he] at hstep
        rw [portsLeft_skip (hwf s hs) hnext he] at hcalm hstrikes ⊢
        rw [settled_step (hcalm.alone _) (runOp_putOps (hloop i) hstep _)]
        exact hrest hs hcalm hstrikes rest
      · simp only [if_neg he] at hstep
        rw [portsLeft_next (hwf s hs) hnext he] at hcalm hstrikes ⊢
        have hW : W (c, e) = true := by
          obtain ⟨-, -, -, -, hW, -⟩ := Table.nextFrom_split (hwf s hs) hnext
          exact hW
        have hmove : settleAll (s.putOps .topology (loop i :: rest)) =
            settleAll (s.putOps .topology ([.portMove c st (oldLink (c, e)) why] ++ [loop (c + 1)] ++ rest)) := by
          have hrunMove : runOp false .topology (.portMove c st (oldLink (c, e)) why) s = _ := movePort_eq c st (oldLink (c, e)) why s
          rw [settled_step (hcalm.alone _) (runOp_putOps (hloop i) hstep _), List.append_assoc]
          exact (settled_step (rest := loop (c + 1) :: rest) (hcalm.alone _) (runOp_putOps rfl hrunMove _)).symm
        rw [hmove]
        exact Does.andThen (P := (· = s)) (does_portMove _ c st (oldLink (c, e)) why) hrest (onDatabase_portLeft _ _ _ _)
          (onDatabase_portsLeft _ _ _ _) (fun _ h => h ▸ hkeep s c e _ hs (Table.get?_of_nextFrom (hwf s hs) hnext) hW) rfl hcalm
          hstrikes rest

/-! ### What names the entries of the tables stays -/

/-- What a report names a node by, and its domain. -/
def nodeName (e : NodeEntry) : Id32 × Nat := (e.netId, e.domain)

/-- What a report names a port by. -/
def portName (e : PortEntry) : Nat × Nat := (e.node, e.number)

/-- The tables have the same entries, under the same names. -/
structure SameNames (t u : Topology) : Prop where
  nodes : u.nodes.column nodeName = t.nodes.column nodeName
  ports : u.ports.column portName = t.ports.column portName

theorem SameNames.refl (t : Topology) : SameNames t t := ⟨rfl, rfl⟩

theorem SameNames.trans {t u v : Topology} (h : SameNames t u) (k : SameNames u v) : SameNames t v :=
  ⟨k.nodes.trans h.nodes, k.ports.trans h.ports⟩

theorem SameNames.fit {t u : Topology} (h : SameNames t u) (ht : TablesFit t) : TablesFit u :=
  ⟨by rw [← Table.wf_column _ nodeName, h.nodes, Table.wf_column, ht.nodes],
   by rw [← Table.wf_column _ portName, h.ports, Table.wf_column, ht.ports]⟩

theorem SameNames.after {t : Topology} {x : Effect} (h : SameNames t x.state.topology) : SameNames t x.after.topology := by
  rwa [Effect.after, withSaid_topology]

/-- A port in use stays in use under its name. -/
theorem SameNames.port {t u : Topology} (h : SameNames t u) {j : Nat} {e : PortEntry} (he : t.ports.get? j = some e) :
    ∃ e', u.ports.get? j = some e' ∧ e'.node = e.node ∧ e'.number = e.number := by
  have hname := Table.get?_column u.ports portName j
  rw [h.ports, Table.get?_column, he, Option.map_some] at hname
  obtain ⟨e', he', heq⟩ := Option.map_eq_some_iff.1 hname.symm
  exact ⟨e', he', congrArg Prod.fst heq, congrArg Prod.snd heq⟩

theorem SameNames.node {t u : Topology} (h : SameNames t u) {i : Nat} {n : NodeEntry} (hn : t.nodes.get? i = some n) :
    ∃ n', u.nodes.get? i = some n' ∧ n'.netId = n.netId ∧ n'.domain = n.domain := by
  have hname := Table.get?_column u.nodes nodeName i
  rw [h.nodes, Table.get?_column, hn, Option.map_some] at hname
  obtain ⟨n', hn', heq⟩ := Option.map_eq_some_iff.1 hname.symm
  exact ⟨n', hn', congrArg Prod.fst heq, congrArg Prod.snd heq⟩

theorem Table.column_modify {α β : Type} {t : Table α} (h : t.ascending) (i : Nat) {f : α → α} {v : α → β}
    (hv : ∀ a, v (f a) = v a) :
    (t.modify i f).column v = t.column v := by
  unfold Table.modify
  cases hi : t.get? i with
  | none => rfl
  | some a => exact Table.column_set h hi v (hv a)

theorem Table.column_erase {α β : Type} (t : Table α) (i : Nat) (v : α → β) : (t.erase i).column v = (t.column v).erase i := by
  induction t with
  | nil => rfl
  | cons x t ih =>
    by_cases h : x.1 = i
    · simpa [Table.erase, Table.column, h] using ih
    · simpa [Table.erase, Table.column, h] using ih

theorem Table.column_column {α β γ : Type} (t : Table α) (v : α → β) (w : β → γ) : (t.column v).column w = t.column (w ∘ v) := by
  simp [Table.column, Function.comp_def]

section
variable {s : State}

theorem column_unlinkPort {t : Table PortEntry} (h : t.ascending) (j : Option Nat) :
    (unlinkPort t j).column portName = t.column portName := by
  cases j with
  | none => rfl
  | some j => exact Table.column_modify h j fun _ => rfl

theorem ascending_unlinkPort {t : Table PortEntry} (h : t.ascending) (j : Option Nat) : (unlinkPort t j).ascending := by
  cases j with
  | none => exact h
  | some j => exact Table.ascending_modify h j _

theorem sameNames_linkRetired (hs : TablesFit s.topology) (k : Nat) (why : TopoReason) :
    SameNames s.topology (linkRetired s k why).state.topology := by
  unfold linkRetired
  cases s.topology.links.get? k with
  | none => exact SameNames.refl _
  | some l =>
    have hasc := hs.portsAscending
    exact ⟨rfl, (column_unlinkPort (ascending_unlinkPort hasc _) _).trans (column_unlinkPort hasc _)⟩

theorem sameNames_portLeft (hs : TablesFit s.topology) (j : Nat) (st : Pairing) (oldLink : Option Nat) (why : TopoReason) :
    SameNames s.topology (portLeft s j st oldLink why).state.topology := by
  unfold portLeft
  cases he : s.topology.ports.get? j with
  | none => exact SameNames.refl _
  | some e => exact ⟨rfl, Table.column_set hs.portsAscending he portName rfl⟩

theorem sameNames_portsLeft (which : Nat × PortEntry → Bool) (st : Pairing) (oldLink : Nat × PortEntry → Option Nat) (why : TopoReason) :
    SameNames s.topology (portsLeft s which st oldLink why).state.topology := by
  refine ⟨rfl, ?_⟩
  simp only [portsLeft, Table.column, List.map_map]
  refine List.map_congr_left fun x _ => ?_
  simp only [Function.comp_apply]
  split <;> rfl

theorem sameNames_portEvaluated (hs : TablesFit s.topology) (j : Nat) (old : Option Pairing) (oldLink : Option Nat) :
    SameNames s.topology (portEvaluated s j old oldLink).state.topology := by
  have hasc := hs.portsAscending
  have htwice : ∀ f : PortEntry → PortEntry, (∀ e, portName (f e) = portName e) → ∀ a b,
      ((s.topology.ports.modify a f).modify b f).column portName = s.topology.ports.column portName := fun f hf a b =>
    (Table.column_modify (Table.ascending_modify hasc _ _) _ hf).trans (Table.column_modify hasc _ hf)
  unfold portEvaluated
  cases s.topology.ports.get? j with
  | none => exact SameNames.refl _
  | some p =>
    dsimp only
    split
    · exact ⟨rfl, Table.column_modify hasc j fun _ => rfl⟩
    · split
      · exact ⟨rfl, Table.column_modify hasc j fun _ => rfl⟩
      · split
        all_goals
          refine ⟨rfl, htwice _ ?_ _ _⟩
          exact fun _ => rfl

end

/-- Nodes and ports lie in their tables. -/
def Fits (s : State) : Prop := TablesFit s.topology

/-! ### The claimants of a port (R82) -/

theorem onDatabase_claimantsContradicted (j : Nat) : OnDatabase (fun s => claimantsContradicted s j) where
  hosted u s := by
    simp only [claimantsContradicted, hosted_topology]
    cases s.topology.ports.get? j <;> rfl
  steady s := by
    dsimp only [claimantsContradicted]
    split
    · exact Steady.refl s
    · exact (onDatabase_portsLeft _ _ _ _).steady s

/-- A port that counts in a sweep changes as by its move. -/
theorem sweepStep_eq {W : Nat × PortEntry → Bool} {st : Pairing} {oldLink : Nat × PortEntry → Option Nat} {why : TopoReason}
    {loop : Nat → Op} {i : Nat} {s : State} (hwf : s.topology.ports.wf Config.portEntries = true) :
    sweepStep W st oldLink why loop i s =
      match s.topology.ports.nextFrom i Config.portEntries (fun c e => W (c, e)) with
      | none => .done s []
      | some (c, e) =>
        if e.pairing = st then .done s [loop (c + 1)]
        else .done (setPairing s c st none)
          (portItems (setPairing s c st none) c (some e.pairing) (oldLink (c, e)) why ++ [loop (c + 1)]) := by
  unfold sweepStep
  cases hnext : s.topology.ports.nextFrom i Config.portEntries (fun c e => W (c, e)) with
  | none => rfl
  | some x =>
    obtain ⟨c, e⟩ := x
    have he := Table.get?_of_nextFrom hwf hnext
    have hmove := movePort_eq c st (oldLink (c, e)) why s
    simp only [movePort, he] at hmove
    obtain ⟨hstate, hitems⟩ := OpResult.done.inj hmove
    dsimp only
    rw [hitems, hstate]

/-- What a sweep for the claimants of a port keeps: the port itself, and the nodes. -/
structure ClaimsKept (s : State) (j : Nat) (p : PortEntry) (u : State) : Prop where
  fits : Fits u
  nodes : u.topology.nodes = s.topology.nodes
  port : u.topology.ports.get? j = some p

theorem claims_congr {s u : State} (h : u.topology.nodes = s.topology.nodes) (q p : PortEntry) : claims u q p = claims s q p := by
  simp only [claims, portNetId, h]

/-- A claimant of port `j` that port `j` does not claim. -/
def unreturned (s : State) (j : Nat) (p : PortEntry) (x : Nat × PortEntry) : Bool := x.1 ≠ j && claims s x.2 p && !claims s p x.2

theorem portLeft_ports {s : State} {c : Nat} {e : PortEntry} (he : s.topology.ports.get? c = some e) (st : Pairing)
    (l : Option Nat) (why : TopoReason) : (portLeft s c st l why).after.topology =
      { s.topology with ports := s.topology.ports.set c (e.unpaired st) } := by
  rw [Effect.after, withSaid_topology]
  simp only [portLeft, he]

/-- The claimants of a port that it does not claim are CONTRADICTED, one by one (R82). -/
theorem does_claimants (j : Nat) : Does Fits [.claimants j 0] (fun s => claimantsContradicted s j) := by
  refine Does.pointwise fun s hs => ?_
  cases hp : s.topology.ports.get? j with
  | none =>
    have heffect : claimantsContradicted s j = .none s := by simp only [claimantsContradicted, hp]
    refine Does.plainStep rfl (onDatabase_claimantsContradicted j) fun u hu => ?_
    subst hu
    simp only [runOp, recheckClaimants, hp, heffect]
    rfl
  | some p =>
    have hsweep : Does (ClaimsKept s j p) [.claimants j 0]
        (fun u => portsLeft u (leftFrom (unreturned s j p) .contradicted 0) .contradicted (fun x => x.2.link) .reported) := by
      refine does_sweep (loop := fun i => .claimants j i) (fun _ => rfl) (fun u hu => hu.fits.ports) (fun u i hu => ?_)
        (fun u c e l hu he hW => ?_) 0
      · have hclaims := claims_congr hu.nodes
        rw [sweepStep_eq hu.fits.ports]
        simp only [runOp, recheckClaimants, hu.port, nextClaimant, hclaims, unreturned] <;> rfl
      · have hcj : j ≠ c := fun h => by simp [unreturned, h] at hW
        refine ⟨(sameNames_portLeft hu.fits c _ l _).after.fit hu.fits, ?_, ?_⟩
        · rw [portLeft_ports he]
          exact hu.nodes
        · rw [portLeft_ports he]
          exact (Table.get?_set_ne _ _ hcj).trans hu.port
    refine (hsweep.weaken fun u hu => by subst hu; exact ⟨hs, rfl, hp⟩).congr fun u hu => ?_
    subst hu
    simp only [claimantsContradicted, hp]
    refine portsLeft_congr fun x _ => ?_
    simp [leftFrom, unreturned]

/-- A port that claims port `number` of the node with this network ID. -/
def naming (id : Id32) (number : Nat) (x : Nat × PortEntry) : Bool := x.2.reported.farId == id && x.2.reported.farPort == number

/-- The claimants of a removed port are UNANSWERED, one by one (R90). -/
theorem does_orphans (id : Id32) (number : Nat) (why : TopoReason) (former : Option (Nat × Nat)) :
    Does Fits [.orphans id number 0 why former] (fun s => portsLeft s (leftFrom (naming id number) .unanswered 0) .unanswered
      (fun x => formerLink former x.1 x.2) why) := by
  refine does_sweep (loop := fun i => .orphans id number i why former) (fun _ => rfl) (fun _ hu => TablesFit.ports hu) (fun u i hu => ?_)
    (fun u c e l hu _ _ => (sameNames_portLeft hu c _ l _).after.fit hu) 0
  rw [sweepStep_eq (TablesFit.ports hu)]
  simp only [runOp, orphanClaimants, naming] <;> rfl

/-! ### The removal of a port (R90) -/

/-- The link a port is in, if there is one, is retired. -/
def portUnlinked (l : Option Nat) (why : TopoReason) (s : State) : Effect :=
  match l with
  | none => .none s
  | some k => linkRetired s k why

/-- The entry of port `j` is freed, with its items (R90 step 2). -/
def portFreed (j : Nat) (e : PortEntry) (id : Id32) (why : TopoReason) (s : State) : Effect :=
  { state := { s with topology := { s.topology with
      nodes := s.topology.nodes.modify e.node (fun x => { x with portCount := x.portCount - 1 })
      ports := s.topology.ports.erase j } }
    said := [.ref (.port j), .ref (.node e.node), .ref .status,
      .post (.portState j id e.number e.reported.farId e.reported.farPort (some e.pairing) none e.link none why)] }

/-- The claimants of a removed port are UNANSWERED, the former partner from the link it held (R90 step 3). -/
def claimantsOrphaned (e : PortEntry) (id : Id32) (partner : Option Nat) (why : TopoReason) (s : State) : Effect :=
  portsLeft s (fun x => x.2.reported.farId == id && x.2.reported.farPort == e.number && x.2.pairing ≠ .unanswered) .unanswered
    (fun x => if partner = some x.1 then e.link else x.2.link) why

/-- Port `j` is removed, whose entry, network ID and partner are given. -/
def portGone (j : Nat) (e : PortEntry) (id : Id32) (partner : Option Nat) (why : TopoReason) (s : State) : Effect :=
  ((portUnlinked e.link why s).andThen (portFreed j e id why)).andThen (claimantsOrphaned e id partner why)

theorem portRemoved_some {s : State} {j : Nat} {e : PortEntry} (he : s.topology.ports.get? j = some e) (why : TopoReason) :
    portRemoved s why j = portGone j e (portNetId s e) (e.link.bind (otherEnd s j)) why s := by
  simp only [portRemoved, he]
  rfl

theorem portRemoved_none {s : State} {j : Nat} (he : s.topology.ports.get? j = none) (why : TopoReason) :
    portRemoved s why j = .none s := by
  simp only [portRemoved, he]

section
variable (j : Nat) (e : PortEntry) (id : Id32) (partner : Option Nat) (why : TopoReason)

theorem onDatabase_portUnlinked (l : Option Nat) : OnDatabase (portUnlinked l why) := by
  cases l with
  | none => exact OnDatabase.none
  | some k => exact onDatabase_linkRetired k why

theorem onDatabase_portFreed : OnDatabase (portFreed j e id why) := ⟨fun _ _ => rfl, fun _ => ⟨rfl, rfl, rfl, Nat.le_refl _⟩⟩

theorem onDatabase_claimantsOrphaned : OnDatabase (claimantsOrphaned e id partner why) := onDatabase_portsLeft _ _ _ _

theorem onDatabase_portGone : OnDatabase (portGone j e id partner why) :=
  ((onDatabase_portUnlinked why e.link).andThen (onDatabase_portFreed j e id why)).andThen (onDatabase_claimantsOrphaned e id partner why)

theorem onDatabase_portRemoved : OnDatabase (fun s => portRemoved s why j) where
  hosted u s := by
    cases he : s.topology.ports.get? j with
    | none =>
      have he' : (hosted u s).topology.ports.get? j = none := he
      rw [portRemoved_none he, portRemoved_none he']
      rfl
    | some e =>
      have he' : (hosted u s).topology.ports.get? j = some e := he
      rw [portRemoved_some he, portRemoved_some he']
      exact (onDatabase_portGone j e (portNetId s e) (e.link.bind (otherEnd s j)) why).hosted u s
  steady s := by
    cases he : s.topology.ports.get? j with
    | none => rw [portRemoved_none he]; exact Steady.refl s
    | some e => rw [portRemoved_some he]; exact (onDatabase_portGone j e _ _ why).steady s

end

theorem Table.get?_modify {α : Type} (t : Table α) (i j : Nat) (f : α → α) :
    (t.modify i f).get? j = if j = i then (t.get? j).map f else t.get? j := by
  unfold Table.modify
  by_cases h : j = i
  · subst h
    cases hj : t.get? j with
    | none => simp [hj]
    | some a => simp [Table.get?_set_self]
  · cases t.get? i with
    | none => simp [h]
    | some a => simp [h, Table.get?_set_ne]

/-- Port `j` is as it was but for its link. -/
def SamePort (j : Nat) (e : PortEntry) (t : Table PortEntry) : Prop := ∃ l, t.get? j = some { e with link := l }

theorem SamePort.unlinkPort {j : Nat} {e : PortEntry} {t : Table PortEntry} (h : SamePort j e t) (x : Option Nat) :
    SamePort j e (unlinkPort t x) := by
  obtain ⟨l, hl⟩ := h
  cases x with
  | none => exact ⟨l, hl⟩
  | some i =>
    unfold SamePort Machine.unlinkPort
    rw [Table.get?_modify]
    by_cases hi : j = i
    · exact ⟨none, by rw [if_pos hi, hl]; rfl⟩
    · exact ⟨l, by rw [if_neg hi, hl]⟩

/-- A port whose entry is about to be freed. -/
structure Leaving (j : Nat) (e : PortEntry) (id : Id32) (s : State) : Prop where
  fits : Fits s
  port : SamePort j e s.topology.ports
  netId : portNetId s e = id

theorem leaving_portUnlinked {s : State} {j : Nat} {e : PortEntry} {id : Id32} (h : Leaving j e id s) (l : Option Nat) (why : TopoReason) :
    Leaving j e id (portUnlinked l why s).after := by
  cases l with
  | none => exact h
  | some k =>
    refine ⟨(sameNames_linkRetired h.fits k why).after.fit h.fits, ?_, ?_⟩
    · simp only [portUnlinked, Effect.after, withSaid_topology, linkRetired]
      cases s.topology.links.get? k with
      | none => exact h.port
      | some l => exact (h.port.unlinkPort _).unlinkPort _
    · simp only [portUnlinked, portNetId, Effect.after, withSaid_topology, linkRetired]
      cases s.topology.links.get? k <;> exact h.netId

theorem names_portFreed {s : State} (hs : Fits s) (j : Nat) (e : PortEntry) (id : Id32) (why : TopoReason) :
    (portFreed j e id why s).after.topology.nodes.column nodeName = s.topology.nodes.column nodeName ∧
      (portFreed j e id why s).after.topology.ports.column portName = (s.topology.ports.column portName).erase j := by
  rw [Effect.after, withSaid_topology]
  exact ⟨Table.column_modify hs.nodesAscending _ fun _ => rfl, Table.column_erase _ _ _⟩

theorem TablesFit.without {t u : Topology} (h : TablesFit t) {j : Nat} (hnodes : u.nodes.column nodeName = t.nodes.column nodeName)
    (hports : u.ports.column portName = (t.ports.column portName).erase j) : TablesFit u :=
  ⟨by rw [← Table.wf_column _ nodeName, hnodes, Table.wf_column, h.nodes],
   by rw [← Table.wf_column _ portName, hports, Table.wf_erase (by rw [Table.wf_column, h.ports]) j]⟩

theorem fits_portFreed {s : State} (hs : Fits s) (j : Nat) (e : PortEntry) (id : Id32) (why : TopoReason) :
    Fits (portFreed j e id why s).after :=
  TablesFit.without hs (names_portFreed hs j e id why).1 (names_portFreed hs j e id why).2

/-- The entry is freed, and then the claimants are UNANSWERED (R90 steps 2 and 3). -/
theorem does_freePort (j : Nat) (e : PortEntry) (id : Id32) (partner : Option Nat) (why : TopoReason) (former : Option (Nat × Nat))
    (hformer : ∀ x : Nat × PortEntry, formerLink former x.1 x.2 = if partner = some x.1 then e.link else x.2.link) :
    Does (Leaving j e id) [.freePort j why e.link former]
      (fun s => (portFreed j e id why s).andThen (claimantsOrphaned e id partner why)) := by
  refine Does.stepThen (more := [.orphans id e.number 0 why former]) rfl (onDatabase_portFreed j e id why)
    (onDatabase_claimantsOrphaned e id partner why) (fun s hs => ?_) ((does_orphans id e.number why former).congr fun s _ => ?_)
    fun s hs => fits_portFreed hs.fits j e id why
  · obtain ⟨-, ⟨l, hl⟩, hid⟩ := hs
    have hid' : portNetId s { e with link := l } = id := hid
    simp only [runOp, freePort, hl, hid']
    rfl
  · have hold : (fun x : Nat × PortEntry => formerLink former x.1 x.2) = fun x => if partner = some x.1 then e.link else x.2.link :=
      funext hformer
    rw [hold]
    refine portsLeft_congr fun x _ => ?_
    simp [leftFrom, naming]

/-- The former partner of a port about to be removed, with the link that joined them. -/
def formerPartner (s : State) (j : Nat) (e : PortEntry) : Option (Nat × Nat) :=
  e.link.bind (fun k => (otherEnd s j k).map (fun m => (m, k)))

theorem formerLink_formerPartner (s : State) (j : Nat) (e : PortEntry) (x : Nat × PortEntry) :
    formerLink (formerPartner s j e) x.1 x.2 = if e.link.bind (otherEnd s j) = some x.1 then e.link else x.2.link := by
  unfold formerPartner
  cases e.link with
  | none => rfl
  | some k =>
    cases hpartner : otherEnd s j k with
    | none => simp [formerLink, hpartner]
    | some m => simp [formerLink, hpartner]

/-- The step that retires the link a port is in. -/
def unlinkOps (l : Option Nat) (why : TopoReason) : List Op :=
  match l with
  | none => []
  | some k => [.retireLink k why]

theorem does_unlink (P : State → Prop) (l : Option Nat) (why : TopoReason) : Does P (unlinkOps l why) (portUnlinked l why) := by
  cases l with
  | none => exact Does.nil P
  | some k => exact does_retireLink P k why

/-- A port is removed (R90). -/
theorem does_removePort (j : Nat) (why : TopoReason) : Does Fits [.removePort j why] (fun s => portRemoved s why j) := by
  refine Does.pointwise fun s hs => ?_
  cases he : s.topology.ports.get? j with
  | none =>
    refine Does.plainStep rfl (onDatabase_portRemoved j why) fun u hu => ?_
    subst hu
    rw [portRemoved_none he]
    simp only [runOp, removePort, he]
    rfl
  | some e =>
    refine Does.congr (f := portGone j e (portNetId s e) (e.link.bind (otherEnd s j)) why) ?_ fun u hu => by
      subst hu
      exact (portRemoved_some he why).symm
    have hfree := does_freePort j e (portNetId s e) (e.link.bind (otherEnd s j)) why (formerPartner s j e) (formerLink_formerPartner s j e)
    have hleaving : Leaving j e (portNetId s e) s := ⟨hs, ⟨e.link, he⟩, rfl⟩
    refine Does.becomes rfl (onDatabase_portGone j e (portNetId s e) (e.link.bind (otherEnd s j)) why)
      (more := unlinkOps e.link why ++ [.freePort j why e.link (formerPartner s j e)]) (fun u hu => ?_) ?_
    · subst hu
      simp only [runOp, removePort, he]
      cases hlink : e.link with
      | none => simp only [formerPartner, hlink]; rfl
      | some k => simp only [formerPartner, hlink]; rfl
    · refine ((does_unlink _ e.link why).andThen hfree (onDatabase_portUnlinked why e.link)
        ((onDatabase_portFreed _ _ _ _).andThen (onDatabase_claimantsOrphaned _ _ _ _)) fun u hu => ?_).congr fun u _ => ?_
      · subst hu
        exact leaving_portUnlinked hleaving e.link why
      · exact (Effect.andThen_assoc _ _ _).symm

/-- The names of the entries after a port is removed. -/
theorem names_portRemoved {s : State} (hs : Fits s) {j : Nat} {e : PortEntry} (he : s.topology.ports.get? j = some e) (why : TopoReason) :
    (portRemoved s why j).state.topology.nodes.column nodeName = s.topology.nodes.column nodeName ∧
      (portRemoved s why j).state.topology.ports.column portName = (s.topology.ports.column portName).erase j := by
  rw [portRemoved_some he]
  have hunlinked : SameNames s.topology (portUnlinked e.link why s).state.topology := by
    cases e.link with
    | none => exact SameNames.refl _
    | some k => exact sameNames_linkRetired hs k why
  obtain ⟨hnodes, hports⟩ := names_portFreed (s := (portUnlinked e.link why s).state) (hunlinked.fit hs) j e (portNetId s e) why
  rw [Effect.after, withSaid_topology] at hnodes hports
  have horphaned := sameNames_portsLeft (s := (portFreed j e (portNetId s e) why (portUnlinked e.link why s).state).state)
    (fun x => x.2.reported.farId == portNetId s e && x.2.reported.farPort == e.number && x.2.pairing ≠ .unanswered) .unanswered
    (fun x => if e.link.bind (otherEnd s j) = some x.1 then e.link else x.2.link) why
  exact ⟨horphaned.nodes.trans (hnodes.trans hunlinked.nodes), horphaned.ports.trans (hports.trans (by rw [hunlinked.ports]))⟩

/-! ### The removal of a node (R91) -/

/-- The entry of node `i` is freed, with its items (R91). -/
def nodeFreed (i : Nat) (id : Id32) (why : TopoReason) (count : Nat) (s : State) : Effect :=
  { state := { s with topology := { s.topology with nodes := s.topology.nodes.erase i } }
    said := [.ref (.node i), .ref .status, .post (.nodeRemoved i id why count)] }

theorem onDatabase_nodeFreed (i : Nat) (id : Id32) (why : TopoReason) (count : Nat) : OnDatabase (nodeFreed i id why count) :=
  ⟨fun _ _ => rfl, fun _ => ⟨rfl, rfl, rfl, Nat.le_refl _⟩⟩

theorem keysFrom_erase (t : Table Nat) (d k : Nat) : keysFrom (t.erase k) d (k + 1) = keysFrom t d (k + 1) := by
  unfold keysFrom
  congr 1
  induction t with
  | nil => rfl
  | cons x t ih =>
    by_cases h : x.1 = k
    · simpa [Table.erase, h] using ih
    · simp only [Table.erase, if_neg h, List.filter_cons, ih]

/-- The ports of a node, by their names. -/
theorem column_node (t : Table PortEntry) :
    t.column (·.node) = (t.column portName).column Prod.fst := (Table.column_column t portName Prod.fst).symm

/-- A node whose ports from index `j` upward, `xs`, are still to be removed. -/
structure NodeLeaving (i : Nat) (id : Id32) (j : Nat) (xs : List Nat) (s : State) : Prop where
  fits : Fits s
  ports : keysFrom (s.topology.ports.column (·.node)) i j = xs
  node : ∃ n, s.topology.nodes.get? i = some n ∧ n.netId = id

theorem does_freeNode (i j : Nat) (id : Id32) (why : TopoReason) (count : Nat) (xs : List Nat) :
    Does (NodeLeaving i id j xs) [.freeNode i why count] (nodeFreed i id why count) := by
  refine Does.plainStep rfl (onDatabase_nodeFreed i id why count) fun s hs => ?_
  obtain ⟨n, hn, hid⟩ := hs.node
  simp only [runOp, freeNode, hn, hid]
  rfl

/-- The ports of a node are removed, each to its end, and then its entry is freed (R91). -/
theorem does_removePorts (i : Nat) (id : Id32) (why : TopoReason) (xs : List Nat) (j count : Nat) :
    Does (NodeLeaving i id j xs) [.removePorts i j why count]
      (fun s => (Effect.each s (fun u j => portRemoved u why j) xs).andThen (nodeFreed i id why (count + xs.length))) := by
  induction xs generalizing j count with
  | nil =>
    refine Does.becomes rfl (OnDatabase.none.andThen (onDatabase_nodeFreed i id why count)) (fun s hs => ?_)
      (does_freeNode i j id why count [])
    simp only [runOp, removePorts, Table.nextFrom_nil hs.fits.ports hs.ports]
  | cons k xs ih =>
    have honEach : OnDatabase (fun s => Effect.each s (fun u j => portRemoved u why j) xs) :=
      OnDatabase.each (fun j => onDatabase_portRemoved j why) xs
    have honFreed := onDatabase_nodeFreed i id why (count + (k :: xs).length)
    have hcount : count + (k :: xs).length = count + 1 + xs.length := by rw [List.length_cons]; omega
    have heach : ∀ s, (Effect.each s (fun u j => portRemoved u why j) (k :: xs)).andThen (nodeFreed i id why (count + (k :: xs).length)) =
        (portRemoved s why k).andThen (fun u => (Effect.each u (fun u j => portRemoved u why j) xs).andThen
          (nodeFreed i id why (count + 1 + xs.length))) := fun s => by
      rw [Effect.each_cons, Effect.andThen_assoc, hcount]
    simp only [heach]
    rw [hcount] at honFreed
    refine Does.becomes rfl ((onDatabase_portRemoved k why).andThen (honEach.andThen honFreed))
      (more := [.removePort k why] ++ [.removePorts i (k + 1) why (count + 1)]) (fun s hs => ?_) ?_
    · obtain ⟨e, -, -, hnext⟩ := Table.nextFrom_cons hs.fits.ports hs.ports
      simp only [runOp, removePorts, hnext]
      rfl
    · refine ((does_removePort k why).weaken fun s hs => hs.fits).andThen (ih (k + 1) (count + 1)) (onDatabase_portRemoved k why)
        (honEach.andThen honFreed) fun s hs => ?_
      obtain ⟨e, he, -, -⟩ := Table.nextFrom_cons hs.fits.ports hs.ports
      obtain ⟨hnodes, hports⟩ := names_portRemoved hs.fits he why
      obtain ⟨n, hn, hid⟩ := hs.node
      rw [← withSaid_topology _ (portRemoved s why k).said] at hnodes hports
      have hasc : (s.topology.ports.column (·.node)).ascending := Table.ascending_column hs.fits.portsAscending _
      refine ⟨TablesFit.without hs.fits hnodes hports, ?_, ?_⟩
      · rw [Effect.after, column_node, hports, ← Table.column_erase, ← column_node, Table.column_erase,
          keysFrom_erase, keysFrom_succ hasc hs.ports]
      · have hname := Table.get?_column (withSaid (portRemoved s why k).state (portRemoved s why k).said).topology.nodes nodeName i
        rw [hnodes, Table.get?_column, hn, Option.map_some] at hname
        obtain ⟨n', hn', heq⟩ := Option.map_eq_some_iff.1 hname.symm
        exact ⟨n', hn', (congrArg Prod.fst heq).trans hid⟩

theorem onDatabase_nodeRemoved (i : Nat) (id : Id32) (why : TopoReason) (xs : List Nat) :
    OnDatabase (fun s => (Effect.each s (fun u j => portRemoved u why j) xs).andThen (nodeFreed i id why xs.length)) :=
  (OnDatabase.each (fun j => onDatabase_portRemoved j why) xs).andThen (onDatabase_nodeFreed i id why _)

theorem nodeRemoved_eq {s : State} {i : Nat} {n : NodeEntry} (hn : s.topology.nodes.get? i = some n) (why : TopoReason) :
    nodeRemoved s why i = (Effect.each s (fun u j => portRemoved u why j) (portsOf s i)).andThen
      (nodeFreed i n.netId why (portsOf s i).length) := by
  simp only [nodeRemoved, hn]
  rfl

/-- A node is removed (R91). -/
theorem does_removeNode {s : State} (hs : Fits s) {i : Nat} {n : NodeEntry} (hn : s.topology.nodes.get? i = some n) (why : TopoReason) :
    Does (· = s) [.removePorts i 0 why 0] (fun u => (Effect.each u (fun u j => portRemoved u why j) (portsOf s i)).andThen
      (nodeFreed i n.netId why (portsOf s i).length)) := by
  have h := does_removePorts i n.netId why (portsOf s i) 0 0
  rw [Nat.zero_add] at h
  refine h.weaken fun u hu => ?_
  subst hu
  exact ⟨hs, keysFrom_zero _ _ _, n, hn, rfl⟩

end Sys2Proof.Machine

/-!
PROOFS. The application of a loose record of each kind but PORT_REPORT (O45).
-/

namespace Sys2Proof.Machine

/-! ### The head record under its grant (R66) -/

/-- The head record leaves the queue, has its effect, and the grant is released. -/
theorem exec_looseApplied {s : State} {l : Line} {off : Nat} {rest : List QueuedRecord} (hgrant : TopologyGranted s .intake)
    (hqueue : s.intake.queue = ⟨l, off, .loose⟩ :: rest) {f : State → Effect} (hf : OnDatabase f)
    (hdoes : Does (· = withQueue s rest) [.applyRecord l off] f) (hcalm : Calm s (places s (f (withQueue s rest)).said))
    (hstrikes : (f (withQueue s rest)).state.paths.strikes.length ≤ 32) :
    exec .looseRecordApplication s = .next (f (withQueue s rest)).ended := by
  have hgranted := granted_of_topologyGranted hgrant hcalm
  obtain ⟨-, hwaitTopology, hwaitPath, -⟩ := hgrant
  have hstart : Calm (withQueue s rest) (0 + places (withQueue s rest) (f (withQueue s rest)).said) := by
    rw [Nat.zero_add]
    exact hcalm.withQueue rest
  have happly : applyLoose s = launch (withQueue s rest) .topology [.applyRecord l off, .topologyEnd] := by
    unfold applyLoose
    rw [hqueue]
    exact if_pos (by rw [hgranted]; rfl)
  have hend := hstart.onAfter hf
  have harb : (f (withQueue s rest)).after.arbiter = s.arbiter := (hf.steady_after _).arbiter
  have hdone : settleAll ((withQueue s rest).putOps .topology [.applyRecord l off, .topologyEnd]) =
      settleAll ((f (withQueue s rest)).after.putOps .topology [.topologyEnd]) := hdoes rfl hstart hstrikes [.topologyEnd]
  rw [exec_looseRecordApplication hcalm.released, happly, launch_calm hstart, hdone,
    settled_topologyIdle hend (by rw [harb, hwaitTopology]) (by rw [harb, hwaitPath])]
  rfl

/-- A record that is applied in one step. -/
theorem exec_looseApplied_once {s : State} {l : Line} {off : Nat} {rest : List QueuedRecord} (hgrant : TopologyGranted s .intake)
    (hqueue : s.intake.queue = ⟨l, off, .loose⟩ :: rest) {f : State → Effect} (hf : OnDatabase f)
    (happly : applyRecord l off (withQueue s rest) =
      .done (f (withQueue s rest)).state ((f (withQueue s rest)).said.map Said.op))
    (hcalm : Calm s (places s (f (withQueue s rest)).said)) (hstrikes : (f (withQueue s rest)).state.paths.strikes.length ≤ 32) :
    exec .looseRecordApplication s = .next (f (withQueue s rest)).ended :=
  exec_looseApplied hgrant hqueue hf (Does.plainStep rfl hf fun _ hu => hu ▸ happly) hcalm hstrikes

/-- An effect of items alone. -/
theorem onDatabase_said (items : List Said) : OnDatabase (fun s => { state := s, said := items }) := ⟨fun _ _ => rfl, Steady.refl⟩

/-! ### Entries by their names -/

theorem findNode_eq_none {s : State} {id : Id32} (h : ∀ x ∈ s.topology.nodes, x.2.netId ≠ id) : findNode s id = none :=
  List.find?_eq_none.2 fun x hx => by simpa using h x hx

theorem get?_of_findNode {s : State} (hs : Fits s) {id : Id32} {i : Nat} {n : NodeEntry} (h : findNode s id = some (i, n)) :
    s.topology.nodes.get? i = some n ∧ n.netId = id :=
  ⟨Table.get?_of_mem hs.nodesAscending (List.mem_of_find?_eq_some h), by simpa using List.find?_some h⟩

theorem get?_of_findPort {s : State} (hs : Fits s) {i number j : Nat} {e : PortEntry} (h : findPort s i number = some (j, e)) :
    s.topology.ports.get? j = some e ∧ e.node = i ∧ e.number = number := by
  have hmatch := List.find?_some h
  simp only [Bool.and_eq_true, beq_iff_eq] at hmatch
  exact ⟨Table.get?_of_mem hs.portsAscending (List.mem_of_find?_eq_some h), hmatch⟩

theorem lowestFree_eq_some {α : Type} {t : Table α} {b i : Nat} (h : LowestFree t b i) : t.lowestFree b = some i := by
  obtain ⟨hlt, hfree, hused⟩ := h
  refine List.find?_range_eq_some.2 ⟨by simp [Table.has, hfree], List.mem_range.2 hlt, fun j hj => ?_⟩
  simpa [Table.has, Option.isSome_iff_ne_none] using hused j hj

theorem lowestFree_eq_none {α : Type} {t : Table α} {b : Nat} (h : ∀ i < b, t.get? i ≠ none) : t.lowestFree b = none :=
  List.find?_range_eq_none.2 fun i hi => by simpa [Table.has, Option.isSome_iff_ne_none] using h i hi

theorem fits_of_tableLaw {s : State} (h : TableLaw s) (q : List QueuedRecord) : Fits (withQueue s q) := by
  obtain ⟨⟨hnodes, hports, -⟩, -⟩ := h
  exact ⟨hnodes, hports⟩

/-! ### NODE_REPORT (R75 to R77) -/

theorem onDatabase_setNode (i : Nat) (e : NodeEntry) (items : List Said) :
    OnDatabase (fun s => { state := setNode s i e, said := items }) :=
  ⟨fun _ _ => rfl, fun _ => ⟨rfl, rfl, rfl, Nat.le_refl _⟩⟩

theorem applyNodeReport_profile {s : State} {l : Line} {p : Profile} (hp : s.profiles.domains.get? (recByte8 l) = some p) (off : Nat) :
    applyNodeReport l off s = match findNode s (recId l) with
      | some (i, e) => updateNode s i e l
      | none =>
        match s.topology.nodes.lowestFree Config.nodeEntries with
        | none => recordFault s .tableFull l off
        | some i => .done (setNode s i (newNode s l)) [.ref (.node i), .post (.nodeAdded i (newNode s l)), .ref .status] := by
  refine if_neg ?_
  rw [Table.has, hp]
  exact Bool.false_ne_true

theorem domainProfile_of_get? {s : State} {d : Nat} {p : Profile} (hp : s.profiles.domains.get? d = some p) : domainProfile s d = p := by
  rw [domainProfile, Table.getD, hp, Option.getD_some]

/-- A known node with the fields of a report (R76, R77). -/
def reportedNode (e : NodeEntry) (l : Line) (p : Profile) (now : BitVec 64) : NodeEntry :=
  NodeEntry.mk e.netId (recByte8 l) (nodeRawPenalty l)
    (if e.domain = recByte8 l ∧ e.rawPenalty = nodeRawPenalty l then e.penalty else convert p (nodeRawPenalty l)) (nodeTransit l) now
    e.portCount

/-- What a changed node queues and posts (R77, R96). -/
def nodeChangedSaid (i : Nat) (e e' : NodeEntry) (l : Line) : List Said :=
  [.ref (.node i), .post (.nodeChanged i e' (decide (e.domain ≠ recByte8 l))
    (decide (e.rawPenalty ≠ nodeRawPenalty l ∨ e.penalty ≠ e'.penalty)) (decide (e.transit ≠ nodeTransit l)))]

section
variable {s : State} {i : Nat} {e : NodeEntry} {l : Line} {p : Profile}

theorem updateNode_same (h : (e.domain = recByte8 l ∧ e.rawPenalty = nodeRawPenalty l) ∧ e.transit = nodeTransit l) :
    updateNode s i e l = .done (setNode s i (reportedNode e l p s.arbiter.grantTime)) [] := by
  obtain ⟨⟨hdomain, hraw⟩, htransit⟩ := h
  have hnow : reportedNode e l p s.arbiter.grantTime = { e with refresh := s.arbiter.grantTime } := by
    simp [reportedNode, hdomain, hraw, ← htransit]
  rw [hnow]
  exact if_pos ⟨hdomain, hraw, htransit⟩

theorem updateNode_changed (hp : domainProfile s (recByte8 l) = p)
    (h : ¬ ((e.domain = recByte8 l ∧ e.rawPenalty = nodeRawPenalty l) ∧ e.transit = nodeTransit l)) :
    updateNode s i e l = .done (setNode s i (reportedNode e l p s.arbiter.grantTime))
      ((nodeChangedSaid i e (reportedNode e l p s.arbiter.grantTime) l).map Said.op ++
        if e.domain ≠ recByte8 l then [.reconvertPorts i 0] else []) := by
  have hnot : ¬ (e.domain = recByte8 l ∧ e.rawPenalty = nodeRawPenalty l ∧ e.transit = nodeTransit l) := fun h' =>
    h ⟨⟨h'.1, h'.2.1⟩, h'.2.2⟩
  refine (if_neg hnot).trans ?_
  simp only [hp, nodeChangedSaid, Bool.decide_or]
  rfl

end

theorem newNode_eq {s : State} {l : Line} {p : Profile} (hp : domainProfile s (recByte8 l) = p) : newNode s l =
    NodeEntry.mk (recId l) (recByte8 l) (nodeRawPenalty l) (convert p (nodeRawPenalty l)) (nodeTransit l) s.arbiter.grantTime 0 := by
  rw [newNode, hp]
  rfl

theorem onDatabase_portsRederived (p : Profile) (i : Nat) : OnDatabase (fun s => portsRederived s p i) := by
  have hlink : ∀ l, OnDatabase (portLinkRederived l) := fun l => by
    cases l with
    | none => exact OnDatabase.none
    | some k => exact onDatabase_linkRederived k
  have hconverted : ∀ j e, OnDatabase (portConverted p j e) := fun j e => ⟨fun _ _ => rfl, fun _ => ⟨rfl, rfl, rfl, Nat.le_refl _⟩⟩
  have hport : ∀ j, OnDatabase (fun s => portRederived p s j) := fun j => by
    refine ⟨fun u s => ?_, fun s => ?_⟩
    · simp only [portRederived, hosted_topology]
      cases s.topology.ports.get? j with
      | none => rfl
      | some e => exact ((hconverted j e).andThen (hlink e.link)).hosted u s
    · dsimp only [portRederived]
      split
      · exact Steady.refl s
      · exact ((hconverted j _).andThen (hlink _)).steady s
  refine ⟨fun u s => ?_, fun s => ?_⟩
  · simp only [portsRederived_eq, hosted_topology]
    exact (OnDatabase.each hport _).hosted u s
  · simp only [portsRederived_eq]
    exact (OnDatabase.each hport _).steady s

/-- The ports of a node are brought into line with the profile of its domain (R77). -/
theorem does_reconvertPorts (p : Profile) (i d : Nat) :
    Does (fun s => Fits s ∧ (s.topology.nodes.column (·.domain)).get? i = some d ∧ domainProfile s d = p) [.reconvertPorts i 0]
      (fun s => portsRederived s p i) :=
  fun _ _ ⟨hs, hd, hp⟩ hcalm _ rest => settled_portsRederived .topology hs hd hp hcalm rest

/-! ### Withdrawals and refreshes (R68, R89 to R91) -/

theorem applyRecord_portReport {l : Line} (h : recKindCode l = 2) (off : Nat) (s : State) :
    applyRecord l off s = applyPortReport l off s := by
  simp only [applyRecord, recKind, h]

theorem applyRecord_portWithdraw {l : Line} (h : recKindCode l = 3) (off : Nat) (s : State) :
    applyRecord l off s = applyPortWithdraw l s := by
  simp only [applyRecord, recKind, h]

theorem applyRecord_nodeWithdraw {l : Line} (h : recKindCode l = 4) (off : Nat) (s : State) :
    applyRecord l off s = applyNodeWithdraw l s := by
  simp only [applyRecord, recKind, h]

/-- A port lies in a domain exactly when its node is in use there. -/
theorem has_and_portDomain_iff (s : State) (e : PortEntry) (d : Nat) :
    (s.topology.nodes.has e.node = true ∧ portDomain s e = d) ↔ (s.topology.nodes.get? e.node).map (·.domain) = some d := by
  unfold portDomain Table.has
  cases s.topology.nodes.get? e.node <;> simp

theorem onDatabase_refreshDomain (d : Nat) : OnDatabase (fun s => { state := refreshDomain s d, said := [] }) :=
  ⟨fun _ _ => rfl, fun _ => ⟨rfl, rfl, rfl, Nat.le_refl _⟩⟩

/-- The nodes and ports of a domain are refreshed (R68). -/
theorem refreshDomain_eq (s : State) (d : Nat) : refreshDomain s d = { s with topology := { s.topology with
    nodes := s.topology.nodes.map (fun x => (x.1, if x.2.domain = d then { x.2 with refresh := s.arbiter.grantTime } else x.2))
    ports := s.topology.ports.map (fun x => (x.1,
      if (s.topology.nodes.get? x.2.node).map (·.domain) = some d then { x.2 with refresh := s.arbiter.grantTime } else x.2)) } } := by
  have hnodes : s.topology.nodes.map (fun x => if x.2.domain = d then (x.1, { x.2 with refresh := topoNow s }) else x) =
      s.topology.nodes.map (fun x => (x.1, if x.2.domain = d then { x.2 with refresh := s.arbiter.grantTime } else x.2)) :=
    List.map_congr_left fun x _ => by split <;> rfl
  have hports : s.topology.ports.map (fun x => if s.topology.nodes.has x.2.node ∧ portDomain s x.2 = d then
        (x.1, { x.2 with refresh := topoNow s }) else x) =
      s.topology.ports.map (fun x => (x.1, if (s.topology.nodes.get? x.2.node).map (·.domain) = some d then
        { x.2 with refresh := s.arbiter.grantTime } else x.2)) :=
    List.map_congr_left fun x _ => by
      simp only [has_and_portDomain_iff]
      split <;> rfl
  rw [refreshDomain, hnodes, hports]

/-- Settles O45: each kind of record by its own step, and the steps that follow it by their effects on the database. -/
theorem looseRecordApplied : Obligations.LooseRecordApplied := by
  rintro s l off _ _ rest hlaw hgrant hqueue rfl rfl
  intro nodes v unknown now gives only nodeNow
  have hfits : Fits v := fits_of_tableLaw hlaw rest
  have hsaid : ∀ items : List Said, applyRecord l off v = .done v (items.map Said.op) → only items := fun items h =>
    exec_looseApplied_once hgrant hqueue (onDatabase_said items) h
  have hprofile : ∀ p, s.profiles.domains.get? (recByte8 l) = some p → domainProfile v (recByte8 l) = p := fun p hp =>
    domainProfile_of_get? (s := v) hp
  refine ⟨fun hkind hp => ?_, fun p hkind hp hunknown => ⟨fun hfull => ?_, fun i hfree => ?_⟩, fun p i e hkind hp hfind => ?_,
    fun hkind hunknown => ?_, fun hkind hunknown => ?_, fun i n hkind hfind => ⟨fun hport => ?_, fun j e hport => ?_⟩,
    fun i n hkind hfind => ?_, fun hkind => ?_⟩
  · exact hsaid _ ((applyRecord_nodeReport hkind off v).trans (applyNodeReport_profileMissing (s := v) hp off))
  · refine hsaid _ ?_
    rw [applyRecord_nodeReport hkind, applyNodeReport_profile (s := v) hp, findNode_eq_none (s := v) hunknown]
    simp only [show v.topology.nodes.lowestFree Config.nodeEntries = none from lowestFree_eq_none hfull]
    rfl
  · intro e
    refine exec_looseApplied_once hgrant hqueue
      (onDatabase_setNode i e [.ref (.node i), .post (.nodeAdded i e), .ref .status]) ?_
    rw [applyRecord_nodeReport hkind, applyNodeReport_profile (s := v) hp, findNode_eq_none (s := v) hunknown]
    simp only [show v.topology.nodes.lowestFree Config.nodeEntries = some i from lowestFree_eq_some hfree,
      newNode_eq (hprofile p hp)]
    rfl
  · have happly : applyRecord l off v = updateNode v i e l := by
      rw [applyRecord_nodeReport hkind, applyNodeReport_profile (s := v) hp, show findNode v (recId l) = some (i, e) from hfind]
    refine ⟨fun hsame htransit => ?_, fun hchanged => ⟨fun hdomain => ?_, fun hdomain => ?_⟩⟩
    · exact exec_looseApplied_once hgrant hqueue (onDatabase_setNode i (reportedNode e l p now) [])
        (happly.trans (updateNode_same ⟨hsame, htransit⟩))
    · refine exec_looseApplied_once hgrant hqueue
        (onDatabase_setNode i (reportedNode e l p now) (nodeChangedSaid i e (reportedNode e l p now) l)) ?_
      rw [happly, updateNode_changed (hprofile p hp) hchanged, if_neg (not_not_intro hdomain), List.append_nil]
      rfl
    · have honChange := onDatabase_setNode i (reportedNode e l p now) (nodeChangedSaid i e (reportedNode e l p now) l)
      have hnode := (get?_of_findNode hfits hfind).1
      refine exec_looseApplied hgrant hqueue (honChange.andThen (onDatabase_portsRederived p i))
        (Does.stepThen rfl honChange (onDatabase_portsRederived p i) (fun u hu => ?_) (does_reconvertPorts p i (recByte8 l))
          fun u hu => ?_)
      · subst hu
        refine happly.trans ((updateNode_changed (hprofile p hp) hchanged).trans ?_)
        rw [if_pos hdomain]
        rfl
      · subst hu
        refine ⟨?_, ?_, ?_⟩
        · refine ⟨?_, ?_⟩ <;> rw [Effect.after, withSaid_topology]
          · exact Table.wf_set hfits.nodes (Table.get?_lt hfits.nodes hnode) _
          · exact hfits.ports
        · rw [Effect.after, withSaid_topology, Table.get?_column]
          exact congrArg (Option.map _) (Table.get?_set_self _ _ _)
        · rw [domainProfile, Effect.after, withSaid_profiles]
          exact hprofile p hp
  · refine hsaid _ ?_
    rw [applyRecord_portReport hkind, applyPortReport, findNode_eq_none (s := v) hunknown]
    rfl
  · refine hsaid [] ?_
    rcases hkind with hkind | hkind
    · rw [applyRecord_portWithdraw hkind, applyPortWithdraw, findNode_eq_none (s := v) hunknown]
      rfl
    · rw [applyRecord_nodeWithdraw hkind, applyNodeWithdraw, findNode_eq_none (s := v) hunknown]
      rfl
  · refine hsaid [] ?_
    rw [applyRecord_portWithdraw hkind, applyPortWithdraw, show findNode v (recId l) = some (i, n) from hfind]
    simp only [show findPort v i (recByte8 l) = none from hport]
    rfl
  · refine exec_looseApplied hgrant hqueue (onDatabase_portRemoved j .withdrawn) (Does.becomes (more := [.removePort j .withdrawn]) rfl
      (onDatabase_portRemoved j .withdrawn) (fun u hu => ?_) ((does_removePort j .withdrawn).weaken fun u hu => hu ▸ hfits))
    subst hu
    simp only [runOp]
    rw [applyRecord_portWithdraw hkind, applyPortWithdraw, show findNode v (recId l) = some (i, n) from hfind]
    simp only [show findPort (withQueue s rest) i (recByte8 l) = some (j, e) from hport]
  · have hnode := (get?_of_findNode hfits hfind).1
    have honRemoved := onDatabase_nodeRemoved i n.netId .withdrawn (portsOf v i)
    have hdoes : Does (· = v) [.applyRecord l off] (fun u => (Effect.each u (fun u j => portRemoved u .withdrawn j) (portsOf v i)).andThen
        (nodeFreed i n.netId .withdrawn (portsOf v i).length)) := by
      refine Does.becomes rfl honRemoved (fun u hu => ?_) (does_removeNode hfits hnode .withdrawn)
      subst hu
      simp only [runOp]
      rw [applyRecord_nodeWithdraw hkind, applyNodeWithdraw, show findNode v (recId l) = some (i, n) from hfind]
    show gives (nodeRemoved v .withdrawn i)
    rw [nodeRemoved_eq hnode]
    exact exec_looseApplied hgrant hqueue honRemoved hdoes
  · intro refreshed
    have hrefreshed : refreshed = refreshDomain v (recByte8 l) := (refreshDomain_eq v (recByte8 l)).symm
    rw [hrefreshed]
    exact exec_looseApplied_once hgrant hqueue (onDatabase_refreshDomain (recByte8 l)) (applyRecord_domainRefresh hkind off v)

end Sys2Proof.Machine

/-!
PROOFS. The application of a PORT_REPORT (O46).
-/

namespace Sys2Proof.Machine

/-! ### The union of two SRLG lists (R99) -/

theorem mem_insertId (x y : Id32) (l : List Id32) : y ∈ insertId x l ↔ y = x ∨ y ∈ l := by
  induction l with
  | nil => simp [insertId]
  | cons z l ih =>
    unfold insertId
    split
    · simp
    · split
      · next h => simp [h]
      · simp only [List.mem_cons, ih]
        exact or_left_comm

theorem rising_insertId {l : List Id32} (h : l.Pairwise (fun x y => x.toNat < y.toNat)) (x : Id32) :
    (insertId x l).Pairwise (fun x y => x.toNat < y.toNat) := by
  induction l with
  | nil => simp [insertId]
  | cons z l ih =>
    obtain ⟨hz, hl⟩ := List.pairwise_cons.1 h
    unfold insertId
    split
    · next hlt => exact List.pairwise_cons.2 ⟨List.forall_mem_cons.2 ⟨hlt, fun y hy => hlt.trans (hz y hy)⟩, h⟩
    · next hle =>
      split
      · exact h
      · next hne =>
        refine List.pairwise_cons.2 ⟨fun y hy => ?_, ih hl⟩
        rcases (mem_insertId x y l).1 hy with rfl | hy
        · have : y.toNat ≠ z.toNat := fun heq => hne (BitVec.eq_of_toNat_eq heq)
          omega
        · exact hz y hy

theorem srlgUnion_spec (a b : List Id32) :
    (srlgUnion a b).Pairwise (fun x y => x.toNat < y.toNat) ∧ ∀ x, x ∈ srlgUnion a b ↔ x ∈ a ∨ x ∈ b := by
  have hfold : ∀ (l acc : List Id32), acc.Pairwise (fun x y => x.toNat < y.toNat) →
      (l.foldl (fun acc x => insertId x acc) acc).Pairwise (fun x y => x.toNat < y.toNat) ∧
        ∀ x, x ∈ l.foldl (fun acc x => insertId x acc) acc ↔ x ∈ l ∨ x ∈ acc := fun l => by
    induction l with
    | nil => exact fun acc h => ⟨h, fun x => by simp⟩
    | cons y l ih =>
      intro acc h
      obtain ⟨hrising, hmem⟩ := ih (insertId y acc) (rising_insertId h y)
      refine ⟨hrising, fun x => ?_⟩
      rw [List.foldl_cons, hmem, mem_insertId, List.mem_cons]
      tauto
  obtain ⟨hrising, hmem⟩ := hfold (a ++ b) [] List.Pairwise.nil
  exact ⟨hrising, fun x => by rw [srlgUnion, hmem]; simp⟩

/-! ### A port placed anew (R81, R82, R84, R87) -/

/-- A reference is queued. -/
theorem does_ref (P : State → Prop) (r : Ref) : Does P [.ref r] (fun s => { state := s, said := [.ref r] }) :=
  fun _ _ _ hcalm _ rest => settled_said .topology [.ref r] rest hcalm

theorem onDatabase_setPort (j : Nat) (e : PortEntry) (items : List Said) :
    OnDatabase (fun s => { state := setPort s j e, said := items }) :=
  ⟨fun _ _ => rfl, fun _ => ⟨rfl, rfl, rfl, Nat.le_refl _⟩⟩

/-- Port `j`, in no pair, is evaluated, and then its claimants (R81, R82). -/
def portPlaced (j : Nat) (old : Option Pairing) (oldLink : Option Nat) (s : State) : Effect :=
  (portEvaluated s j old oldLink).andThen (fun u => claimantsContradicted u j)

theorem onDatabase_portPlaced (j : Nat) (old : Option Pairing) (oldLink : Option Nat) : OnDatabase (portPlaced j old oldLink) :=
  (onDatabase_portEvaluated j old oldLink).andThen (onDatabase_claimantsContradicted j)

theorem does_portPlaced (j : Nat) (old : Option Pairing) (oldLink : Option Nat) :
    Does (fun s => Fits s ∧ Unpaired j s) [.evaluate j old oldLink, .claimants j 0] (portPlaced j old oldLink) :=
  ((does_evaluate j old oldLink).weaken fun _ hs => hs.2).andThen (does_claimants j) (onDatabase_portEvaluated j old oldLink)
    (onDatabase_claimantsContradicted j) fun _ hs => (sameNames_portEvaluated hs.1 j old oldLink).after.fit hs.1

/-- A port without a pair has been stored. -/
theorem placeable_of_stored {s u : State} (hs : Fits s) {j : Nat} (hj : j < Config.portEntries) {e : PortEntry}
    (he : e.pairing = .unanswered) (hnodes : u.topology.nodes.wf Config.nodeEntries = true)
    (hports : u.topology.ports = s.topology.ports.set j e) : Fits u ∧ Unpaired j u := by
  refine ⟨⟨hnodes, by rw [hports]; exact Table.wf_set hs.ports hj e⟩, fun p hp => ?_⟩
  rw [hports, Table.get?_set_self] at hp
  rw [← Option.some.inj hp, he]

/-! ### A re-pointed port leaves its pair (R87) -/

/-- The link of a PAIRED port. -/
def pairLink (e : PortEntry) : Option Nat :=
  match e.pairing with
  | .paired => e.link
  | .waiting | .unanswered | .contradicted => none

/-- The partner of a port that is PAIRED or WAITING. -/
def pairPartner (s : State) (j : Nat) (e : PortEntry) : Option Nat :=
  match e.pairing with
  | .paired => e.link.bind (otherEnd s j)
  | .waiting => (targetOf s e).map (·.1)
  | .unanswered | .contradicted => none

/-- The partner of a port that leaves its pair is CONTRADICTED. -/
def partnerLeft (m l : Option Nat) (s : State) : Effect :=
  match m with
  | none => .none s
  | some m => portLeft s m .contradicted l .reported

/-- The step of the partner. -/
def partnerOps (m l : Option Nat) : List Op :=
  match m with
  | none => []
  | some m => [.portMove m .contradicted l .reported]

/-- A pair is left whose link and partner are given. -/
def pairGone (l m : Option Nat) (s : State) : Effect := (portUnlinked l .claimChanged s).andThen (partnerLeft m l)

theorem pairLeft_eq (s : State) (j : Nat) (e : PortEntry) : pairLeft s j e = pairGone (pairLink e) (pairPartner s j e) s := by
  unfold pairLeft pairGone pairLink pairPartner
  cases e.pairing with
  | paired =>
    cases e.link with
    | none => rfl
    | some k =>
      dsimp only [Option.bind_some]
      cases otherEnd s j k <;> rfl
  | waiting =>
    dsimp only
    cases targetOf s e <;> rfl
  | unanswered | contradicted => rfl

theorem leavePair_eq (s : State) (j : Nat) (e : PortEntry) :
    leavePair s j e = unlinkOps (pairLink e) .claimChanged ++ partnerOps (pairPartner s j e) (pairLink e) := by
  have hpartner : linkPartner s j = otherEnd s j := rfl
  unfold leavePair pairLink pairPartner
  rw [hpartner]
  cases e.pairing with
  | paired =>
    cases e.link with
    | none => rfl
    | some k =>
      dsimp only [Option.bind_some]
      cases otherEnd s j k <;> rfl
  | waiting =>
    dsimp only
    cases targetOf s e <;> rfl
  | unanswered | contradicted => rfl

section
variable (l m : Option Nat)

theorem onDatabase_partnerLeft : OnDatabase (partnerLeft m l) := by
  cases m with
  | none => exact OnDatabase.none
  | some m => exact onDatabase_portLeft m .contradicted l .reported

theorem onDatabase_pairGone : OnDatabase (pairGone l m) := (onDatabase_portUnlinked .claimChanged l).andThen (onDatabase_partnerLeft l m)

theorem does_partnerOps (P : State → Prop) : Does P (partnerOps m l) (partnerLeft m l) := by
  cases m with
  | none => exact Does.nil P
  | some m => exact does_portMove P m .contradicted l .reported

theorem does_pairGone (P : State → Prop) : Does P (unlinkOps l .claimChanged ++ partnerOps m l) (pairGone l m) :=
  (does_unlink P l .claimChanged).andThen (does_partnerOps l m fun _ => True) (onDatabase_portUnlinked .claimChanged l)
    (onDatabase_partnerLeft l m) fun _ _ => trivial

theorem sameNames_pairGone {s : State} (hs : Fits s) : SameNames s.topology (pairGone l m s).state.topology := by
  have hunlinked : SameNames s.topology (portUnlinked l .claimChanged s).state.topology := by
    cases l with
    | none => exact SameNames.refl _
    | some k => exact sameNames_linkRetired hs k .claimChanged
  cases m with
  | none => exact hunlinked
  | some m =>
    exact hunlinked.trans (sameNames_portLeft (s := (portUnlinked l .claimChanged s).state) (hunlinked.fit hs) m .contradicted l .reported)

end

/-! ### The fields a report gives (R83, R86, R87) -/

/-- A port of node `i` as report `l` gives it, under the profile of its domain. -/
def reportedPort (l : Line) (p : Profile) (now : BitVec 64) (i number : Nat) (state : Pairing) (link : Option Nat) : PortEntry :=
  { node := i, number, reported := portReported l, nu := convert p (portRaw l), foreign := mapForeign p (portMask l)
    clipped := mapClipped p (portMask l), refresh := now, pairing := state, link }

theorem portProfile_eq {s : State} {e : PortEntry} {n : NodeEntry} (h : s.topology.nodes.get? e.node = some n) :
    portProfile s e = domainProfile s n.domain := by
  rw [portProfile, portDomain, h]
  rfl

/-- What stands while port `j` of node `i` is re-pointed. -/
structure Repointing (v u : State) : Prop where
  names : SameNames v.topology u.topology
  profiles : u.profiles = v.profiles
  arbiter : u.arbiter = v.arbiter

/-- A re-pointed port takes the reported fields, and is in no pair (R87 step 3). -/
theorem repointPort_eq {v u : State} (h : Repointing v u) {j i : Nat} {e : PortEntry} {n : NodeEntry} {l : Line}
    (he : v.topology.ports.get? j = some e) (hnode : e.node = i) (hn : v.topology.nodes.get? i = some n) :
    repointPort j (portReported l) u = .done (setPort u j
      (reportedPort l (domainProfile v n.domain) v.arbiter.grantTime i e.number .unanswered none)) [] := by
  obtain ⟨e', he', hnode', hnumber⟩ := h.names.port he
  obtain ⟨n', hn', -, hdomain⟩ := h.names.node hn
  have hprofile : portProfile u e' = domainProfile v n.domain := by
    rw [portProfile_eq (n := n') (by rw [hnode', hnode, hn']), domainProfile, h.profiles, hdomain]
    rfl
  simp only [repointPort, he', hprofile, topoNow, h.arbiter]
  rw [← hnode, ← hnode', ← hnumber]
  rfl

theorem onDatabase_stored (j : Nat) (e : PortEntry) : OnDatabase (fun s => Effect.none (setPort s j e)) := onDatabase_setPort j e []

/-- A port takes the fields of a report with another claim and is placed anew (R87). -/
theorem does_repoint {v : State} (hs : Fits v) {j i : Nat} {e : PortEntry} {n : NodeEntry} (l : Line)
    (he : v.topology.ports.get? j = some e) (hnode : e.node = i) (hn : v.topology.nodes.get? i = some n) :
    Does (Repointing v) ([.repoint j (portReported l)] ++ [.evaluate j (some e.pairing) e.link, .claimants j 0])
      (fun s => (Effect.none (setPort s j (reportedPort l (domainProfile v n.domain) v.arbiter.grantTime i e.number .unanswered none))).andThen
        (portPlaced j (some e.pairing) e.link)) := by
  have hrepoint : Does (Repointing v) [.repoint j (portReported l)] (fun s => Effect.none (setPort s j
      (reportedPort l (domainProfile v n.domain) v.arbiter.grantTime i e.number .unanswered none))) :=
    Does.plainStep rfl (onDatabase_stored j _) fun _ hu => repointPort_eq hu he hnode hn
  exact hrepoint.andThen (does_portPlaced j (some e.pairing) e.link) (onDatabase_stored j _) (onDatabase_portPlaced j _ _)
    fun u hu => placeable_of_stored (s := u) (hu.names.fit hs) (Table.get?_lt hs.ports he) rfl
      (by rw [Effect.after, withSaid_topology]; exact (hu.names.fit hs).nodes) (by rw [Effect.after, withSaid_topology]; rfl)

/-- What follows a report with the same claim: in a link its attributes and its state, and the port's reference (R86). -/
def linkFollows (j : Nat) (link : Option Nat) (s : State) : Effect :=
  match link with
  | none => { state := s, said := [.ref (.port j)] }
  | some k => ((linkRederived s k).andThen (fun u => linkStateRederived u k)).andThen (fun u => { state := u, said := [.ref (.port j)] })

theorem onDatabase_linkFollows (j : Nat) (link : Option Nat) : OnDatabase (linkFollows j link) := by
  cases link with
  | none => exact onDatabase_said _
  | some k => exact ((onDatabase_linkRederived k).andThen (onDatabase_linkStateRederived k)).andThen (onDatabase_said [.ref (.port j)])

theorem does_linkFollows (j : Nat) (e : PortEntry) (P : State → Prop) :
    Does P (linkUpdates e ++ [.ref (.port j)]) (linkFollows j e.link) := by
  unfold linkUpdates
  cases e.link with
  | none => exact does_ref P _
  | some k =>
    exact ((does_linkAttributes P k).andThen (does_linkState (fun _ => True) k) (onDatabase_linkRederived k)
      (onDatabase_linkStateRederived k) fun _ _ => trivial).andThen (does_ref (fun _ => True) _)
        ((onDatabase_linkRederived k).andThen (onDatabase_linkStateRederived k)) (onDatabase_said [.ref (.port j)]) fun _ _ => trivial

/-! ### PORT_REPORT (R84 to R88) -/

theorem names_iff (e : PortEntry) (l : Line) : e.names (portFarId l) (portFarPort l) ↔
    (portReported l).farId = e.reported.farId ∧ (portReported l).farPort = e.reported.farPort :=
  ⟨fun h => ⟨h.1.symm, h.2.symm⟩, fun h => ⟨h.1.symm, h.2.symm⟩⟩

section
variable {s : State} {l : Line} {off i : Nat} {n : NodeEntry}

theorem applyPortReport_known {j : Nat} {e : PortEntry} (hfind : findNode s (recId l) = some (i, n))
    (hport : findPort s i (recByte8 l) = some (j, e)) : applyPortReport l off s = updatePort s j e (portReported l) := by
  unfold applyPortReport
  rw [hfind]
  dsimp only
  rw [hport]

theorem applyPortReport_full (hfind : findNode s (recId l) = some (i, n)) (hport : findPort s i (recByte8 l) = none)
    (hfull : s.topology.ports.lowestFree Config.portEntries = none) : applyPortReport l off s = recordFault s .tableFull l off := by
  unfold applyPortReport
  rw [hfind]
  dsimp only
  rw [hport]
  dsimp only
  rw [hfull]

theorem applyPortReport_new {j : Nat} (hfind : findNode s (recId l) = some (i, n)) (hport : findPort s i (recByte8 l) = none)
    (hfree : s.topology.ports.lowestFree Config.portEntries = some j) : applyPortReport l off s =
      .done (setPortCount (setPort s j (newPort s i n l)) i (· + 1)) [.ref (.node i), .ref .status, .evaluate j none none, .claimants j 0] := by
  unfold applyPortReport
  rw [hfind]
  dsimp only
  rw [hport]
  dsimp only
  rw [hfree]

end

/-- A re-pointed port, from its report to its claimants (R87). -/
theorem does_repointed {v : State} (hs : Fits v) {l : Line} {off j i : Nat} {e : PortEntry} {n : NodeEntry}
    (he : v.topology.ports.get? j = some e) (hnode : e.node = i) (hn : v.topology.nodes.get? i = some n)
    (happly : applyRecord l off v = updatePort v j e (portReported l)) (hnames : ¬ e.names (portFarId l) (portFarPort l)) :
    Does (· = v) [.applyRecord l off] (fun s => (pairGone (pairLink e) (pairPartner v j e) s).andThen (fun s =>
      (Effect.none (setPort s j (reportedPort l (domainProfile v n.domain) v.arbiter.grantTime i e.number .unanswered none))).andThen
        (portPlaced j (some e.pairing) e.link))) := by
  have honGone := onDatabase_pairGone (pairLink e) (pairPartner v j e)
  have honPlaced := (onDatabase_stored j
    (reportedPort l (domainProfile v n.domain) v.arbiter.grantTime i e.number .unanswered none)).andThen
      (onDatabase_portPlaced j (some e.pairing) e.link)
  refine Does.becomes rfl (honGone.andThen honPlaced) (fun u hu => ?_)
    ((does_pairGone (pairLink e) (pairPartner v j e) (· = v)).andThen (does_repoint hs l he hnode hn) honGone honPlaced fun u hu => ?_)
  · subst hu
    have hdiffers : portReported l ≠ e.reported := fun h => hnames ((names_iff e l).2 ⟨by rw [h], by rw [h]⟩)
    refine happly.trans ((if_neg hdiffers).trans ((if_neg fun h => hnames ((names_iff e l).2 h)).trans ?_))
    rw [leavePair_eq]
    rfl
  · subst hu
    exact ⟨(sameNames_pairGone _ _ hs).after, (honGone.steady_after _).profiles, (honGone.steady_after _).arbiter⟩

/-- Settles O46: a report of each kind is its own composition of the effects above; the derivation of attributes is by definition, and
the union of the lists is a sorted set. -/
theorem portReportApplied : Obligations.PortReportApplied := by
  refine ⟨?_, fun s p q => ⟨_, (srlgUnion_spec _ _).1, (srlgUnion_spec _ _).2, rfl, rfl⟩⟩
  rintro s l off i n _ rest hlaw hgrant hqueue hkind - hfind rfl
  intro v port gives portNow
  have hfits : Fits v := fits_of_tableLaw hlaw rest
  obtain ⟨hn, -⟩ := get?_of_findNode (s := v) hfits hfind
  have hrecord := applyRecord_portReport hkind off v
  refine ⟨fun j e hport => ?_, fun hport => ⟨fun hfull => ?_, fun j hfree => ?_⟩⟩
  · obtain ⟨he, hnode, -⟩ := get?_of_findPort (s := v) hfits hport
    have happly : applyRecord l off v = updatePort v j e (portReported l) := hrecord.trans (applyPortReport_known hfind hport)
    have hprofile : portProfile v e = domainProfile s n.domain := portProfile_eq (n := n) (by rw [hnode, hn])
    refine ⟨fun hsame => ?_, fun hdiffers hnames => ?_, fun hnames => ?_⟩
    · exact exec_looseApplied_once hgrant hqueue (onDatabase_setPort j { e with refresh := s.arbiter.grantTime } [])
        (happly.trans (if_pos hsame.symm))
    · have hupdated : updatePort v j e (portReported l) =
          .done (setPort v j (port e.number e.pairing e.link)) (linkUpdates e ++ [.ref (.port j)]) := by
        refine (if_neg (Ne.symm hdiffers)).trans ((if_pos ((names_iff e l).1 hnames)).trans ?_)
        have hfields : ({ e.withReport (domainProfile s n.domain) (portReported l) with refresh := s.arbiter.grantTime } : PortEntry) =
            port e.number e.pairing e.link := by
          show _ = reportedPort l (domainProfile s n.domain) s.arbiter.grantTime i e.number e.pairing e.link
          rw [← hnode]
          rfl
        rw [hprofile]
        exact congrArg (fun x => OpResult.done (setPort v j x) _) hfields
      have hstored := onDatabase_stored j (port e.number e.pairing e.link)
      have hfollows := onDatabase_linkFollows j e.link
      have hgives : gives ((Effect.none (portNow v j (port e.number e.pairing e.link))).andThen (linkFollows j e.link)) :=
        exec_looseApplied hgrant hqueue (hstored.andThen hfollows) (Does.stepThen rfl hstored hfollows
          (fun u hu => by subst hu; exact happly.trans hupdated) (does_linkFollows j e fun _ => True) fun _ _ => trivial)
      refine ⟨fun hlink => ?_, fun k hlink => ?_⟩
      · rw [hlink] at hgives
        exact hgives
      · rw [hlink] at hgives
        have hassoc : ((((Effect.none (portNow v j (port e.number e.pairing (some k)))).andThen (fun u => linkRederived u k)).andThen
            (fun u => linkStateRederived u k)).andThen (fun u => { state := u, said := [.ref (.port j)] })) =
            (Effect.none (portNow v j (port e.number e.pairing (some k)))).andThen (linkFollows j (some k)) := rfl
        rw [hassoc]
        exact hgives
    · have hdoes := does_repointed hfits he hnode hn happly hnames
      have hon := (onDatabase_pairGone (pairLink e) (pairPartner v j e)).andThen ((onDatabase_stored j
        (reportedPort l (domainProfile v n.domain) v.arbiter.grantTime i e.number .unanswered none)).andThen
          (onDatabase_portPlaced j (some e.pairing) e.link))
      rw [pairLeft_eq, Effect.andThen_assoc, Effect.andThen_assoc]
      exact exec_looseApplied hgrant hqueue hon hdoes
  · exact exec_looseApplied_once hgrant hqueue (onDatabase_said [.post (.recordFault .tableFull l off)])
      (hrecord.trans (applyPortReport_full hfind hport (lowestFree_eq_none hfull)))
  · intro counted made
    have happly := hrecord.trans (applyPortReport_new hfind hport (lowestFree_eq_some hfree))
    have honMade : OnDatabase (fun u => { state := setPortCount (setPort u j (port (recByte8 l) .unanswered none)) i (· + 1)
                                          said := [.ref (.node i), .ref .status] }) :=
      ⟨fun _ _ => rfl, fun _ => ⟨rfl, rfl, rfl, Nat.le_refl _⟩⟩
    have honPlaced := onDatabase_portPlaced j none none
    rw [Effect.andThen_assoc]
    refine exec_looseApplied hgrant hqueue (honMade.andThen honPlaced) (Does.stepThen rfl honMade honPlaced
      (fun u hu => by subst hu; exact happly) (does_portPlaced j none none) fun u hu => ?_)
    subst hu
    refine placeable_of_stored hfits hfree.1 (e := port (recByte8 l) .unanswered none) rfl ?_ ?_
    · rw [Effect.after, withSaid_topology]
      exact Table.wf_modify hfits.nodes i _
    · rw [Effect.after, withSaid_topology]
      rfl

end Sys2Proof.Machine

/-!
PROOFS. The ageing of entries and the release of link IDs (O44, O48, O49).
-/

namespace Sys2Proof.Machine

/-! ### ENTRY_DUE (R92, R93) -/

theorem nodeDue_iff (s : State) (now : BitVec 64) (n : NodeEntry) : nodeDue s now n = true ↔ IsDue s now n.domain n.refresh := by
  simp [nodeDue, ageReached, IsDue, and_assoc]

/-- A port of a node in use is due by the domain of that node and its own refresh time (R92). -/
theorem portDue_iff {s : State} {e : PortEntry} {n : NodeEntry} (hn : s.topology.nodes.get? e.node = some n) (now : BitVec 64) :
    portDue s now e = true ↔ IsDue s now n.domain e.refresh := by
  simp [portDue, portDomain, Table.has, hn, ageReached, IsDue, and_assoc]

/-- With nothing to do before it, an expiry is the work that is ready (R109). -/
theorem readyWork_expiry {s : State} (hcommand : NoCommandWork s) (howed : ∀ x ∈ s.topology.links, ¬ x.2.owed)
    (hdue : anyDue s s.control.time = true) : readyWork s = some .expiry := by
  have hnone : ¬ commandWork s = true := fun h => (commandWork_iff s).1 h hcommand
  unfold readyWork
  rw [if_neg hnone, firstOwed_none howed]
  exact if_pos hdue

theorem exec_entryDue {s : State} (h : s.inReset = false) (entry : EntryName) : exec (.entryDue entry) s = .next (noteDue entry s) :=
  live_released h (noteDue entry)

/-- Settles O44: the named entry is due exactly as R92 says, and with no other work before it an expiry is what the unit asks for. -/
theorem entryDueRequestsExpiry : Obligations.EntryDueRequestsExpiry := by
  intro s i j n e hr hrestart harb hn idle
  have hundue : ∀ {entry}, ¬ entryDueNow s entry = true → exec (.entryDue entry) s = .next s := fun h => by
    rw [exec_entryDue hr, noteDue, if_neg h]
  have hasks : ∀ {entry}, entryDueNow s entry = true → anyDue s s.control.time = true → idle →
      exec (.entryDue entry) s = .next (topologyAsks s .expiry) := by
    rintro entry hentry hany ⟨hidle, hcommand, howed⟩
    rw [exec_entryDue hr, noteDue, if_pos hentry, requestTopology_ready hrestart harb hidle (readyWork_expiry hcommand howed hany)]
  have hnode : entryDueNow s (.node i) = nodeDue s s.control.time n := by simp [entryDueNow, hn]
  have hport : s.topology.ports.get? j = some e → entryDueNow s (.port j) = portDue s s.control.time e := fun he => by
    simp [entryDueNow, he]
  refine ⟨fun hd => hundue (by rwa [hnode, nodeDue_iff]), fun hd => ?_, fun he hi hd => hundue ?_, fun he hi hd => ?_⟩
  · have hdue := (nodeDue_iff s _ n).2 hd
    exact hasks (hnode.trans hdue) ((anyDue_iff s _).2 (.inl ⟨(i, n), Table.get?_mem _ hn, hdue⟩))
  · subst hi
    rwa [hport he, portDue_iff hn]
  · subst hi
    have hdue := (portDue_iff hn _).2 hd
    exact hasks ((hport he).trans hdue) ((anyDue_iff s _).2 (.inr ⟨(j, e), Table.get?_mem _ he, hdue⟩))

/-! ### An operation under the topology unit's grant (R110) -/

/-- An operation launched under the grant has its effect, and the grant is released. -/
theorem launch_granted {v : State} {ops : List Op} {f : State → Effect} (hf : OnDatabase f) (hdoes : Does (· = v) ops f)
    (hwaitTopology : v.arbiter.waitTopology = false) (hwaitPath : v.arbiter.waitPath = false)
    (hcalm : Calm v (places v (f v).said)) (hstrikes : (f v).state.paths.strikes.length ≤ 32) :
    launch v .topology (ops ++ [.topologyEnd]) = (f v).ended := by
  have hstart : Calm v (0 + places v (f v).said) := by rwa [Nat.zero_add]
  have harb : (f v).after.arbiter = v.arbiter := (hf.steady_after v).arbiter
  rw [launch_calm hcalm, hdoes rfl hstart hstrikes [.topologyEnd],
    settled_topologyIdle (hstart.onAfter hf) (by rw [harb, hwaitTopology]) (by rw [harb, hwaitPath])]
  rfl

/-! ### EXPIRY (R94) -/

theorem exec_expiry {s : State} (h : s.inReset = false) : exec .expiry s = .next (expireNext s) := live_released h expireNext

section
variable {s : State} {n : Nat} (hgrant : TopologyGranted s .expiry) (hcalm : Calm s n)
include hgrant hcalm

theorem expireNext_node {x : Nat × NodeEntry} (h : firstDueNode s s.arbiter.grantTime = some x) :
    expireNext s = launch s .topology ([.removePorts x.1 0 .aged 0] ++ [.topologyEnd]) := by
  refine (if_pos (granted_of_topologyGranted hgrant hcalm)).trans ?_
  rw [show firstDueNode s (topoNow s) = some x from h]
  rfl

theorem expireNext_port {x : Nat × PortEntry} (hnode : firstDueNode s s.arbiter.grantTime = none)
    (h : firstDuePort s s.arbiter.grantTime = some x) :
    expireNext s = launch s .topology ([.removePort x.1 .aged] ++ [.topologyEnd]) := by
  refine (if_pos (granted_of_topologyGranted hgrant hcalm)).trans ?_
  rw [show firstDueNode s (topoNow s) = none from hnode, show firstDuePort s (topoNow s) = some x from h]
  rfl

/-- With nothing due the grant is released at once (R94). -/
theorem expireNext_none (hnode : firstDueNode s s.arbiter.grantTime = none) (hport : firstDuePort s s.arbiter.grantTime = none) :
    expireNext s = topologyIdle s := by
  refine (if_pos (granted_of_topologyGranted hgrant hcalm)).trans ?_
  rw [show firstDueNode s (topoNow s) = none from hnode, show firstDuePort s (topoNow s) = none from hport]
  obtain ⟨-, hwaitTopology, hwaitPath, -⟩ := hgrant
  exact releaseGrant_unasked (s := { s with topology := { s.topology with work := none } }) hwaitTopology hwaitPath

end

/-- The first entry of a table that passes a test. -/
theorem find?_first {α : Type} {t before after : List α} {x : α} {f : α → Bool} (ht : t = before ++ x :: after)
    (hbefore : ∀ y ∈ before, f y = false) (hx : f x = true) : t.find? f = some x := by
  have hnone : before.find? f = none := List.find?_eq_none.2 fun y hy => by simp [hbefore y hy]
  rw [ht, List.find?_append, hnone, List.find?_cons_of_pos hx]
  rfl

theorem find?_unfound {α : Type} {t : List α} {f : α → Bool} (h : ∀ y ∈ t, f y = false) : t.find? f = none :=
  List.find?_eq_none.2 fun y hy => by simp [h y hy]

/-- Settles O48: the lowest due entry is the first of its table that is due; the removals are those of a withdrawal. -/
theorem expiryResult : Obligations.ExpiryResult := by
  intro s hlaw hgrant due portIsDue gives
  have hfits : Fits s := fits_of_tableLaw hlaw s.intake.queue
  obtain ⟨-, hwaitTopology, hwaitPath, -⟩ := id hgrant
  refine ⟨fun hnodes hports hcalm _ => ?_, fun before i e after hsplit hbefore hdue hcalm hstrikes => ?_,
    fun before j e after hnodes hsplit hbefore hdue hcalm hstrikes => ?_⟩
  · rw [exec_expiry hcalm.released, expireNext_none hgrant hcalm (find?_unfound hnodes) (find?_unfound hports)]
    rfl
  · have hnode : s.topology.nodes.get? i = some e :=
      Table.get?_of_mem (x := (i, e)) hfits.nodesAscending (by rw [hsplit]; simp)
    rw [nodeRemoved_eq hnode] at hcalm hstrikes ⊢
    rw [exec_expiry hcalm.released, expireNext_node hgrant hcalm (find?_first hsplit hbefore hdue),
      launch_granted (onDatabase_nodeRemoved i e.netId .aged (portsOf s i)) (does_removeNode hfits hnode .aged)
        hwaitTopology hwaitPath hcalm hstrikes]
  · rw [exec_expiry hcalm.released, expireNext_port hgrant hcalm (find?_unfound hnodes) (find?_first hsplit hbefore hdue),
      launch_granted (onDatabase_portRemoved j .aged) ((does_removePort j .aged).weaken fun _ hu => hu ▸ hfits)
        hwaitTopology hwaitPath hcalm hstrikes]

/-! ### LINK_ID_RELEASE (R107, R108) -/

/-- Items are queued and posted. -/
theorem does_said (P : State → Prop) (items : List Said) : Does P (items.map Said.op) (fun s => { state := s, said := items }) :=
  fun _ _ _ hcalm _ rest => settled_said .topology items rest hcalm

/-- A step is done with its items and the strike events among them. -/
theorem Does.carried {P : State → Prop} {op : Op} {f : State → Effect} (hf : OnDatabase f)
    (h : ∀ s ops, P s → ∃ v xs es ys, f s = { state := sent v es, said := xs ++ ys } ∧
      runOp false .topology op (s.putOps .topology ops) =
        .done (v.putOps .topology ops) (xs.map Said.op ++ (es.map Op.event ++ ys.map Said.op))) : Does P [op] f := by
  intro s n hs hcalm hstrikes rest
  obtain ⟨v, xs, es, ys, heffect, hrun⟩ := h s (op :: rest) hs
  have hmoved := hcalm.onState hf
  rw [← places_congr (hf.control s), heffect] at hmoved
  rw [heffect] at hstrikes
  have hv : Calm v (n + places v (xs ++ ys)) :=
    ⟨hmoved.released, hmoved.threads, hmoved.waiters, hmoved.turn, hmoved.strikeWait, hmoved.room⟩
  rw [List.singleton_append, settled_step (hcalm.alone _) hrun, List.append_assoc, List.append_assoc,
    settled_sent xs es ys rest hv hstrikes, heffect]
  rfl

/-- With no port WAITING a freed ID is offered to none (R108). -/
theorem does_offer_none (k : Nat) :
    Does (fun s => ∀ x ∈ s.topology.ports, x.2.pairing ≠ .waiting) [.offer k] Effect.none := by
  refine Does.carried OnDatabase.none fun s ops hs => ⟨s, [], [], [], by rw [sent_nil]; rfl, ?_⟩
  have hnone : (s.putOps .topology ops).topology.ports.find? (fun x => x.2.pairing == .waiting) = none :=
    find?_unfound fun x hx => by simpa using hs x hx
  simp only [runOp, offerLink, hnone]
  rfl

/-- The first WAITING port of the table and its target. -/
structure FirstWaiting (j : Nat) (p : PortEntry) (m : Nat) (q : PortEntry) (s : State) : Prop where
  first : s.topology.ports.find? (fun x => x.2.pairing == .waiting) = some (j, p)
  target : targetOf s p = some (m, q)

/-- A freed ID goes to the first WAITING port and its target (R108). -/
theorem does_offer (k j : Nat) (p : PortEntry) (m : Nat) (q : PortEntry) :
    Does (FirstWaiting j p m q) [.offer k] (fun s => portsPaired s k j p m q (some p.pairing) p.link .linkFreed) := by
  refine Does.carried (onDatabase_portsPaired k j p m q (some p.pairing) p.link .linkFreed) fun s ops hs =>
    ⟨_, _, _, _, portsPaired_eq s k j p m q (some p.pairing) p.link .linkFreed, ?_⟩
  have hfirst : (s.putOps .topology ops).topology.ports.find? (fun x => x.2.pairing == .waiting) = some (j, p) := hs.first
  have htarget : targetOf (s.putOps .topology ops) p = some (m, q) := hs.target
  simp only [runOp, offerLink, hfirst, htarget, newLinkItems_eq, portItems_eq, List.append_assoc, List.map_append]
  rfl

theorem exec_linkIdRelease {s : State} {k n : Nat} (hgrant : TopologyGranted s (.release k)) (hcalm : Calm s n) :
    exec .linkIdRelease s =
      .next (launch (freeLink s k) .topology (([.ref (.link k), .ref .status] ++ [.offer k]) ++ [.topologyEnd])) := by
  have hgranted := granted_of_topologyGranted hgrant hcalm
  obtain ⟨-, -, -, hwork⟩ := hgrant
  refine (live_released hcalm.released releaseLink).trans (congrArg Host.Outcome.next ?_)
  simp only [releaseLink, hwork, hgranted, if_true]
  rfl

/-- What a link's freed entry queues (R107). -/
def freedSaid (k : Nat) : List Said := [.ref (.link k), .ref .status]

/-- A link's entry is freed with its items, and then its ID is offered with the effect `f` (R107, R108). -/
theorem exec_linkIdRelease_offered {s : State} {k : Nat} (hgrant : TopologyGranted s (.release k)) {f : State → Effect}
    (hf : OnDatabase f) {P : State → Prop} (hdoes : Does P [.offer k] f) (hP : P (withSaid (freeLink s k) (freedSaid k)))
    (hcalm : Calm s (places s ((Effect.mk (freeLink s k) (freedSaid k)).andThen f).said))
    (hstrikes : ((Effect.mk (freeLink s k) (freedSaid k)).andThen f).state.paths.strikes.length ≤ 32) :
    exec .linkIdRelease s = .next ((Effect.mk (freeLink s k) (freedSaid k)).andThen f).ended := by
  have honFreed := onDatabase_said (freedSaid k)
  have hoffer : Does (· = freeLink s k) ((freedSaid k).map Said.op ++ [.offer k])
      (fun u => (Effect.mk u (freedSaid k)).andThen f) :=
    (does_said _ (freedSaid k)).andThen hdoes honFreed hf fun u hu => hu ▸ hP
  have hfreed : Calm (freeLink s k) (places (freeLink s k) ((Effect.mk (freeLink s k) (freedSaid k)).andThen f).said) :=
    ⟨hcalm.released, hcalm.threads, hcalm.waiters, hcalm.turn, hcalm.strikeWait, hcalm.room⟩
  obtain ⟨-, hwaitTopology, hwaitPath, -⟩ := id hgrant
  rw [exec_linkIdRelease hgrant hcalm]
  exact congrArg Host.Outcome.next (launch_granted (honFreed.andThen hf) hoffer hwaitTopology hwaitPath hfreed hstrikes)

theorem Effect.andThen_none (x : Effect) : x.andThen Effect.none = x := congrArg (Effect.mk x.state) (List.append_nil _)

/-- Settles O49: the freed ID is offered once the link's items are queued, which leave the ports as they were. -/
theorem linkIdReleased : Obligations.LinkIdReleased := by
  intro s k _ hgrant gives freed
  refine ⟨fun hwaiting => ?_, fun before j p after m q hsplit hbefore hp htarget _ => ?_⟩
  · rw [← Effect.andThen_none freed]
    refine exec_linkIdRelease_offered hgrant OnDatabase.none (does_offer_none k) ?_
    rw [withSaid_topology]
    exact hwaiting
  · rw [← hp]
    refine exec_linkIdRelease_offered hgrant (onDatabase_portsPaired k j p m q (some p.pairing) p.link .linkFreed)
      (does_offer k j p m q) ⟨?_, ?_⟩
    · rw [withSaid_topology]
      exact find?_first hsplit (fun x hx => by simpa using hbefore x hx) (by simp [hp])
    · rw [← hosted_withSaid, targetOf_hosted]
      exact htarget

end Sys2Proof.Machine

/-!
PROOFS. The canonical form of the tables and their sizes (O9).
-/

namespace Sys2Proof.Machine

/-! ### The tables (R74, R79, R155) -/

/-- The parts of `TableLaw`, by name. -/
structure Tabled (s : State) : Prop where
  nodes : s.topology.nodes.wf Config.nodeEntries = true
  ports : s.topology.ports.wf Config.portEntries = true
  links : s.topology.links.ascending
  entries : s.paths.entries.wf Config.pathEntries = true
  generations : s.paths.generations.ascending
  reserved : s.paths.reserved.ascending
  pendingSlots : s.paths.pendingSlots.ascending
  records : s.notices.records.ascending
  domains : s.profiles.domains.ascending

theorem tableLaw_iff_tabled (s : State) : TableLaw s ↔ Tabled s := by
  refine ⟨fun h => ?_, fun h =>
    ⟨⟨h.nodes, h.ports, h.links⟩, ⟨h.entries, h.generations, h.reserved, h.pendingSlots⟩, h.records, h.domains⟩⟩
  obtain ⟨⟨hnodes, hports, hlinks⟩, ⟨hentries, hgenerations, hreserved, hslots⟩, hrecords, hdomains⟩ := h
  exact ⟨hnodes, hports, hlinks, hentries, hgenerations, hreserved, hslots, hrecords, hdomains⟩

/-- The tables that `TableLaw` speaks of. -/
def tables (s : State) : (Table NodeEntry × Table PortEntry × Table LinkEntry) ×
    (Table PathEntry × Table (BitVec 16) × Table SlotSet × Table PendingSlot) × Table NoticeRecord × Table Profile :=
  ((s.topology.nodes, s.topology.ports, s.topology.links),
    (s.paths.entries, s.paths.generations, s.paths.reserved, s.paths.pendingSlots), s.notices.records, s.profiles.domains)

/-- No table has changed. -/
theorem Tabled.same {s t : State} (h : Tabled s) (htables : tables t = tables s) : Tabled t := by
  simp only [tables, Prod.mk.injEq] at htables
  obtain ⟨⟨hnodes, hports, hlinks⟩, ⟨hentries, hgenerations, hreserved, hslots⟩, hrecords, hdomains⟩ := htables
  exact ⟨hnodes ▸ h.nodes, hports ▸ h.ports, hlinks ▸ h.links, hentries ▸ h.entries, hgenerations ▸ h.generations,
    hreserved ▸ h.reserved, hslots ▸ h.pendingSlots, hrecords ▸ h.records, hdomains ▸ h.domains⟩

/-- A change of the entries of a table, each in its place. -/
theorem Table.wf_map {α : Type} {t : Table α} {b : Nat} (h : t.wf b = true) (f : Nat × α → Nat × α) (hf : ∀ x, (f x).1 = x.1) :
    Table.wf (t.map f) b = true := by
  obtain ⟨hascending, hlt⟩ := (Table.wf_iff t b).1 h
  refine (Table.wf_iff _ b).2 ⟨Table.ascending_map hascending f hf, fun j hj => hlt j ?_⟩
  have hkeys : Table.keys (t.map f) = t.keys := by simp [Table.keys, Function.comp_def, hf]
  rwa [hkeys] at hj

theorem tabled_foldl {β : Type} {f : State → β → State} (hf : ∀ s b, Tabled s → Tabled (f s b)) (l : List β)
    {s : State} (h : Tabled s) :
    Tabled (l.foldl f s) := by
  induction l generalizing s with
  | nil => exact h
  | cons x xs ih => exact ih (hf s x h)

/-! ### What the shared operations do to them -/

section
variable {s : State} (h : Tabled s)
include h

theorem tabled_setNode {i : Nat} (hi : i < Config.nodeEntries) (e : NodeEntry) : Tabled (setNode s i e) :=
  { h with nodes := Table.wf_set h.nodes hi e }

theorem tabled_setPort {j : Nat} (hj : j < Config.portEntries) (e : PortEntry) : Tabled (setPort s j e) :=
  { h with ports := Table.wf_set h.ports hj e }

theorem tabled_setLink (k : Nat) (l : LinkEntry) : Tabled (setLink s k l) := { h with links := Table.ascending_set h.links k l }

theorem tabled_setPairing (j : Nat) (st : Pairing) (l : Option Nat) : Tabled (setPairing s j st l) :=
  { h with ports := Table.wf_modify h.ports j _ }

theorem tabled_setPortCount (i : Nat) (f : Nat → Nat) : Tabled (setPortCount s i f) := { h with nodes := Table.wf_modify h.nodes i _ }

theorem tabled_leaveLink (j : Option Nat) : Tabled (leaveLink s j) := by
  cases j with
  | none => exact h
  | some j => exact { h with ports := Table.wf_modify h.ports j _ }

theorem tabled_pairPorts (k j : Nat) (p : PortEntry) (i : Nat) (q : PortEntry) : Tabled (pairPorts s k j p i q) :=
  tabled_setPairing (tabled_setPairing (tabled_setLink h k _) j _ _) i _ _

theorem tabled_refreshDomain (d : Nat) : Tabled (refreshDomain s d) := by
  rw [refreshDomain_eq]
  exact { h with nodes := Table.wf_map h.nodes _ fun _ => rfl, ports := Table.wf_map h.ports _ fun _ => rfl }

theorem tabled_setReserved (k : Nat) (v : SlotSet) : Tabled (setReserved s k v) :=
  { h with reserved := Table.ascending_setD h.reserved k 0 v }

theorem tabled_reserveRoute (r : Route) : Tabled (reserveRoute s r) := tabled_foldl (fun _ k hu => tabled_setReserved hu k _) _ h

theorem tabled_unreserveAll (rs : List Route) : Tabled (unreserveAll s rs) :=
  tabled_foldl (fun _ _ hu => tabled_foldl (fun _ k hv => tabled_setReserved hv k _) _ hu) _ h

theorem tabled_replaceReservation (old : Option Route) (new : Route) : Tabled (replaceReservation s old new) :=
  tabled_foldl (fun _ k hu => tabled_setReserved hu k _) _ (tabled_foldl (fun _ k hu => tabled_setReserved hu k _) _ h)

theorem tabled_storePath {p : Nat} (hp : p < Config.pathEntries) (e : PathEntry) : Tabled (storePath s p e) := by
  refine { h with entries := Table.wf_set h.entries hp e, generations := ?_ }
  unfold storePath
  dsimp only
  split
  · exact Table.ascending_setD h.generations p 0 _
  · exact h.generations

theorem tabled_setGeneration (p : Nat) (g : BitVec 16) :
    Tabled { s with paths := { s.paths with generations := s.paths.generations.setD p 0 g } } :=
  { h with generations := Table.ascending_setD h.generations p 0 g }

theorem tabled_setRecord (p : Nat) (r : NoticeRecord) : Tabled (setRecord s p r) :=
  { h with records := Table.ascending_setD h.records p NoticeRecord.idle r }

theorem tabled_freePath (p : Nat) : Tabled (freePath s p) :=
  { h with entries := Table.wf_erase h.entries p, records := Table.ascending_setD h.records p NoticeRecord.idle _ }

theorem tabled_setAnswered {k : Nat} : Tabled (setAnswered s k) := by
  rcases setAnswered_cases s k with ⟨l, -, -, e⟩ | ⟨-, e⟩ <;> rw [e]
  · exact tabled_setLink h k _
  · exact h

theorem tabled_clearTopologyTables : Tabled (clearTopologyTables s) :=
  { h with nodes := rfl, ports := rfl, links := Table.ascending_nil }

theorem tabled_clearPathTables : Tabled (clearPathTables s) := { h with entries := rfl, reserved := Table.ascending_nil }

theorem tabled_restartTables : Tabled (restartTables s) :=
  { tabled_clearPathTables (tabled_clearTopologyTables h) with records := Table.ascending_nil }

theorem tabled_imageWrite : Tabled (imageWrite s) := by
  rcases imageWrite_cases s with ⟨-, e⟩ | ⟨-, -, e⟩ | ⟨-, -, e⟩ <;> rw [e] <;> exact h.same rfl

theorem tabled_finishRecord {r : Line} {o : CmdOutcome} : Tabled (finishRecord s r o) := tabled_imageWrite (h.same (by rfl))

theorem tabled_completeCommand {o : CmdOutcome} : Tabled (completeCommand s o) := by
  unfold completeCommand
  split
  · exact h
  · exact tabled_finishRecord h

theorem tabled_restartDone : Tabled (restartDone s) := by
  unfold restartDone
  repeat' split
  · exact h.same rfl
  · exact tabled_completeCommand h
  · exact h

theorem tabled_requestGrant {r : Requester} : Tabled (requestGrant s r) := by
  unfold requestGrant
  repeat' split
  all_goals exact h.same rfl

theorem tabled_releaseGrant : Tabled (releaseGrant s) := by
  unfold releaseGrant
  repeat' split
  all_goals exact h.same rfl

theorem tabled_endTopology : Tabled (endTopology s) := tabled_releaseGrant (h.same (by rfl))

/-! ### The steps of the notice unit and the intake unit -/

theorem tabled_withTurn (t : Thread) {f : State → OpResult} (hf : ∀ u, Tabled u → Tabled (f u).state) :
    Tabled (withTurn t s f).state := by
  unfold withTurn
  repeat' split
  · exact hf _ (h.same (by rfl))
  · exact hf s h
  · exact h.same rfl

theorem tabled_postNotice (t : Thread) (n : Notice) : Tabled (postNotice t n s).state := by
  refine tabled_withTurn h t fun u hu => ?_
  repeat' split
  all_goals exact hu.same rfl

theorem tabled_writeNotice (given : Bool) (t : Thread) (n : Notice) : Tabled (writeNotice given t n s).state := by
  unfold writeNotice
  repeat' split
  all_goals exact h.same rfl

theorem tabled_postPathState (t : Thread) (p : Nat) (why : PathReason) : Tabled (postPathState t p why s).state := by
  refine tabled_withTurn h t fun u hu => ?_
  dsimp only
  repeat' split
  · exact hu.same rfl
  · exact tabled_setRecord hu p _
  · exact (tabled_setRecord hu p _).same rfl

theorem tabled_writePathState (given : Bool) (t : Thread) (p : Nat) (last : Bool) : Tabled (writePathState given t p last s).state := by
  have hstop : ∀ {u : State}, Tabled u → Tabled (if last then endTurn u else u) := fun hu => by
    split
    · exact hu.same rfl
    · exact hu
  unfold writePathState
  dsimp only
  split
  · exact hstop h
  · next w _ =>
    split
    · exact hstop h
    · split
      · exact hstop (tabled_setRecord (s := noteStatus (writeRing s w (pathStateLine s p (noticeRecord s p)))) (h.same (by rfl)) p _)
      · exact h.same rfl

theorem tabled_drainDeferred (t : Thread) (p : Nat) : Tabled (drainDeferred t p s).state := by
  refine tabled_withTurn h t fun u hu => ?_
  repeat' split
  all_goals exact hu.same rfl

theorem tabled_acknowledgePath (t : Thread) (p : Nat) (gen : BitVec 16) : Tabled (acknowledgePath t p gen s).state := by
  refine tabled_withTurn h t fun u hu => ?_
  dsimp only
  repeat' split
  · exact hu
  · exact tabled_setRecord hu p _
  · exact hu
  · exact tabled_setRecord hu p _

theorem tabled_finishTaking (r : HandedRecord) : Tabled (finishTaking r s).state := by
  unfold finishTaking
  dsimp only
  repeat' split
  all_goals exact h.same rfl

theorem tabled_openNested : Tabled (openNested s).state := by
  unfold openNested
  split <;> exact h.same rfl

theorem tabled_stopBatch : Tabled (stopBatch s).state := by
  unfold stopBatch
  repeat' split
  all_goals exact h.same rfl

/-! ### The steps of the topology unit -/

theorem tabled_updateLinkAttributes (k : Nat) : Tabled (updateLinkAttributes k s).state := by
  unfold updateLinkAttributes
  dsimp only
  repeat' split
  · exact h
  · exact h
  · exact h
  · exact tabled_setLink h k _

theorem tabled_updateLinkState (k : Nat) : Tabled (updateLinkState k s).state := by
  unfold updateLinkState
  dsimp only
  repeat' split
  · exact h
  · exact h
  · exact tabled_setLink h k _
  · exact tabled_setLink h k _
  · exact h

theorem tabled_retireLink (k : Nat) (why : TopoReason) : Tabled (retireLink k why s).state := by
  unfold retireLink
  split
  · exact h
  · exact tabled_setLink (tabled_leaveLink (tabled_leaveLink h _) _) k _

theorem tabled_movePort (j : Nat) (st : Pairing) (oldLink : Option Nat) (why : TopoReason) :
    Tabled (movePort j st oldLink why s).state := by
  unfold movePort
  split
  · exact h
  · exact tabled_setPairing h j st none

theorem tabled_repointPort (j : Nat) (f : PortReported) : Tabled (repointPort j f s).state := by
  unfold repointPort
  split
  · exact h
  · next he => exact tabled_setPort h (Table.get?_lt h.ports he) _

theorem tabled_evaluatePort (j : Nat) (old : Option Pairing) (oldLink : Option Nat) : Tabled (evaluatePort j old oldLink s).state := by
  unfold evaluatePort
  split
  · exact h
  · split
    · exact tabled_setPairing h j _ none
    · split
      · exact tabled_setPairing h j _ none
      · split
        · exact h
        · split
          · exact tabled_setPairing (tabled_setPairing h j _ none) _ _ none
          · exact tabled_pairPorts h _ j _ _ _

theorem tabled_recheckClaimants (j i : Nat) : Tabled (recheckClaimants j i s).state := by
  unfold recheckClaimants
  repeat' split
  · exact h
  · exact h
  · exact h
  · exact tabled_setPairing h _ _ none

theorem tabled_removePort (j : Nat) (why : TopoReason) : Tabled (removePort j why s).state := by
  unfold removePort
  repeat' split
  all_goals exact h

theorem tabled_freePort (j : Nat) (why : TopoReason) (oldLink : Option Nat) (former : Option (Nat × Nat)) :
    Tabled (freePort j why oldLink former s).state := by
  unfold freePort
  split
  · exact h
  · next e _ => exact { tabled_setPortCount h e.node (· - 1) with ports := Table.wf_erase h.ports j }

theorem tabled_orphanClaimants (id : Id32) (number i : Nat) (why : TopoReason) (former : Option (Nat × Nat)) :
    Tabled (orphanClaimants id number i why former s).state := by
  unfold orphanClaimants
  repeat' split
  · exact h
  · exact h
  · exact tabled_setPairing h _ _ none

theorem tabled_removePorts (n j : Nat) (why : TopoReason) (count : Nat) : Tabled (removePorts n j why count s).state := by
  unfold removePorts
  split <;> exact h

theorem tabled_freeNode (n : Nat) (why : TopoReason) (count : Nat) : Tabled (freeNode n why count s).state := by
  unfold freeNode
  split
  · exact h
  · exact { h with nodes := Table.wf_erase h.nodes n }

theorem tabled_reconvertPorts (n j : Nat) : Tabled (reconvertPorts n j s).state := by
  unfold reconvertPorts
  split
  · exact h
  · next hnext => exact tabled_setPort h (Table.get?_lt h.ports (Table.get?_of_nextFrom h.ports hnext)) _

theorem tabled_reconvertNodes (d i : Nat) : Tabled (reconvertNodes d i s).state := by
  unfold reconvertNodes
  split
  · exact h
  · next hnext => exact tabled_setNode h (Table.get?_lt h.nodes (Table.get?_of_nextFrom h.nodes hnext)) _

theorem tabled_offerLink (k : Nat) : Tabled (offerLink k s).state := by
  unfold offerLink
  repeat' split
  · exact h
  · exact h
  · exact tabled_pairPorts h k _ _ _ _

theorem tabled_sendEvent (e : Strike) : Tabled (sendEvent e s).state := by
  unfold sendEvent
  split <;> exact h.same rfl

/-- Nodes and ports fit, as the effects of the topology unit ask. -/
theorem tabled_fits : Fits s := ⟨h.nodes, h.ports⟩

theorem tabled_applyNodeReport (l : Line) (off : Nat) : Tabled (applyNodeReport l off s).state := by
  unfold applyNodeReport
  repeat' split
  · exact h
  · next hfind =>
    have hi := Table.get?_lt h.nodes (get?_of_findNode (tabled_fits h) hfind).1
    unfold updateNode
    split <;> exact tabled_setNode h hi _
  · exact h
  · next hfree => exact tabled_setNode h (Table.lowestFree_lt hfree) _

theorem tabled_applyPortReport (l : Line) (off : Nat) : Tabled (applyPortReport l off s).state := by
  unfold applyPortReport
  repeat' split
  · exact h
  · next hfind =>
    have hj := Table.get?_lt h.ports (get?_of_findPort (tabled_fits h) hfind).1
    unfold updatePort
    repeat' split
    · exact tabled_setPort h hj _
    · exact tabled_setPort h hj _
    · exact h
  · exact h
  · next hfree => exact tabled_setPortCount (tabled_setPort h (Table.lowestFree_lt hfree) _) _ _

theorem tabled_applyRecord (l : Line) (off : Nat) : Tabled (applyRecord l off s).state := by
  unfold applyRecord
  split
  · exact tabled_applyNodeReport h l off
  · exact tabled_applyPortReport h l off
  · unfold applyPortWithdraw
    repeat' split
    all_goals exact h
  · unfold applyNodeWithdraw
    split <;> exact h
  · exact tabled_refreshDomain h _
  all_goals exact h

/-! ### The steps of the path table unit -/

theorem tabled_changePath {p : Nat} (hp : p < Config.pathEntries) (x : PathEntry × List Route) (why : PathReason) (next : Op) :
    Tabled (changePath s p x why next).state := tabled_storePath (tabled_unreserveAll h x.2) hp x.1

/-- A strike event changes a path in use. -/
theorem nextPath_lt {k p i : Nat} {e : PathEntry} (hnext : nextPath s k p = some (i, e)) : i < Config.pathEntries :=
  Table.get?_lt h.entries (Table.get?_of_nextFrom h.entries hnext)

theorem tabled_downPaths (k p : Nat) : Tabled (downPaths k p s).state := by
  unfold downPaths
  split
  · exact h
  · next hnext => exact tabled_changePath h (nextPath_lt h hnext) _ _ _

theorem tabled_upPaths (k p : Nat) : Tabled (upPaths k p s).state := by
  unfold upPaths
  split
  · exact h
  · next hnext => exact tabled_changePath h (nextPath_lt h hnext) _ _ _

theorem tabled_retirePaths (k p : Nat) : Tabled (retirePaths k p s).state := by
  unfold retirePaths
  split
  · exact h
  · next hnext => exact tabled_changePath h (nextPath_lt h hnext) _ _ _

theorem tabled_finishRetire (k : Nat) : Tabled (finishRetire k s).state :=
  tabled_setAnswered (s := setFlag (setReserved s k 0) k false) ((tabled_setReserved h k 0).same (by rfl))

/-! ### Every step of an operation -/

theorem tabled_runOp (given : Bool) (t : Thread) (op : Op) : Tabled (runOp given t op s).state := by
  cases op with
  | ref r =>
    rcases queueRef_cases given t r s with ⟨-, e⟩ | ⟨-, -, e⟩ | ⟨-, -, e⟩ <;> simp only [runOp, e] <;> exact h.same rfl
  | result m l =>
    rcases queueContent_cases given t (resultTarget s m) (resultLine s l) (some m) s with ⟨-, e⟩ | ⟨-, e⟩ <;>
      simp only [runOp, e] <;> exact h.same rfl
  | post n => exact tabled_postNotice h t n
  | notice n => exact tabled_writeNotice h given t n
  | postPath p why => exact tabled_postPathState h t p why
  | writePath p last => exact tabled_writePathState h given t p last
  | drain p => exact tabled_drainDeferred h t p
  | ackPath p gen => exact tabled_acknowledgePath h t p gen
  | takeFinish r => exact tabled_finishTaking h r
  | openBatch => exact tabled_openNested h
  | stopCheck => exact tabled_stopBatch h
  | applyRecord l off => exact tabled_applyRecord h l off
  | reconvertNodes d i => exact tabled_reconvertNodes h d i
  | reconvertPorts n j => exact tabled_reconvertPorts h n j
  | linkAttributes k => exact tabled_updateLinkAttributes h k
  | linkState k => exact tabled_updateLinkState h k
  | retireLink k why => exact tabled_retireLink h k why
  | portMove j st oldLink why => exact tabled_movePort h j st oldLink why
  | repoint j f => exact tabled_repointPort h j f
  | evaluate j old oldLink => exact tabled_evaluatePort h j old oldLink
  | claimants j i => exact tabled_recheckClaimants h j i
  | removePort j why => exact tabled_removePort h j why
  | freePort j why oldLink former => exact tabled_freePort h j why oldLink former
  | orphans id number i why former => exact tabled_orphanClaimants h id number i why former
  | removePorts n j why count => exact tabled_removePorts h n j why count
  | freeNode n why count => exact tabled_freeNode h n why count
  | offer k => exact tabled_offerLink h k
  | event e => exact tabled_sendEvent h e
  | topologyEnd => exact tabled_endTopology h
  | downPaths k p => exact tabled_downPaths h k p
  | upPaths k p => exact tabled_upPaths h k p
  | retirePaths k p => exact tabled_retirePaths h k p
  | retireDone k => exact tabled_finishRetire h k
  | pathGrantEnd => exact tabled_releaseGrant h
  | complete o => exact tabled_completeCommand h
  | restartTables => exact tabled_restartTables h
  | restartDone => exact tabled_restartDone h
  | unlock | requestFinish | operationEnd | restartCounts => exact h.same rfl

theorem tabled_micro (given : Bool) (t : Thread) : Tabled (micro given t s) := by
  refine micro_keeps Tabled (fun _ _ _ hu => hu.same (by rfl)) h (fun op rest s' push _ hrun => ?_) fun op rest s' _ hrun => ?_
  · have hop := tabled_runOp h given t op
    rwa [hrun] at hop
  · have hop := tabled_runOp h given t op
    rwa [hrun] at hop

theorem tabled_settleAll : Tabled (settleAll s) := settleAll_induction Tabled (fun _ t hu _ => tabled_micro hu false t) s h

theorem tabled_launch {t : Thread} {ops : List Op} : Tabled (launch s t ops) := tabled_settleAll (h.same (by rfl))

/-! ### The ports and the write-back queue -/

theorem tabled_judgeCommands {rs : List Line} : Tabled (judgeCommands rs s) := by
  induction rs generalizing s with
  | nil => exact h.same rfl
  | cons r rest ih =>
    unfold judgeCommands
    repeat' split
    · exact ih h
    · exact ih (tabled_imageWrite (h.same (by rfl)))
    · exact h.same rfl

theorem tabled_decodeWrite {w : LineWrite} {c : LineClass} : Tabled (decodeWrite s w c) := by
  unfold decodeWrite
  split
  · cases c with
    | anchorCommand => exact tabled_judgeCommands h
    | _ => exact h.same rfl
  · split
    · exact tabled_launch h
    · exact h

theorem tabled_acceptHead : Tabled (acceptHead s) := by
  unfold acceptHead
  repeat' split
  · exact h
  · exact h
  · exact tabled_decodeWrite (h.same (by rfl))

theorem tabled_acceptRead (a : Addr) (tag : Nat) : Tabled (acceptRead s a tag) := by
  unfold acceptRead
  repeat' split
  all_goals exact h.same rfl

theorem tabled_returnResponse (tag : Nat) (answer : ReadData) : Tabled (returnResponse s tag answer) := by
  unfold returnResponse
  split <;> exact h.same rfl

theorem tabled_releaseDue (entry : Nat) : Tabled (releaseDue s entry) := by
  unfold releaseDue
  repeat' split
  all_goals exact h.same rfl

/-- The issue of a result line marks or ends the pending state of its slot (R12, R139). -/
theorem tabled_resultIssued {m : ResultMark} : Tabled (resultIssued s m) := by
  rw [resultIssued_eq]
  refine { h with pendingSlots := ?_ }
  dsimp only
  unfold slotsIssued
  repeat' split
  · exact h.pendingSlots
  · exact h.pendingSlots
  · exact Table.ascending_erase h.pendingSlots _
  · exact Table.ascending_set h.pendingSlots _ _

theorem tabled_issueOldest : Tabled (issueOldest s) := by
  unfold issueOldest issueItem
  repeat' split
  · exact h
  · exact h.same rfl
  · exact tabled_resultIssued (h.same (by rfl))
  · exact h.same rfl

theorem tabled_giveRoom : Tabled (giveRoom s) := by
  unfold giveRoom
  split
  · split
    · exact tabled_settleAll (tabled_micro (s := dropWaiter s) (h.same (by rfl)) true _)
    · exact h
  · repeat' split
    all_goals exact h.same rfl
  · exact h

theorem tabled_giveResponseRoom : Tabled (giveResponseRoom s) := by
  unfold giveResponseRoom
  repeat' split
  all_goals exact h.same rfl

theorem tabled_giveStrikeRoom : Tabled (giveStrikeRoom s) := by
  unfold giveStrikeRoom
  split
  · exact tabled_settleAll (h.same (by rfl))
  · exact h

/-! ### The commands of the control unit -/

theorem tabled_onRecord (p : Line → Bool) {f : Line → State → State} (hf : ∀ r s, Tabled s → Tabled (f r s)) :
    Tabled (onRecord p f s) := by
  unfold onRecord
  repeat' split
  · exact h
  · exact tabled_judgeCommands (hf _ _ (h.same (by rfl)))
  · exact h

theorem tabled_performing {r : Line} {items : List Op} : Tabled (performing s r items) :=
  tabled_launch (h.same (by rfl))

theorem tabled_requestTopology : Tabled (requestTopology s) := by
  unfold requestTopology
  repeat' split
  · exact h
  · exact h
  · exact tabled_requestGrant (h.same (by rfl))

theorem tabled_setPhase {phase : Phase} : Tabled (setPhase s phase) := by
  unfold setPhase
  split <;> exact h.same rfl

theorem tabled_installProfile {d : Nat} {p : Profile} : Tabled (installProfile s d p) :=
  { h with domains := Table.ascending_set h.domains d p }

omit h in
/-- Idled records keep their places; those as at reset are no longer listed (R182). -/
theorem ascending_idleRecords {t : Table NoticeRecord} (ht : t.ascending) : (idleRecords t).ascending :=
  Table.ascending_filter (Table.ascending_map ht (fun x => (x.1, x.2.toIdle)) fun _ => rfl) _

theorem tabled_setReporting {en : Enables} : Tabled (setReporting s en) := by
  refine { h with records := ?_ }
  unfold setReporting
  dsimp only
  split
  · exact h.records
  · exact ascending_idleRecords h.records

theorem tabled_refreshAll : Tabled (refreshAll s) :=
  { h with nodes := Table.wf_map h.nodes _ fun _ => rfl, ports := Table.wf_map h.ports _ fun _ => rfl }

theorem tabled_clearPaths : Tabled (clearPaths s) := { tabled_clearPathTables h with records := ascending_idleRecords h.records }

theorem tabled_runSetWindows {r : Line} : Tabled (runSetWindows r s) := by
  unfold runSetWindows
  split
  · exact tabled_finishRecord h
  · split
    · exact tabled_finishRecord h
    · split
      · exact tabled_finishRecord h
      · exact tabled_performing (h.same (by rfl))

theorem tabled_runLoadProfile {r : Line} : Tabled (runLoadProfile r s) := by
  unfold runLoadProfile
  repeat' split
  · exact tabled_finishRecord h
  · exact tabled_finishRecord h
  · exact h.same rfl

theorem tabled_answerProfileRead (answer : ReadData) : Tabled (answerProfileRead answer s) := by
  have hanswered : Tabled (ownReadAnswered s) := h.same rfl
  unfold answerProfileRead
  dsimp only
  repeat' split
  · exact h
  · exact tabled_completeCommand hanswered
  · exact tabled_setPhase hanswered
  · exact tabled_completeCommand hanswered
  · exact tabled_completeCommand hanswered
  · exact hanswered

theorem tabled_installWaiting : Tabled (installWaiting s) := by
  unfold installWaiting
  repeat' split
  · exact h
  · exact tabled_requestTopology (tabled_setPhase (tabled_installProfile h))
  · exact tabled_completeCommand h
  · exact tabled_completeCommand (tabled_installProfile h)
  · exact h

theorem tabled_runLoadClasses {r : Line} : Tabled (runLoadClasses r s) := by
  unfold runLoadClasses
  repeat' split
  iterate 3 exact tabled_finishRecord h
  exact tabled_finishRecord (h.same (by rfl))

theorem tabled_runSetTiming {r : Line} : Tabled (runSetTiming r s) := tabled_finishRecord (h.same (by rfl))

theorem tabled_runSetReporting {r : Line} : Tabled (runSetReporting r s) := by
  unfold runSetReporting
  split
  · exact tabled_performing (tabled_setReporting h)
  · exact tabled_finishRecord (tabled_setReporting h)

theorem tabled_runStart {r : Line} : Tabled (runStart r s) := by
  unfold runStart
  split
  · exact tabled_finishRecord h
  · exact tabled_performing (s := setMode (refreshAll s) .run) ((tabled_refreshAll h).same (by rfl))

theorem tabled_stopIntake : Tabled (stopIntake s) := by
  unfold stopIntake
  split
  · exact tabled_launch h
  · exact h

theorem tabled_runStop {r : Line} : Tabled (runStop r s) := by
  unfold runStop
  split
  · exact tabled_finishRecord h
  · exact tabled_stopIntake (tabled_launch (h.same (by rfl)))

theorem tabled_endDrain : Tabled (endDrain s) := by
  unfold endDrain
  split
  · exact tabled_launch (h.same (by rfl))
  · exact h

theorem tabled_runClearTopology {r : Line} : Tabled (runClearTopology r s) := by
  unfold runClearTopology
  repeat' split
  · exact tabled_finishRecord h
  · exact tabled_finishRecord h
  · exact tabled_requestTopology (h.same (by rfl))

theorem tabled_runClearPaths {r : Line} : Tabled (runClearPaths r s) := by
  unfold runClearPaths
  split
  · exact tabled_finishRecord h
  · exact tabled_performing (tabled_clearPaths h)

theorem tabled_runRestart {r : Line} : Tabled (runRestart r s) :=
  tabled_launch (h.same (by rfl))

/-! ### The notice unit, the intake unit and the topology unit -/

theorem tabled_acknowledgeNext : Tabled (acknowledgeNext s) := by
  unfold acknowledgeNext
  repeat' split
  · exact h
  · exact h
  · exact tabled_launch (h.same (by rfl))

theorem tabled_placeReport (r : HandedRecord) : Tabled (placeReport s r).1 := by
  unfold placeReport
  repeat' split
  all_goals exact h.same rfl

theorem tabled_placeOpen (r : HandedRecord) : Tabled (placeOpen s r).1 := by
  unfold placeOpen
  repeat' split
  all_goals exact h.same rfl

theorem tabled_placeClose (r : HandedRecord) : Tabled (placeClose s r).1 := by
  unfold placeClose
  repeat' split
  all_goals exact h.same rfl

theorem tabled_placeRecord {r : HandedRecord} : Tabled (placeRecord s r).1 := by
  unfold placeRecord
  repeat' split
  · exact h
  · exact h
  · exact tabled_placeOpen h r
  · exact tabled_placeClose h r
  · exact tabled_placeReport h r

theorem tabled_takeRecord : Tabled (takeRecord s) := by
  unfold takeRecord
  repeat' split
  · exact h
  · exact h
  · exact tabled_launch (tabled_placeRecord (h.same (by rfl)))

theorem tabled_applyLoose : Tabled (applyLoose s) := by
  unfold applyLoose
  repeat' split
  · exact tabled_launch (h.same (by rfl))
  · exact h
  · exact h

theorem tabled_applyBatch : Tabled (applyBatch s) := by
  unfold applyBatch
  repeat' split
  · exact tabled_launch (h.same (by rfl))
  · exact h
  · exact h

theorem tabled_noteDue (e : EntryName) : Tabled (noteDue e s) := by
  unfold noteDue
  split
  · exact tabled_requestTopology h
  · exact h

theorem tabled_expireNext : Tabled (expireNext s) := by
  unfold expireNext
  repeat' split
  · exact tabled_launch h
  · exact tabled_launch h
  · exact tabled_endTopology h
  · exact h

theorem tabled_freeLink (k : Nat) : Tabled (freeLink s k) := { h with links := Table.ascending_erase h.links k }

theorem tabled_releaseLink : Tabled (releaseLink s) := by
  unfold releaseLink
  repeat' split
  · exact tabled_launch (tabled_freeLink h _)
  · exact h
  · exact h

theorem tabled_reconvert : Tabled (reconvert s) := by
  unfold reconvert
  repeat' split
  · exact tabled_launch h
  · exact h
  · exact h

theorem tabled_clearTopology : Tabled (clearTopology s) := by
  unfold clearTopology
  repeat' split
  · exact tabled_launch (tabled_clearTopologyTables h)
  · exact h
  · exact h

/-! ### The path table unit -/

theorem tabled_queueRequest (r : HandedRequest) : Tabled (queueRequest s r) :=
  { h with pendingSlots := Table.ascending_set h.pendingSlots r.slot _ }

theorem tabled_takeRequest : Tabled (takeRequest s) := by
  unfold takeRequest
  split
  · exact h
  · next r rest _ =>
    have htaken : Tabled { s with paths := { s.paths with handed := rest } } := h.same rfl
    split
    · exact h
    · dsimp only
      repeat' split
      · exact htaken
      · exact tabled_launch (h.same (by rfl))
      · exact tabled_launch (tabled_queueRequest htaken r)

theorem tabled_selectRestoration (p : Nat) : Tabled (selectRestoration s p) :=
  tabled_requestGrant (h.same (by rfl))

theorem tabled_selectWaiting {q : QueuedRequest} : Tabled (selectWaiting s q) :=
  tabled_launch (tabled_requestGrant (h.same (by rfl)))

theorem tabled_selectAnswered {q : QueuedRequest} {items : List Op} : Tabled (selectAnswered q s items) :=
  tabled_launch (h.same (by rfl))

omit h in
/-- A path that is named lies in the table (R148). -/
theorem namedPath_lt {r : Line} {p : Nat} {e : PathEntry} (hnamed : namedPath s r = some (p, e)) : p < Config.pathEntries := by
  unfold namedPath at hnamed
  split at hnamed
  · next hlt =>
    obtain ⟨e', -, hpair⟩ := Option.map_eq_some_iff.1 hnamed
    exact (Prod.mk.inj hpair).1 ▸ hlt
  · cases hnamed

theorem tabled_selectRelease {q : QueuedRequest} : Tabled (selectRelease s q) := by
  unfold selectRelease
  split
  · exact tabled_selectAnswered h
  · exact tabled_selectAnswered (tabled_freePath (tabled_unreserveAll h _) _)

theorem tabled_selectResume {q : QueuedRequest} : Tabled (selectResume s q) := by
  unfold selectResume
  repeat' split
  · exact tabled_selectAnswered h
  · next hnamed _ => exact tabled_selectAnswered (tabled_storePath h (namedPath_lt hnamed) _)
  · exact tabled_selectAnswered h

theorem tabled_selectRequest {q : QueuedRequest} : Tabled (selectRequest s q) := by
  unfold selectRequest
  repeat' split
  · exact tabled_selectAnswered h
  · exact tabled_selectWaiting h
  · exact tabled_selectWaiting h
  · exact tabled_selectAnswered h
  · exact tabled_selectWaiting h
  · exact tabled_selectRelease h
  · exact tabled_selectResume h
  · exact tabled_selectAnswered h

theorem tabled_selectNext : Tabled (selectNext s) := by
  unfold selectNext
  repeat' split
  · exact h
  · exact tabled_selectRestoration h _
  · exact tabled_selectRestoration h _
  · exact tabled_selectRequest (h.same (by rfl))
  · exact tabled_selectRequest (h.same (by rfl))
  · exact h

theorem tabled_startComputation {o : Operation} {i : Inputs} : Tabled (startComputation s o i) := h.same rfl

theorem tabled_dropRestoration {o : Operation} : Tabled (dropRestoration s o) := tabled_releaseGrant (h.same (by rfl))

theorem tabled_takeUpRequest {o : Operation} {q : QueuedRequest} : Tabled (takeUpRequest s o q) := by
  unfold takeUpRequest
  repeat' split
  · exact tabled_startComputation h
  · exact tabled_launch (h.same (by rfl))
  · exact tabled_startComputation h

theorem tabled_takeUpGrant : Tabled (takeUpGrant s) := by
  unfold takeUpGrant
  repeat' split
  · exact tabled_startComputation h
  · exact tabled_dropRestoration h
  · exact tabled_dropRestoration h
  · exact tabled_takeUpRequest h
  · exact h
  · exact h

theorem tabled_allocatePath {p : Nat} (hp : p < Config.pathEntries) (r : Line) (c : Computed) (primary : Route) :
    Tabled (allocatePath s p r c primary) := by
  have hbackup : ∀ {u : State}, Tabled u → Tabled (match c.backup with | some b => reserveRoute u b | none => u) := fun hu => by
    split
    · exact tabled_reserveRoute hu _
    · exact hu
  have hreserved := hbackup (tabled_reserveRoute h primary)
  exact tabled_storePath (tabled_setRecord (tabled_setGeneration hreserved p 0) p _) hp _

theorem tabled_endSetup {q : QueuedRequest} {c : Computed} : Tabled (endSetup s q c).1 := by
  unfold endSetup
  split
  · next hfree => exact tabled_allocatePath h (Table.lowestFree_lt hfree) _ c _
  · exact h

theorem tabled_endReroute {q : QueuedRequest} {c : Computed} : Tabled (endReroute s q c).1 := by
  unfold endReroute
  split
  · next hnamed _ => exact tabled_storePath (tabled_replaceReservation h _ _) (namedPath_lt hnamed) _
  · exact h

theorem tabled_endRestoration {p : Nat} {c : Computed} : Tabled (endRestoration s p c).1 := by
  unfold endRestoration
  split
  · exact h
  · next he =>
    have hp := Table.get?_lt h.entries he
    split
    · exact tabled_storePath (tabled_replaceReservation h _ _) hp _
    · exact tabled_storePath h hp _

theorem tabled_endItem {item : Item} {c : Computed} : Tabled (endItem s item c).1 := by
  unfold endItem
  split
  · exact tabled_endRestoration h
  · split
    · exact tabled_endSetup h
    · exact tabled_endReroute h
    all_goals exact h

theorem tabled_endComputation : Tabled (endComputation s) := by
  unfold endComputation
  repeat' split
  · exact tabled_launch (tabled_endItem (h.same (by rfl)))
  · exact h
  · exact h

theorem tabled_nextStrike {u : State} {kind : StrikeKind} {k : Nat} (hnext : nextStrike s kind = some (k, u)) : Tabled u := by
  unfold nextStrike at hnext
  split at hnext
  · cases hnext
  · split at hnext
    · cases hnext
      exact h.same rfl
    · cases hnext

theorem tabled_strikeDown : Tabled (strikeDown s) := by
  unfold strikeDown
  split
  · exact h
  · next hnext =>
    have hu := tabled_nextStrike h hnext
    split
    · exact hu
    · exact tabled_launch (hu.same (by rfl))

theorem tabled_strikeUp : Tabled (strikeUp s) := by
  unfold strikeUp
  split
  · exact h
  · next hnext =>
    have hu := tabled_nextStrike h hnext
    split
    · exact tabled_launch (hu.same (by rfl))
    · exact hu

theorem tabled_strikeRetire : Tabled (strikeRetire s) := by
  unfold strikeRetire
  split
  · exact h
  · next hnext => exact tabled_launch (tabled_nextStrike h hnext)

theorem tabled_releaseReset (straps : BitVec 8) : Tabled (releaseReset straps s) := h.same rfl

theorem tabled_tick : Tabled (tick s) := by
  unfold tick
  split <;> exact h.same rfl

end

/-! ### All commands -/

theorem tabled_assertReset (s : State) : Tabled (assertReset s) :=
  ⟨rfl, rfl, Table.ascending_nil, rfl, Table.ascending_nil, Table.ascending_nil, Table.ascending_nil, Table.ascending_nil,
    Table.ascending_nil⟩

theorem tabled_exec {c : Instr} {s t : State} (hs : Tabled s) (h : exec c s = .next t) : Tabled t := by
  have keeps : ∀ {f : State → State}, (∀ {s}, Tabled s → Tabled (f s)) → live s f = .next t → Tabled t := fun hf hlive =>
    live_keeps (R := fun u v => Tabled u → Tabled v) id (fun _ => hf) hlive hs
  have record : ∀ {p : Line → Bool} {f : Line → State → State}, (∀ {s}, Tabled s → ∀ {r}, Tabled (f r s)) →
      live s (onRecord p f) = .next t → Tabled t :=
    fun hf => keeps fun hu => tabled_onRecord hu _ fun _ _ hv => hf hv
  cases c with
  | resetAsserted =>
    cases h
    exact tabled_assertReset s
  | resetReleased straps =>
    cases h
    split
    · exact tabled_releaseReset hs straps
    · exact hs
  | writeAccepted presented =>
    cases presented with
    | none => exact keeps tabled_acceptHead h
    | some w =>
      simp only [exec, execWriteAccepted] at h
      split at h
      · exact keeps (fun {s} hu => tabled_acceptHead (s := present s w) (hu.same (by rfl))) h
      · cases h
  | readAccepted a tag =>
    simp only [exec, execReadAccepted] at h
    split at h
    · exact keeps (fun hu => tabled_acceptRead hu a tag) h
    · cases h
  | readResponse tag answer => exact keeps (fun hu => tabled_returnResponse hu tag answer) h
  | holdDeadline entry => exact keeps (fun hu => tabled_releaseDue hu entry) h
  | writeBackIssue => exact keeps tabled_issueOldest h
  | writeBackRoom => exact keeps tabled_giveRoom h
  | responseWrite => exact keeps tabled_giveResponseRoom h
  | strikeQueueRoom => exact keeps tabled_giveStrikeRoom h
  | unknownCommand => exact record (fun hu => tabled_finishRecord hu) h
  | setWindows => exact record tabled_runSetWindows h
  | loadProfile => exact record tabled_runLoadProfile h
  | profileReadResponse answer => exact keeps (fun hu => tabled_answerProfileRead hu answer) h
  | profileInstallation => exact keeps tabled_installWaiting h
  | profileReconversion => exact keeps tabled_reconvert h
  | loadClasses => exact record tabled_runLoadClasses h
  | setTiming => exact record tabled_runSetTiming h
  | setReporting => exact record tabled_runSetReporting h
  | start => exact record tabled_runStart h
  | stop => exact record tabled_runStop h
  | drainEnd => exact keeps tabled_endDrain h
  | clearTopology => exact record tabled_runClearTopology h
  | clearTopologyOperation => exact keeps tabled_clearTopology h
  | clearPaths => exact record tabled_runClearPaths h
  | restart => exact record tabled_runRestart h
  | acknowledgement => exact keeps tabled_acknowledgeNext h
  | intakeRecordTaking => exact keeps tabled_takeRecord h
  | topologyRequest => exact keeps tabled_requestTopology h
  | looseRecordApplication => exact keeps tabled_applyLoose h
  | batchApplication => exact keeps tabled_applyBatch h
  | entryDue entry => exact keeps (fun hu => tabled_noteDue hu entry) h
  | expiry => exact keeps tabled_expireNext h
  | linkIdRelease => exact keeps tabled_releaseLink h
  | requestTaking => exact keeps tabled_takeRequest h
  | selection => exact keeps tabled_selectNext h
  | grantTakeUp => exact keeps tabled_takeUpGrant h
  | computationEnd => exact keeps tabled_endComputation h
  | downEvent => exact keeps tabled_strikeDown h
  | upEvent => exact keeps tabled_strikeUp h
  | retireEvent => exact keeps tabled_strikeRetire h

/-- Settles O9: an entry is written where one stands, at a free index of its table, or at an index checked before. -/
theorem tablesKept : Obligations.TablesKept := by
  have hkeeps : Keeps Tabled := keeps_of_exec (fun _ _ hs => hs.same (by rfl)) (fun _ => tabled_tick) fun _ _ _ => tabled_exec
  intro s t hs hstep
  exact (tableLaw_iff_tabled t).2 (hkeeps s t ((tableLaw_iff_tabled s).1 hs) hstep)

end Sys2Proof.Machine

/-!
PROOFS. The grant of the database: requests and releases (O50).
-/

namespace Sys2Proof.Machine

/-! ### Requests and releases (R110, R111) -/

/-- A request of a free arbiter is granted at once (R110). -/
theorem requestGrant_free {s : State} (h : ArbiterFree s) (r : Requester) : requestGrant s r = { s with arbiter := heldBy s r } := by
  obtain ⟨hholder, htopology, hpath⟩ := h
  simp only [requestGrant, hholder, htopology, hpath, and_self, if_true]
  cases r <;> simp [grantTo, heldBy, htopology, hpath]

/-- A request waits while the database is held (R110). -/
theorem requestGrant_held {s : State} (h : s.arbiter.holder ≠ none) :
    requestGrant s .topology = { s with arbiter := { s.arbiter with waitTopology := true } } ∧
    requestGrant s .path = { s with arbiter := { s.arbiter with waitPath := true } } := by
  simp [requestGrant, h]

/-- At a release the waiting topology unit is granted, unless the path table unit waits and it is its turn (R111). -/
theorem releaseGrant_topology {s : State} (hwait : s.arbiter.waitTopology = true)
    (hturn : s.arbiter.waitPath = true → s.arbiter.last ≠ some .topology) :
    releaseGrant s = { s with arbiter := { heldBy s .topology with waitPath := s.arbiter.waitPath } } := by
  cases hpath : s.arbiter.waitPath with
  | false => simp [releaseGrant, hwait, hpath, grantTo, heldBy]
  | true => simp [releaseGrant, hwait, hpath, hturn hpath, grantTo, heldBy]

/-- At a release the waiting path table unit is granted, unless the topology unit waits and it is its turn (R111). -/
theorem releaseGrant_path {s : State} (hwait : s.arbiter.waitPath = true)
    (hturn : s.arbiter.waitTopology = true → s.arbiter.last = some .topology) :
    releaseGrant s = { s with arbiter := { heldBy s .path with waitTopology := s.arbiter.waitTopology } } := by
  cases htopology : s.arbiter.waitTopology with
  | false => simp [releaseGrant, hwait, htopology, grantTo, heldBy]
  | true => simp [releaseGrant, hwait, htopology, hturn htopology, grantTo, heldBy]

/-- Settles O50: a free arbiter grants, a held one lets wait, and a release grants by who waits and who was granted last. -/
theorem arbiterRules : Obligations.ArbiterRules := by
  intro s
  refine ⟨requestGrant_free, fun hholder => ?_, fun hholder => ?_, releaseGrant_unasked, fun htopology hpath => ?_,
    fun htopology hpath => ?_, fun htopology hpath => ⟨fun hlast => ?_, fun hlast => ?_⟩⟩
  · exact (requestGrant_held (by simp [hholder])).1
  · exact (requestGrant_held (by simp [hholder])).2
  · rw [releaseGrant_topology htopology (by simp [hpath]), hpath]
    rfl
  · rw [releaseGrant_path hpath (by simp [htopology]), htopology]
    rfl
  · rw [releaseGrant_path hpath fun _ => hlast, htopology]
  · rw [releaseGrant_topology htopology (by simp [hlast]), hpath]

end Sys2Proof.Machine

/-!
PROOFS. Strike events: what they do to one path, and to all paths through a link, with their items (O55).
-/

namespace Sys2Proof.Machine

/-! ### A path through a link (R162, R163, R166) -/

section
variable {e : PathEntry} {h : HeldRoute} {k : Nat}

theorem heldHas_iff (r : Option HeldRoute) (k : Nat) : heldHas r k = true ↔ ∃ h, r = some h ∧ k ∈ h.route.links := by
  cases r <;> simp [heldHas]

/-- A change of a path whose primary contains the link. -/
theorem changes_of_primary (hp : e.primary = some h) (hk : k ∈ h.route.links) :
    (∀ f, recount e k f = ({ e with primary := some (h.recount f) }, true)) ∧
    retireChange e k = ((primaryDropped { e with primary := none }).1, h.route :: (primaryDropped { e with primary := none }).2) := by
  have hheld : heldHas e.primary k = true := (heldHas_iff _ _).2 ⟨h, hp, hk⟩
  constructor
  · intro f
    rw [recount, if_pos hheld, hp, Option.map_some]
  · rw [retireChange, if_pos hheld, hp]
    rfl

/-- A change of a path whose backup contains the link, and not its primary. -/
theorem changes_of_backup (hb : e.backup = some h) (hp : ∀ g, e.primary = some g → k ∉ g.route.links) :
    (∀ f, recount e k f = ({ e with backup := some (h.recount f) }, false)) ∧
    retireChange e k = ((backupDropped { e with backup := none }).1, h.route :: (backupDropped { e with backup := none }).2) := by
  have hheld : ¬ heldHas e.primary k = true := fun hk => by
    obtain ⟨g, hg, hmem⟩ := (heldHas_iff _ _).1 hk
    exact hp g hg hmem
  constructor
  · intro f
    rw [recount, if_neg hheld, hb, Option.map_some]
  · rw [retireChange, if_neg hheld, hb]
    rfl

/-- A DOWN event moves the path when the route's count leaves 0 (R162, R164). -/
theorem downChange_eq {counted : Nat → PathEntry} {onPrimary : Bool}
    (hrecount : recount e k (· + 1) = (counted (h.struck + 1), onPrimary))
    (hstruck : ∀ n, struckOf (counted n) onPrimary = n) :
    downChange e k = if h.struck = 0 then struckMove (counted 1) onPrimary else (counted (h.struck + 1), []) := by
  by_cases h0 : h.struck = 0
  · simp only [downChange, hrecount, hstruck, h0, if_true]
  · simp only [downChange, hrecount, hstruck, h0, Nat.add_eq_right, if_false]

/-- An UP event moves the path when the route's count comes back to 0 (R163, R165). -/
theorem upChange_eq {counted : Nat → PathEntry} {onPrimary : Bool}
    (hrecount : recount e k (· - 1) = (counted (h.struck - 1), onPrimary))
    (hstruck : struckOf e onPrimary = h.struck) :
    upChange e k = (if h.struck = 1 then repairedMove (counted 0) onPrimary else counted (h.struck - 1), []) := by
  by_cases h1 : h.struck = 1
  · simp only [upChange, hrecount, hstruck, h1, if_true]
  · simp only [upChange, hrecount, hstruck, h1, if_false]

end

/-! ### Items of other paths (R178, R179) -/

/-- What a PATH_STATE shows of a path is the same in two states: its entry and its generation (R178). -/
def SamePath (s u : State) (p : Nat) : Prop :=
  u.paths.entries.get? p = s.paths.entries.get? p ∧ generationOf u p = generationOf s p

theorem pathNotified_other {s u : State} {p : Nat} (h : SamePath s u p) (w : Windows) :
    pathNotified w (voiced s u) p = voiced (pathNotified w s p) u := by
  obtain ⟨hentry, hgeneration⟩ := h
  have hread : noticeRecord (voiced s u) p = noticeRecord s p := rfl
  have hgeneration' : generationOf (voiced s u) p = generationOf s p := hgeneration
  have hline : ∀ r, pathStateLine (voiced s u) p r = pathStateLine s p r := fun r => by
    have hcode : pathStateCode (voiced s u) p = pathStateCode s p := congrArg (fun e => (e.map (·.state.code)).getD 0) hentry
    rw [pathStateLine, hcode, hgeneration']
    rfl
  simp only [pathNotified, hread, hline, hgeneration']
  exact withRef_voiced { withContent s _ _ none with notices := _ } u .status

theorem pathStatePosted_other {s u : State} {p : Nat} (h : SamePath s u p) (why : PathReason) :
    pathStatePosted (voiced s u) p why = voiced (pathStatePosted s p why) u := by
  have hnotified : ∀ r w, pathNotified w (voiced (withRecord s p r) u) p = voiced (pathNotified w (withRecord s p r) p) u :=
    fun r w => pathNotified_other (s := withRecord s p r) h w
  have hrecord : ∀ r, withRecord (voiced s u) p r = voiced (withRecord s p r) u := fun _ => rfl
  have hread : noticeRecord (voiced s u) p = noticeRecord s p := rfl
  have hdecoder : (voiced s u).decoder = s.decoder := rfl
  have hring : ringUsed (voiced s u) = ringUsed s := rfl
  have hnotices : (voiced s u).notices = s.notices := rfl
  have hcontrol : (voiced s u).control = s.control := rfl
  simp only [pathStatePosted, hnotified, hread, hdecoder, hring, hnotices, hcontrol, hrecord]
  split
  · rfl
  · cases s.decoder.windows with
    | none => rfl
    | some w => exact (apply_ite (voiced · u) _ _ _).symm

/-- Items read of the path table no more than the paths that they report. -/
theorem withSaid_other {u : State} (xs : List Said) {s : State} (h : ∀ p why, .pathState p why ∈ xs → SamePath s u p) :
    withSaid (voiced s u) xs = voiced (withSaid s xs) u := by
  induction xs generalizing s with
  | nil => rfl
  | cons x xs ih =>
    have hone : withOne (voiced s u) x = voiced (withOne s x) u := by
      cases x with
      | ref r => exact withRef_voiced s u r
      | post n => exact posted_voiced s u n
      | pathState p why => exact pathStatePosted_other (h p why List.mem_cons_self) why
    refine (congrArg (withSaid · xs) hone).trans (ih fun p why hmem => ?_)
    have hsame := h p why (List.mem_cons_of_mem x hmem)
    rwa [SamePath, generationOf, generationOf, withOne_paths]

/-! ### Effects on some paths -/

/-- The state with the path table unit replaced. -/
def withPaths (s : State) (p : PathUnit) : State := { s with paths := p }

theorem withSaid_paths (s : State) (xs : List Said) : (withSaid s xs).paths = s.paths := by
  rw [withSaid_self]
  rfl

/-- An effect that reads and changes the path table unit alone, and of its paths those of a list alone. -/
structure OnPaths (ps : List Nat) (f : State → Effect) : Prop where
  reads : ∀ s u : State, u.paths = s.paths → f u = { state := withPaths u (f s).state.paths, said := (f s).said }
  others : ∀ s : State, ∀ p ∉ ps, SamePath s (f s).state p

/-- The items report no path of the list. -/
def Apart (ps : List Nat) (xs : List Said) : Prop := ∀ p why, Said.pathState p why ∈ xs → p ∉ ps

section
variable {ps qs : List Nat} {f g : State → Effect} {s : State} {n : Nat}

theorem OnPaths.state (h : OnPaths ps f) (s : State) : (f s).state = withPaths s (f s).state.paths :=
  congrArg Effect.state (h.reads s s rfl)

theorem OnPaths.none : OnPaths ps Effect.none where
  reads s u h := by
    simp only [Effect.none, ← h]
    rfl
  others _ _ _ := ⟨rfl, rfl⟩

theorem OnPaths.andThen (hf : OnPaths ps f) (hg : OnPaths qs g) : OnPaths (ps ++ qs) (fun s => (f s).andThen g) where
  reads s u h := by
    simp only [Effect.andThen, hf.reads s u h]
    rw [hg.reads (f s).state (withPaths u (f s).state.paths) rfl]
    rfl
  others s p hp := by
    obtain ⟨hps, hqs⟩ : p ∉ ps ∧ p ∉ qs := by simpa using hp
    obtain ⟨hentry, hgeneration⟩ := hf.others s p hps
    obtain ⟨hentry', hgeneration'⟩ := hg.others (f s).state p hqs
    exact ⟨hentry'.trans hentry, hgeneration'.trans hgeneration⟩

theorem OnPaths.each {f : State → Nat → Effect} (h : ∀ p, OnPaths [p] (fun s => f s p)) (ps : List Nat) :
    OnPaths ps (fun s => Effect.each s f ps) := by
  induction ps with
  | nil => exact OnPaths.none
  | cons p ps ih =>
    simp only [Effect.each_cons]
    exact (h p).andThen ih

/-- Items that report none of its paths do not change what the effect does. -/
theorem OnPaths.withSaid (h : OnPaths ps f) (s : State) {xs : List Said} (hxs : Apart ps xs) :
    f (withSaid s xs) = { state := Machine.withSaid (f s).state xs, said := (f s).said } := by
  have hother : Machine.withSaid (voiced s (f s).state) xs = voiced (Machine.withSaid s xs) (f s).state :=
    withSaid_other xs fun p why hmem => h.others s p (hxs p why hmem)
  have hvoiced : voiced s (f s).state = (f s).state := by
    rw [h.state s]
    rfl
  rw [hvoiced] at hother
  rw [h.reads s _ (withSaid_paths s xs), hother, h.state s, withSaid_self s xs]
  rfl

theorem OnPaths.said_andThen (hg : OnPaths ps g) {x : Effect} (hx : Apart ps x.said) :
    (x.andThen g).said = x.said ++ (g x.after).said := by
  simp only [Effect.after, Effect.andThen, hg.withSaid _ hx]

theorem OnPaths.after_andThen (hg : OnPaths ps g) {x : Effect} (hx : Apart ps x.said) : (x.andThen g).after = (g x.after).after := by
  simp only [Effect.after, Effect.andThen, hg.withSaid _ hx, withSaid_append]

theorem Calm.pathEffect (hf : OnPaths ps f) (h : Calm s n) : Calm (f s).state n := by
  rw [hf.state s]
  exact ⟨h.released, h.threads, h.waiters, h.turn, h.strikeWait, h.room⟩

theorem OnPaths.state_control (hf : OnPaths ps f) (s : State) : (f s).state.control = s.control := by
  rw [hf.state s]
  rfl

theorem OnPaths.after_control (hf : OnPaths ps f) (s : State) : (f s).after.control = s.control :=
  (withSaid_control _ _).trans (hf.state_control s)

theorem OnPaths.after_topology (hf : OnPaths ps f) (s : State) : (f s).after.topology = s.topology := by
  rw [Effect.after, withSaid_topology, hf.state s]
  rfl

theorem Calm.afterPaths (hf : OnPaths ps f) (h : Calm s (n + places s (f s).said)) : Calm (f s).after n := by
  rw [← places_congr (hf.state_control s)] at h
  exact (h.pathEffect hf).withSaid _

end

/-! ### One path moved (R147, R156, R157, R168) -/

/-- The reservation sets without a route's range on its links. -/
def Route.releasedFrom (t : Table SlotSet) (r : Route) : Table SlotSet :=
  r.links.foldl (fun t k => t.setD k 0 (t.getD k 0 &&& ~~~r.range)) t

/-- The state with the reservation sets replaced. -/
def withReserved (s : State) (t : Table SlotSet) : State := { s with paths := { s.paths with reserved := t } }

theorem unreserveRoute_eq (s : State) (r : Route) : unreserveRoute s r = withReserved s (r.releasedFrom s.paths.reserved) :=
  List.foldl_hom (withReserved s) (l := r.links) (init := s.paths.reserved) fun _ _ => rfl

/-- Giving up routes changes the reservation sets alone. -/
theorem unreserveAll_eq (s : State) (rs : List Route) :
    unreserveAll s rs = withReserved s (rs.foldl Route.releasedFrom s.paths.reserved) :=
  List.foldl_hom (withReserved s) (l := rs) (init := s.paths.reserved) fun t r => unreserveRoute_eq (withReserved s t) r

section
variable (move : PathEntry → PathEntry × List Route) (why : PathReason)

/-- Path `p` changes by `move`, gives up the routes that it answers, and brings its items (R161, R168). -/
def pathMoved (s : State) (p : Nat) : Effect :=
  match s.paths.entries.get? p with
  | none => .none s
  | some e => { state := storePath (unreserveAll s (move e).2) p (move e).1, said := pathSaid p e.state (move e).1.state why }

theorem pathMoved_some {s : State} {p : Nat} {e : PathEntry} (he : s.paths.entries.get? p = some e) : pathMoved move why s p =
    { state := storePath (unreserveAll s (move e).2) p (move e).1, said := pathSaid p e.state (move e).1.state why } := by
  rw [pathMoved, he]

theorem storePath_other (s : State) {p q : Nat} (e : PathEntry) (h : q ≠ p) : SamePath s (storePath s p e) q := by
  refine ⟨Table.get?_set_ne _ e h, ?_⟩
  unfold storePath generationOf
  dsimp only
  split
  · exact Table.getD_setD_ne _ _ _ h
  · rfl

theorem onPaths_pathMoved (p : Nat) : OnPaths [p] (fun s => pathMoved move why s p) where
  reads s u h := by
    simp only [pathMoved, h]
    cases s.paths.entries.get? p with
    | none =>
      simp only [Effect.none, ← h]
      rfl
    | some e =>
      simp only [unreserveAll_eq, storePath, withReserved, generationOf, h]
      rfl
  others s q hq := by
    unfold pathMoved
    cases s.paths.entries.get? p with
    | none => exact ⟨rfl, rfl⟩
    | some e =>
      dsimp only
      rw [unreserveAll_eq]
      exact storePath_other (withReserved s _) _ (by simpa using hq)

/-- A path that is moved reports itself alone. -/
theorem apart_pathMoved (s : State) {p : Nat} {ps : List Nat} (h : p ∉ ps) : Apart ps (pathMoved move why s p).said := by
  intro q why' hmem
  have hq : q = p := by
    unfold pathMoved at hmem
    split at hmem
    · cases hmem
    · simp only [pathSaid] at hmem
      split at hmem <;> simp_all
  rwa [hq]

end

/-! ### The paths through a link, one after another (R161) -/

/-- A path has a route through link `k`: 1, or else 0. -/
def throughLink (k : Nat) (e : PathEntry) : Nat := (pathHas e k).toNat

theorem throughLink_beq (k : Nat) (e : PathEntry) : (throughLink k e == 1) = pathHas e k := by
  unfold throughLink
  cases pathHas e k <;> rfl

theorem pathsMoved_eq (s : State) (k : Nat) (move : PathEntry → PathEntry × List Route) (why : PathReason) :
    pathsMoved s k move why = Effect.each s (pathMoved move why) (keysFrom (s.paths.entries.column (throughLink k)) 1 0) := by
  rw [keysFrom_zero]
  simp only [throughLink_beq]
  rfl

theorem keysFrom_cons (x : Nat × Nat) (t : Table Nat) (d i : Nat) :
    keysFrom (x :: t) d i = if i ≤ x.1 ∧ x.2 = d then x.1 :: keysFrom t d i else keysFrom t d i := by
  by_cases h : i ≤ x.1 ∧ x.2 = d <;> simp [keysFrom, h]

theorem Table.column_cons {α β : Type} (x : Nat × α) (t : Table α) (v : α → β) :
    Table.column (x :: t) v = (x.1, v x.2) :: t.column v := rfl

/-- An entry replaced leaves the indices above it. -/
theorem keysFrom_set {α : Type} (t : Table α) (v : α → Nat) (d : Nat) {i j : Nat} (a : α) (h : i < j) :
    keysFrom ((t.set i a).column v) d j = keysFrom (t.column v) d j := by
  have hi : ¬ j ≤ i := Nat.not_le.2 h
  induction t with
  | nil => simp [Table.set, Table.column, keysFrom, hi]
  | cons x t ih =>
    obtain ⟨c, b⟩ := x
    simp only [Table.set]
    split
    · simp [Table.column_cons, keysFrom_cons, hi]
    · split
      · next hc => simp [Table.column_cons, keysFrom_cons, ← hc, hi]
      · simp only [Table.column_cons, keysFrom_cons, ih]

theorem le_of_mem_keysFrom {t : Table Nat} {d i j : Nat} (h : j ∈ keysFrom t d i) : i ≤ j := by
  obtain ⟨x, hx, rfl⟩ := List.mem_map.1 h
  have := (List.mem_filter.1 hx).2
  simp only [Bool.and_eq_true, decide_eq_true_eq] at this
  exact this.1

theorem nextPath_eq (s : State) (k i : Nat) :
    nextPath s k i = s.paths.entries.nextFrom i Config.pathEntries (fun _ e => throughLink k e == 1) := by
  simp only [throughLink_beq]
  rfl

/-- The next path from an index upward through a link is moved, and the event goes on behind it (R161). -/
def visitPath (k : Nat) (move : PathEntry → PathEntry × List Route) (why : PathReason) (op : Nat → Op) (i : Nat) (s : State) :
    OpResult :=
  match nextPath s k i with
  | none => .done s []
  | some (p, e) => changePath s p (move e) why (op (p + 1))

/-- The step at a path of the link: the path's effect, with its items and the next step behind it. -/
theorem visitPath_next {k : Nat} {move : PathEntry → PathEntry × List Route} {why : PathReason} {op : Nat → Op} {i p : Nat} {s : State}
    {e : PathEntry} (he : s.paths.entries.get? p = some e) (hnext : nextPath s k i = some (p, e)) (t : Thread) (ops : List Op) :
    visitPath k move why op i (s.putOps t ops) =
      .done ((pathMoved move why s p).state.putOps t ops) ((pathMoved move why s p).said.map Said.op ++ [op (p + 1)]) := by
  have hnext' : nextPath (s.putOps t ops) k i = some (p, e) := hnext
  have he' : (s.putOps t ops).paths.entries.get? p = some e := he
  have hitems : pathItems (s.putOps t ops) p (move e).1 why = (pathSaid p e.state (move e).1.state why).map Said.op := by
    simp only [pathItems, he', pathSaid, Option.map_some, ne_eq, Option.some.injEq, ite_not]
    split <;> rfl
  simp only [visitPath, hnext', changePath, hitems, pathMoved_some move why he, unreserveAll_eq]
  rfl

/-- The steps of a strike event in a calm state: the paths through the link are moved, one after another, each with its items. -/
theorem settled_visits {k : Nat} {move : PathEntry → PathEntry × List Route} {why : PathReason} {op : Nat → Op} {t : Thread}
    (hop : ∀ i s, runOp false t (op i) s = visitPath k move why op i s) (rest : List Op) (ps : List Nat) {s : State} {n i : Nat}
    (hs : s.paths.entries.wf Config.pathEntries = true) (hps : keysFrom (s.paths.entries.column (throughLink k)) 1 i = ps)
    (h : Calm s (n + places s (Effect.each s (pathMoved move why) ps).said)) :
    settleAll (s.putOps t (op i :: rest)) = settleAll ((Effect.each s (pathMoved move why) ps).after.putOps t rest) := by
  induction ps generalizing s i with
  | nil =>
    have hrun : runOp false t (op i) (s.putOps t (op i :: rest)) = .done (s.putOps t (op i :: rest)) [] := by
      have hnone : nextPath (s.putOps t (op i :: rest)) k i = none := (nextPath_eq s k i).trans (Table.nextFrom_nil hs hps)
      rw [hop, visitPath, hnone]
    exact settled_step (push := []) (h.alone t) hrun
  | cons p ps ih =>
    obtain ⟨e, he, -, hnext⟩ := Table.nextFrom_cons hs hps
    have hrest : keysFrom (s.paths.entries.column (throughLink k)) 1 (p + 1) = ps :=
      keysFrom_succ (Table.ascending_column ((Table.wf_iff _ _).1 hs).1 _) hps
    have hfirst := onPaths_pathMoved move why p
    have hothers : OnPaths ps (fun u => Effect.each u (pathMoved move why) ps) := OnPaths.each (onPaths_pathMoved move why) ps
    have hapart : Apart ps (pathMoved move why s p).said := apart_pathMoved move why s fun hmem => by
      have := le_of_mem_keysFrom (hrest ▸ hmem)
      omega
    have hentries : (pathMoved move why s p).after.paths.entries = s.paths.entries.set p (move e).1 := by
      rw [Effect.after, withSaid_paths, pathMoved_some move why he, unreserveAll_eq]
      rfl
    rw [Effect.each_cons, hothers.said_andThen hapart, places_append, ← Nat.add_assoc] at h
    rw [Effect.each_cons, hothers.after_andThen hapart]
    have hrun : runOp false t (op i) (s.putOps t (op i :: rest)) = _ :=
      (hop _ _).trans (visitPath_next he ((nextPath_eq s k i).trans hnext) t _)
    have hroom : Calm s (n + places s (pathMoved move why s p).said) := h.fewer (by omega)
    rw [settled_step (h.alone t) hrun, List.append_assoc, settled_said t _ _ (n := n)
      (by rw [places_congr (hfirst.state_control s)]; exact hroom.pathEffect hfirst), List.singleton_append, ← Effect.after]
    refine ih ?_ ?_ ?_
    · rw [hentries]
      exact Table.wf_set hs (Table.get?_lt hs he) _
    · rw [hentries, keysFrom_set _ _ _ _ (Nat.lt_succ_self p), hrest]
    · rw [places_congr (hfirst.after_control s)]
      exact Calm.afterPaths hfirst (h.fewer (by omega))

/-! ### The three events (R104, R106, R161 to R163, R166) -/

/-- The event at the head may be taken. -/
theorem nextStrike_eq {s : State} {kind : StrikeKind} {k : Nat} {rest : List Strike} {n : Nat} (h : StrikeNext s kind k rest)
    (hcalm : Calm s n) : nextStrike s kind = some (k, struckView s rest s.paths.view) := by
  obtain ⟨hhead, hgrant, hrestart⟩ := h
  have hrun : strikesRun s = true := by simp [strikesRun, hcalm.threads, Threads.none, hgrant, hrestart]
  simp only [nextStrike, hhead, hrun, Bool.true_and, beq_self_eq_true, if_true]
  rfl

theorem Calm.struckView {s : State} {n : Nat} (h : Calm s n) (rest : List Strike) (view : List Nat) :
    Calm (struckView s rest view) n :=
  ⟨h.released, h.threads, h.waiters, h.turn, h.strikeWait, h.room⟩

/-- An event launched: the paths through its link are moved, and then the steps behind them are taken. -/
theorem launch_visits {s : State} {k : Nat} {rest : List Strike} {view : List Nat} {move : PathEntry → PathEntry × List Route}
    {why : PathReason} {op : Nat → Op} (hop : ∀ i s, runOp false .strike (op i) s = visitPath k move why op i s) (more : List Op)
    (htable : TableLaw s)
    (hroom : Calm s (places s (pathsMoved (struckView s rest view) k move why).said)) :
    launch (struckView s rest view) .strike (op 0 :: more) =
      settleAll ((pathsMoved (struckView s rest view) k move why).after.putOps .strike more) ∧
    Calm (pathsMoved (struckView s rest view) k move why).after 0 := by
  obtain ⟨-, ⟨hentries, -⟩, -⟩ := htable
  have hcalm : Calm (struckView s rest view)
      (0 + places (struckView s rest view) (pathsMoved (struckView s rest view) k move why).said) :=
    (hroom.struckView rest view).fewer (Nat.zero_add _).le
  rw [pathsMoved_eq] at hcalm ⊢
  refine ⟨?_, Calm.afterPaths (OnPaths.each (onPaths_pathMoved move why) _) hcalm⟩
  rw [launch_calm hcalm, settled_visits (s := struckView s rest view) hop more _ hentries rfl hcalm]

/-- DOWN and UP: the event is over when the last path has been moved. -/
theorem launch_visits_alone {s : State} {k : Nat} {rest : List Strike} {view : List Nat} {move : PathEntry → PathEntry × List Route}
    {why : PathReason} {op : Nat → Op} (hop : ∀ i s, runOp false .strike (op i) s = visitPath k move why op i s) (htable : TableLaw s)
    (hroom : Calm s (places s (pathsMoved (struckView s rest view) k move why).said)) :
    launch (struckView s rest view) .strike [op 0] = (pathsMoved (struckView s rest view) k move why).after := by
  obtain ⟨hlaunch, hcalm⟩ := launch_visits hop [] htable hroom
  rw [hlaunch, settled_calm hcalm]

/-- An entry of a table in canonical form, written where it stands. -/
theorem Table.set_same {α : Type} {t : Table α} (h : t.ascending) {i : Nat} {a : α} (hi : t.get? i = some a) : t.set i a = t := by
  obtain ⟨before, after, rfl⟩ := List.append_of_mem (Table.get?_mem t hi)
  exact Table.set_middle h a

theorem setAnswered_eq {s : State} (h : s.topology.links.ascending) (k : Nat) : setAnswered s k =
    { s with topology := { s.topology with
      links := s.topology.links.modify k (fun l => if l.state = .retiring then { l with answered := true } else l) } } := by
  unfold setAnswered Table.modify
  cases hl : s.topology.links.get? k with
  | none => rfl
  | some l =>
    dsimp only
    split
    · rfl
    · rw [Table.set_same h hl]

/-- The end of a RETIRE event (R106, R166). -/
theorem finishRetire_eq {s : State} (h : s.topology.links.ascending) (k : Nat) : finishRetire k s = .done (retired s k) [] := by
  rw [finishRetire, setAnswered_eq (s := setFlag (setReserved s k 0) k false) h]
  rfl

theorem settled_retireDone {s : State} {n : Nat} (hcalm : Calm s n) (h : s.topology.links.ascending) (k : Nat) :
    settleAll (s.putOps .strike [.retireDone k]) = retired s k := by
  have hrun : runOp false .strike (.retireDone k) (s.putOps .strike [.retireDone k]) =
      .done ((retired s k).putOps .strike [.retireDone k]) [] := finishRetire_eq (s := s.putOps .strike [.retireDone k]) h k
  have hretired : Calm (retired s k) n :=
    ⟨hcalm.released, hcalm.threads, hcalm.waiters, hcalm.turn, hcalm.strikeWait, hcalm.room⟩
  exact (settled_step (hcalm.alone .strike) hrun).trans (settled_calm hretired .strike)

/-- Settles O55: a path is counted and moved by the route that contains the link, and the paths are visited one after another. -/
theorem strikeEventsProcessed : Obligations.StrikeEventsProcessed := by
  constructor
  · intro e h k hk primary backup
    refine ⟨fun hp => ?_, fun hb hp => ?_⟩
    · obtain ⟨hrecount, hretire⟩ := changes_of_primary hp hk
      exact ⟨downChange_eq (counted := primary) (hrecount _) fun _ => rfl,
        upChange_eq (counted := primary) (hrecount _) (by simp [struckOf, hp]), hretire⟩
    · obtain ⟨hrecount, hretire⟩ := changes_of_backup hb hp
      exact ⟨downChange_eq (counted := backup) (hrecount _) fun _ => rfl,
        upChange_eq (counted := backup) (hrecount _) (by simp [struckOf, hb]), hretire⟩
  · intro s k rest htable moved room
    refine ⟨fun hnext => ⟨fun hk hcalm => ?_, ?_⟩, fun hnext => ⟨fun hk hcalm => ?_, ?_⟩, ?_⟩
    · have hexec : exec .downEvent s = .next (strikeDown s) := live_released hcalm.released _
      rw [hexec, strikeDown, nextStrike_eq hnext hcalm]
      exact congrArg _ (if_pos (List.contains_iff_mem.2 hk))
    · rintro x hk rfl hroom
      have hexec : exec .downEvent s = .next (strikeDown s) := live_released hroom.released _
      rw [hexec, strikeDown, nextStrike_eq hnext hroom]
      refine congrArg _ ((if_neg fun h => hk (List.contains_iff_mem.1 h)).trans ?_)
      exact launch_visits_alone (s := s) (op := .downPaths k) (fun _ _ => rfl) htable hroom
    · have hexec : exec .upEvent s = .next (strikeUp s) := live_released hcalm.released _
      rw [hexec, strikeUp, nextStrike_eq hnext hcalm]
      exact congrArg _ (if_neg fun h => hk (List.contains_iff_mem.1 h))
    · rintro x hk rfl hroom
      have hexec : exec .upEvent s = .next (strikeUp s) := live_released hroom.released _
      rw [hexec, strikeUp, nextStrike_eq hnext hroom]
      refine congrArg _ ((if_pos (List.contains_iff_mem.2 hk)).trans ?_)
      exact launch_visits_alone (s := s) (op := .upPaths k) (fun _ _ => rfl) htable hroom
    · rintro hnext x rfl hroom
      have hexec : exec .retireEvent s = .next (strikeRetire s) := live_released hroom.released _
      obtain ⟨hlaunch, hcalm⟩ := launch_visits (op := .retirePaths k) (fun _ _ => rfl) [.retireDone k] htable hroom
      obtain ⟨⟨-, -, hlinks⟩, -⟩ := htable
      rw [hexec, strikeRetire, nextStrike_eq hnext hroom]
      refine congrArg _ (hlaunch.trans (settled_retireDone hcalm ?_ k))
      rw [pathsMoved_eq, (OnPaths.each (onPaths_pathMoved _ _) _).after_topology]
      exact hlinks

end Sys2Proof.Machine

/-!
PROOFS. How the operation of a path table item ends: its grant released, its results queued, its slot freed; and the take-up of a grant
(O53).
-/

namespace Sys2Proof.Machine

/-! ### The end of an operation (R111, R143, R154) -/

/-- The state with the path table unit's grant released and no other request waiting (R111). -/
def pathReleased (s : State) : State := { s with arbiter := { s.arbiter with holder := none } }

/-- The state with a free operation slot (R143). -/
def slotFreed (s : State) : State := { s with paths := { s.paths with slot := none } }

theorem Calm.pathReleased {s : State} {n : Nat} (h : Calm s n) : Calm (pathReleased s) n :=
  ⟨h.released, h.threads, h.waiters, h.turn, h.strikeWait, h.room⟩

theorem Calm.slotFreed {s : State} {n : Nat} (h : Calm s n) : Calm (slotFreed s) n :=
  ⟨h.released, h.threads, h.waiters, h.turn, h.strikeWait, h.room⟩

/-- Items read nothing of the grant. -/
theorem pathReleased_withSaid (s : State) (xs : List Said) : pathReleased (withSaid s xs) = withSaid (pathReleased s) xs := by
  have h : withSaid (voiced s (pathReleased s)) xs = voiced (withSaid s xs) (pathReleased s) :=
    withSaid_voiced (s := s) (u := pathReleased s) rfl rfl xs
  rw [withSaid_self s xs]
  exact h.symm

/-- Items read nothing of the operation slot. -/
theorem slotFreed_withSaid (s : State) (xs : List Said) : slotFreed (withSaid s xs) = withSaid (slotFreed s) xs := by
  have h : withSaid (voiced s (slotFreed s)) xs = voiced (withSaid s xs) (slotFreed s) :=
    withSaid_voiced (s := s) (u := slotFreed s) rfl rfl xs
  rw [withSaid_self s xs]
  exact h.symm

theorem slotFreed_withResult (s : State) (slot serial : Nat) (first second : Line) :
    slotFreed (withResult s slot serial first second) = withResult (slotFreed s) slot serial first second := rfl

theorem settled_pathGrantEnd {s : State} {t : Thread} (h : Alone t s)
    (hwaits : s.arbiter.waitTopology = false ∧ s.arbiter.waitPath = false) (rest : List Op) :
    settleAll (s.putOps t (.pathGrantEnd :: rest)) = settleAll ((pathReleased s).putOps t rest) := by
  obtain ⟨htopology, hpath⟩ := hwaits
  refine settled_step (s' := pathReleased s) (push := []) h ?_
  exact congrArg (OpResult.done · []) (releaseGrant_unasked (s := s.putOps t (.pathGrantEnd :: rest)) htopology hpath)

/-- The last step of an operation frees its slot. -/
theorem settled_operationEnd {s : State} {n : Nat} (h : Calm s n) (t : Thread) :
    settleAll (s.putOps t [.operationEnd]) = slotFreed s :=
  (settled_step (s' := slotFreed s) (push := []) (h.alone t) rfl).trans (settled_calm h.slotFreed t)

/-- A result line shows nothing of the state but a path's routes (R152, R153). -/
theorem resultLine_congr {s u : State} (h : u.paths.entries = s.paths.entries) (l : ResultLine) :
    resultLine u l = resultLine s l := by
  have hroute : ∀ src, sourceRoute u src = sourceRoute s src := fun src => by cases src <;> simp only [sourceRoute, h]
  cases l with
  | first tag o cls path src => rw [resultLine, resultLine, hroute]
  | second tag o src =>
    have houtcome : secondOutcome u o src = secondOutcome s o src := by
      cases src <;> simp only [secondOutcome, hroute]
    rw [resultLine, resultLine, hroute, houtcome]

/-- The steps that answer a request queue line 2 and then line 1, and free the slot (R154). -/
theorem settled_results {s : State} {n : Nat} (h : Calm s (n + 2)) (t : Thread) (q : QueuedRequest) (first second : ResultLine) :
    settleAll (s.putOps t (resultOps q first second)) =
      withResult (slotFreed s) q.slot q.serial (resultLine s first) (resultLine s second) := by
  have hsecond := h.withContent (n := n + 1) (resultTarget s { slot := q.slot, line := 2, serial := q.serial }) (resultLine s second)
    (some { slot := q.slot, line := 2, serial := q.serial })
  rw [resultOps, settled_result (n := n + 1) h, settled_result hsecond, settled_operationEnd (hsecond.withContent _ _ _),
    resultLine_congr (u := withContent s _ _ _) (s := s) rfl first]
  rfl

section
variable {s : State} {n : Nat}

/-- A request's operation that releases its grant first: its items and its results follow (R154). -/
theorem launch_released_results {xs : List Said} (h : Calm s (n + 2 + places s xs))
    (hwaits : s.arbiter.waitTopology = false ∧ s.arbiter.waitPath = false) (q : QueuedRequest) (first second : ResultLine) :
    launch s .operation ([.pathGrantEnd] ++ xs.map Said.op ++ resultOps q first second) =
      withResult (withSaid (slotFreed (pathReleased s)) xs) q.slot q.serial (resultLine s first) (resultLine s second) := by
  have hentries : (withSaid (pathReleased s) xs).paths.entries = s.paths.entries := by rw [withSaid_paths]; rfl
  rw [launch_calm h, List.append_assoc, List.singleton_append, settled_pathGrantEnd (h.alone _) hwaits,
    settled_said (n := n + 2) _ _ _ h.pathReleased, settled_results (Calm.withSaid _ h.pathReleased),
    resultLine_congr hentries, resultLine_congr hentries, slotFreed_withSaid]

/-- A request's operation that queues its items under its grant: the results follow the release (R147). -/
theorem launch_granted_results {xs : List Said} (h : Calm s (n + 2 + places s xs))
    (hwaits : s.arbiter.waitTopology = false ∧ s.arbiter.waitPath = false) (q : QueuedRequest) (first second : ResultLine) :
    launch s .operation (xs.map Said.op ++ .pathGrantEnd :: resultOps q first second) =
      withResult (withSaid (slotFreed (pathReleased s)) xs) q.slot q.serial (resultLine s first) (resultLine s second) := by
  have hsaid : Calm (withSaid s xs) (n + 2) := Calm.withSaid xs h
  have harbiter : (withSaid s xs).arbiter = s.arbiter := by rw [withSaid_self]; rfl
  have hentries : (pathReleased (withSaid s xs)).paths.entries = s.paths.entries := by
    change (withSaid s xs).paths.entries = _
    rw [withSaid_paths]
  rw [launch_calm h, settled_said (n := n + 2) _ _ _ h, settled_pathGrantEnd (hsaid.alone _) (harbiter ▸ hwaits),
    settled_results hsaid.pathReleased, resultLine_congr hentries, resultLine_congr hentries, pathReleased_withSaid,
    slotFreed_withSaid]

/-- A restoration's operation: its grant is released, its items are queued, and its slot is freed (R169). -/
theorem launch_released_items {xs : List Said} (h : Calm s (n + places s xs))
    (hwaits : s.arbiter.waitTopology = false ∧ s.arbiter.waitPath = false) :
    launch s .operation ([.pathGrantEnd] ++ xs.map Said.op ++ [.operationEnd]) = withSaid (slotFreed (pathReleased s)) xs := by
  rw [launch_calm h, List.append_assoc, List.singleton_append, settled_pathGrantEnd (h.alone _) hwaits,
    settled_said (n := n) _ _ _ h.pathReleased, settled_operationEnd (Calm.withSaid _ h.pathReleased), slotFreed_withSaid]

/-- Line 1 of an answer without a route (R152). -/
theorem resultLine_plain {u : State} (h : u.paths.entries = s.paths.entries) (r : Line) (o : ReqOutcome) :
    resultLine u (.first (reqTag r) o ((shownPath u r).map (·.2.cls)) ((shownPath u r).map (·.1)) .absent) = plainFirst s r o := by
  have hshown : shownPath u r = shownPath s r := by
    unfold shownPath namedPath
    rw [h]
  rw [hshown, plainFirst]
  cases shownPath s r <;> rfl

/-- An answer without a route: the grant is released, and the two lines show the outcome and the path named (R149, R154). -/
theorem launch_plainResult {u : State} (h : Calm u (n + 2)) (hwaits : u.arbiter.waitTopology = false ∧ u.arbiter.waitPath = false)
    (hentries : u.paths.entries = s.paths.entries) (q : QueuedRequest) (o : ReqOutcome) :
    launch u .operation (.pathGrantEnd :: plainResult u q o) =
      withResult (slotFreed (pathReleased u)) q.slot q.serial (plainFirst s q.record o) (bareSecond (reqTag q.record) .none) := by
  rw [← resultLine_plain hentries]
  exact launch_released_results (xs := []) h hwaits q _ _

end

/-! ### GRANT_TAKE_UP (R117, R135, R136, R144, R149) -/

theorem exclNodesOk_iff (nodes : List Id32) (a b : Id32) :
    exclNodesOk nodes a b = true ↔ ¬ ∃ x ∈ nodes, x ≠ 0 ∧ (x = a ∨ x = b) := by
  simp only [exclNodesOk, List.all_eq_true, Bool.or_eq_true, Bool.and_eq_true, beq_iff_eq, decide_eq_true_eq, not_exists, not_and,
    not_or]
  exact forall₂_congr fun x _ => or_iff_not_imp_left

/-- What the check of a REROUTE answers (R149). -/
theorem rerouteCheck_eq {s : State} {r : Line} {p : Nat} {e : PathEntry}
    (hnamed : namedPath s r = none ∨ namedPath s r = some (p, e)) : rerouteCheck s r =
      if namedPath s r = none then .unknownPath
      else if e.state ≠ .active ∧ e.state ≠ .exposed ∧ e.state ≠ .held then .wrongState
      else if ∃ x ∈ reqExclNodes r, x ≠ 0 ∧ (x = e.srcId ∨ x = e.dstId) then .badRequest else .ok := by
  unfold rerouteCheck
  rcases hnamed with hnone | hsome
  · rw [hnone, if_pos rfl]
  · have hnodes : ¬ exclNodesOk (reqExclNodes r) e.srcId e.dstId = true ↔
        ∃ x ∈ reqExclNodes r, x ≠ 0 ∧ (x = e.srcId ∨ x = e.dstId) := by rw [exclNodesOk_iff, not_not]
    have hstate : (!(e.state == .active || e.state == .exposed || e.state == .held)) = true ↔
        e.state ≠ .active ∧ e.state ≠ .exposed ∧ e.state ≠ .held := by simp [and_assoc]
    rw [hsome, if_neg (by simp)]
    simp only [hstate, Bool.not_eq_true', ← Bool.not_eq_true, hnodes]

section
variable {s : State} {o : Operation}

theorem takeUpGrant_waiting (hslot : s.paths.slot = some o) (h : s.paths.strikes ≠ []) : takeUpGrant s = s := by
  have hidle : strikesIdle s = false := by simp [strikesIdle, h]
  simp only [takeUpGrant, hslot, hidle, Bool.and_false, Bool.false_and, Bool.false_eq_true, if_false]

section
variable {n : Nat} (hcalm : Calm s n) (h : PathGranted s o) (hstrikes : s.paths.strikes = [])

include hcalm hstrikes in
theorem strikesIdle_calm : strikesIdle s = true := by simp [strikesIdle, hstrikes, hcalm.threads, Threads.none]

include hcalm h hstrikes

theorem takeUpGrant_request {q : QueuedRequest} (hitem : o.item = .request q) : takeUpGrant s = takeUpRequest s o q := by
  simp [takeUpGrant, h.slot, h.holder, h.phase, strikesIdle_calm hcalm hstrikes, hcalm.threads, Threads.none, hitem]

theorem takeUpGrant_restoring {p : Nat} {e : PathEntry} (hitem : o.item = .restoration p) (he : s.paths.entries.get? p = some e)
    (hstate : e.state = .restoring) : takeUpGrant s = startComputation s o (restorationInputs e) := by
  simp [takeUpGrant, h.slot, h.holder, h.phase, strikesIdle_calm hcalm hstrikes, hcalm.threads, Threads.none, hitem, he, hstate]

/-- A restoration whose path is no longer RESTORING is dropped, with its run count restored and its grant given back (R144). -/
theorem takeUpGrant_dropped {p : Nat} (hitem : o.item = .restoration p)
    (he : ∀ e, s.paths.entries.get? p = some e → e.state ≠ .restoring) : takeUpGrant s =
      pathReleased { s with paths := { s.paths with slot := none, runCount := o.runBefore } } := by
  obtain ⟨htopology, hpath⟩ := h.waits
  have hdrop : takeUpGrant s = dropRestoration s o := by
    simp only [takeUpGrant, h.slot, h.holder, h.phase, strikesIdle_calm hcalm hstrikes, hcalm.threads, Threads.none, hitem]
    cases hget : s.paths.entries.get? p with
    | none => rfl
    | some e => exact if_neg (he e hget)
  exact hdrop.trans (releaseGrant_unasked htopology hpath)

end

/-- A REROUTE that fails its check gives the grant back and is answered (R149, R154). -/
theorem takeUpRequest_failed {q : QueuedRequest} (hcalm : Calm s 2) (h : PathGranted s o) (hkind : reqKind q.record = some .reroute)
    (hcheck : rerouteCheck s q.record ≠ .ok) :
    takeUpRequest s o q = withResult { s with
      paths := { s.paths with slot := none }, arbiter := { s.arbiter with holder := none } } q.slot q.serial
      (plainFirst s q.record (rerouteCheck s q.record)) (bareSecond (reqTag q.record) .none) := by
  have hanswering : Calm (setItemPhase s o .answering) (0 + 2) :=
    ⟨hcalm.released, hcalm.threads, hcalm.waiters, hcalm.turn, hcalm.strikeWait, hcalm.room⟩
  have hlaunch := launch_plainResult (s := s) hanswering h.waits rfl q (rerouteCheck s q.record)
  simp only [takeUpRequest, hkind]
  split
  · next hok _ => exact absurd hok hcheck
  · exact hlaunch

end

end Sys2Proof.Machine

namespace Sys2Proof

open Machine

/-- Settles O53: the item of the operation slot decides what the take-up of the grant does. -/
theorem grantTakenUp : Obligations.GrantTakenUp := by
  intro s o hcalm hgranted
  have hexec : exec .grantTakeUp s = .next (takeUpGrant s) := live_released hcalm.released _
  rw [hexec]
  refine ⟨fun hstrikes => congrArg _ (takeUpGrant_waiting hgranted.slot hstrikes), fun hstrikes =>
    ⟨fun p e hitem he hstate => congrArg _ (takeUpGrant_restoring hcalm hgranted hstrikes hitem he hstate),
      fun p hitem he => congrArg _ (takeUpGrant_dropped hcalm hgranted hstrikes hitem he), fun q hitem hkind => ?_, ?_⟩⟩
  · rw [takeUpGrant_request hcalm hgranted hstrikes hitem]
    rcases hkind with hkind | hkind <;> simp only [takeUpRequest, hkind] <;> rfl
  · rintro q verdict p e hitem hkind hverdict hnamed
    rw [takeUpGrant_request hcalm hgranted hstrikes hitem]
    rw [← rerouteCheck_eq hnamed] at hverdict
    subst hverdict
    refine ⟨fun hfailed => congrArg _ (takeUpRequest_failed hcalm hgranted hkind hfailed), fun hok => ?_⟩
    have hsome : namedPath s q.record = some (p, e) := hnamed.resolve_left fun hnone => by
      simp [rerouteCheck, hnone] at hok
    simp only [takeUpRequest, hkind, hok, hsome]
    rfl

end Sys2Proof

/-!
PROOFS. What a computation answers: the route of a start slot, of a policy and of a class, and the outcome of the classes tried (O54).
-/

namespace Sys2Proof.Machine

/-! ### The route of one start slot (R127, R129) -/

theorem search_best (s : State) (q : Query) (x : Nat) (byNoise : Bool) (e : Engine) : (search s q x byNoise e).1.best = e.best := rfl

/-- The engine's record has no say in the route of a search. -/
theorem search_route (s : State) (q : Query) (x : Nat) (byNoise : Bool) (e : Engine) :
    (search s q x byNoise e).2 = routeBy s q byNoise x := rfl

theorem searchSlot_eq (s : State) (q : Query) (e : Engine) (x : Nat) :
    (searchSlot s q e x).2 = routeAt s q x ∧ (searchSlot s q e x).1.best = e.best := by
  unfold searchSlot routeAt
  cases q.inputs.order with
  | cost => exact ⟨rfl, rfl⟩
  | noise => exact ⟨rfl, rfl⟩
  | costThenNoise =>
    have hbest := search_best s q x false e
    rw [← search_route s q x false e]
    generalize search s q x false e = found at hbest
    obtain ⟨e1, _ | r⟩ := found
    · exact ⟨rfl, hbest⟩
    · exact ⟨rfl, hbest⟩

theorem start_of_routeBy {s : State} {q : Query} {byNoise : Bool} {x : Nat} {r : Route} (h : routeBy s q byNoise x = some r) :
    r.start = x := by
  simp only [routeBy, search] at h
  split at h
  · obtain ⟨l, -, rfl⟩ := Option.map_eq_some_iff.1 h
    rfl
  · cases h

theorem start_of_routeAt {s : State} {q : Query} {x : Nat} {r : Route} (h : routeAt s q x = some r) : r.start = x := by
  unfold routeAt at h
  split at h
  · exact start_of_routeBy h
  · exact start_of_routeBy h
  · exact (Option.or_eq_some_iff.1 h).elim start_of_routeBy fun hnoise => start_of_routeBy hnoise.2

/-! ### The route the policy chooses (R130, R131) -/

/-- The better of a candidate and the route of one more start slot. -/
def betterAt (s : State) (q : Query) (best : Option Route) (x : Nat) : Option Route :=
  betterRoute q.inputs.order best (routeAt s q x)

/-- The route of a query's searches (R130, R131): of the first or the last allowed start slot that gives one, or the least of all. -/
def policyRoute (s : State) (q : Query) : Option Route :=
  match q.inputs.policy with
  | .firstFit => (allowedStarts q.inputs.mask q.width).findSome? (routeAt s q)
  | .lastFit => (allowedStarts q.inputs.mask q.width).reverse.findSome? (routeAt s q)
  | .lowestCost => (allowedStarts q.inputs.mask q.width).foldl (betterAt s q) none

theorem visitFirst_best (s : State) (q : Query) (xs : List Nat) {e : Engine} (he : e.best = none) :
    (visitFirst s q xs e).best = xs.findSome? (routeAt s q) := by
  induction xs generalizing e with
  | nil => exact he
  | cons x xs ih =>
    obtain ⟨hroute, hbest⟩ := searchSlot_eq s q e x
    rw [List.findSome?_cons, ← hroute, visitFirst]
    generalize searchSlot s q e x = found at hbest
    obtain ⟨e1, _ | r⟩ := found
    · exact ih (hbest.trans he)
    · rfl

theorem visitAll_best (s : State) (q : Query) (xs : List Nat) (e : Engine) :
    (visitAll s q xs e).best = xs.foldl (betterAt s q) e.best := by
  induction xs generalizing e with
  | nil => rfl
  | cons x xs ih =>
    obtain ⟨hroute, hbest⟩ := searchSlot_eq s q e x
    refine (ih _).trans ?_
    rw [List.foldl_cons, betterAt, ← hroute, ← hbest]

/-- The searches of a query leave its route as the best candidate, whatever the engine held before. -/
theorem visit_best (s : State) (q : Query) (e : Engine) : (visit s q e).best = policyRoute s q := by
  unfold visit policyRoute
  cases q.inputs.policy with
  | firstFit => exact visitFirst_best s q _ rfl
  | lastFit => exact visitFirst_best s q _ rfl
  | lowestCost => exact visitAll_best s q _ _

theorem mem_allowedStarts {q : Query} {x : Nat} : x ∈ allowedStarts q.inputs.mask q.width ↔ x < 80 ∧ StartAllowed q x := by
  simp only [allowedStarts, List.mem_filter, List.mem_range, Bool.and_eq_true, beq_iff_eq, decide_eq_true_eq, and_assoc]
  rfl

/-- Of a list in order, the first member that gives an answer is the one that comes before all others that give any. -/
theorem findSome?_eq_of_first {α β : Type} {before : α → α → Prop} (hasymm : ∀ a b, before a b → ¬ before b a)
    {f : α → Option β} {x : α} {r : β} (hr : f x = some r) {xs : List α} (hsorted : xs.Pairwise before) (hx : x ∈ xs)
    (hfirst : ∀ y ∈ xs, y ≠ x → ∀ other, f y = some other → before x y) : xs.findSome? f = some r := by
  induction xs with
  | nil => cases hx
  | cons y ys ih =>
    obtain ⟨hy, hys⟩ := List.pairwise_cons.1 hsorted
    by_cases hyx : y = x
    · rw [hyx, List.findSome?_cons, hr]
    · have hmem : x ∈ ys := (List.mem_cons.1 hx).resolve_left fun h => hyx h.symm
      have hnone : f y = none := Option.eq_none_iff_forall_ne_some.2 fun other hother =>
        hasymm _ _ (hy x hmem) (hfirst y List.mem_cons_self hyx other hother)
      rw [List.findSome?_cons, hnone]
      exact ih hys hmem fun z hz => hfirst z (List.mem_cons_of_mem y hz)

theorem lexLess_asymm {xs ys : List Nat} (h : lexLess xs ys = true) : lexLess ys xs = false := by
  induction xs generalizing ys with
  | nil => cases h
  | cons x xs ih =>
    cases ys with
    | nil => rfl
    | cons y ys =>
      simp only [lexLess, Bool.or_eq_true, Bool.and_eq_true, decide_eq_true_eq, beq_iff_eq] at h
      rcases h with hlt | ⟨rfl, htail⟩
      · simp only [lexLess, Bool.or_eq_false_iff, decide_eq_false_iff_not, Bool.and_eq_false_iff, beq_eq_false_iff_ne]
        omega
      · simp [lexLess, ih htail]

/-- No candidate is lesser than route `r`: there is none, or it is `r`, or `r` is lesser (R131). -/
def Bests (order : OrderMode) (r : Route) (candidate : Option Route) : Prop :=
  ∀ other, candidate = some other → other = r ∨ lexLess (r.key order) (other.key order) = true

section
variable {order : OrderMode} {r : Route} {best candidate : Option Route}

theorem betterRoute_of_best_new (h : Bests order r best) : betterRoute order best (some r) = some r := by
  cases best with
  | none => rfl
  | some b =>
    rcases h b rfl with rfl | hless
    · exact ite_self _
    · exact if_pos hless

theorem betterRoute_of_best_old (h : Bests order r candidate) : betterRoute order (some r) candidate = some r := by
  cases candidate with
  | none => rfl
  | some c =>
    rcases h c rfl with rfl | hless
    · exact ite_self _
    · exact if_neg (by simp [lexLess_asymm hless])

theorem bests_betterRoute (hbest : Bests order r best) (hcandidate : Bests order r candidate) :
    Bests order r (betterRoute order best candidate) := by
  cases best with
  | none => exact hcandidate
  | some b =>
    cases candidate with
    | none => exact hbest
    | some c =>
      rw [betterRoute]
      split
      · exact hcandidate
      · exact hbest

end

section
variable {s : State} {q : Query} {r : Route}

theorem foldl_betterAt_of_best {xs : List Nat} (hxs : ∀ y ∈ xs, Bests q.inputs.order r (routeAt s q y)) :
    xs.foldl (betterAt s q) (some r) = some r := by
  induction xs with
  | nil => rfl
  | cons y ys ih =>
    obtain ⟨hy, hys⟩ := List.forall_mem_cons.1 hxs
    rw [List.foldl_cons, betterAt, betterRoute_of_best_old hy, ih hys]

/-- Of the routes of a list of start slots, the one no other is lesser than stays (R131). -/
theorem foldl_betterAt_eq {x : Nat} (hr : routeAt s q x = some r) {xs : List Nat} (hx : x ∈ xs)
    (hxs : ∀ y ∈ xs, Bests q.inputs.order r (routeAt s q y)) {best : Option Route} (hbest : Bests q.inputs.order r best) :
    xs.foldl (betterAt s q) best = some r := by
  induction xs generalizing best with
  | nil => cases hx
  | cons y ys ih =>
    obtain ⟨hy, hys⟩ := List.forall_mem_cons.1 hxs
    rw [List.foldl_cons, betterAt]
    rcases List.mem_cons.1 hx with rfl | hmem
    · rw [hr, betterRoute_of_best_new hbest, foldl_betterAt_of_best hys]
    · exact ih hmem hys (bests_betterRoute hbest hy)

theorem foldl_betterAt_none {xs : List Nat} (h : ∀ x ∈ xs, routeAt s q x = none) : xs.foldl (betterAt s q) none = none := by
  induction xs with
  | nil => rfl
  | cons x xs ih =>
    obtain ⟨hx, hxs⟩ := List.forall_mem_cons.1 h
    rw [List.foldl_cons, betterAt, hx]
    exact ih hxs

theorem policyRoute_of_noRoute (h : NoRoute s q) : policyRoute s q = none := by
  have hnone : ∀ x ∈ allowedStarts q.inputs.mask q.width, routeAt s q x = none := fun x hx =>
    (mem_allowedStarts.1 hx).elim (h x)
  unfold policyRoute
  split
  · exact List.findSome?_eq_none_iff.2 hnone
  · exact List.findSome?_eq_none_iff.2 fun x hx => hnone x (List.mem_reverse.1 hx)
  · exact foldl_betterAt_none hnone

theorem Route.key_eq (order : OrderMode) (r : Route) : r.key order =
    if order = .noise then [r.noise, r.cost, r.hops, r.start] else [r.cost, r.noise, r.hops, r.start] := by cases order <;> rfl

/-- The route the policy chooses is the one its searches find. -/
theorem policyRoute_of_chosen (h : ChosenRoute s q r) : policyRoute s q = some r := by
  obtain ⟨x, hx, hallowed, hr, hothers⟩ := h
  have hmem : x ∈ allowedStarts q.inputs.mask q.width := mem_allowedStarts.2 ⟨hx, hallowed⟩
  have hrising : (allowedStarts q.inputs.mask q.width).Pairwise (· < ·) := List.pairwise_lt_range.filter _
  unfold policyRoute
  cases hpolicy : q.inputs.policy with
  | firstFit =>
    simp only [hpolicy] at hothers
    exact findSome?_eq_of_first (fun _ _ => Nat.lt_asymm) hr hrising hmem fun y hy hne =>
      (mem_allowedStarts.1 hy).elim fun hlt ha => hothers y hlt ha hne
  | lastFit =>
    simp only [hpolicy] at hothers
    exact findSome?_eq_of_first (before := fun a b => b < a) (fun _ _ => Nat.lt_asymm) hr (List.pairwise_reverse.2 hrising)
      (List.mem_reverse.2 hmem) fun y hy hne => (mem_allowedStarts.1 (List.mem_reverse.1 hy)).elim fun hlt ha => hothers y hlt ha hne
  | lowestCost =>
    simp only [hpolicy] at hothers
    refine foldl_betterAt_eq hr hmem (fun y hy other hother => ?_) fun other hother => nomatch hother
    by_cases hyx : y = x
    · exact .inl (Option.some.inj (hother.symm.trans (hyx ▸ hr)))
    · obtain ⟨hlt, ha⟩ := mem_allowedStarts.1 hy
      have hless := hothers y hlt ha hyx other hother
      rw [← start_of_routeAt hr, ← start_of_routeAt hother] at hless
      exact .inr (by simpa only [Route.key_eq] using hless)

end

/-! ### Diversity and the query of a class (R117, R118, R133) -/

theorem mem_diverseLinks {s : State} {r : Route} {k : Nat} : k ∈ diverseLinks s r ↔
    k ∈ r.links ∨ ∃ l, (k, l) ∈ s.topology.links ∧ ∃ g ∈ l.attrs.srlgs, g ∈ routeSrlgs s r := by
  simp [diverseLinks]

theorem mem_transitNodes {s : State} {q : Query} {r : Route} {n : Nat} :
    n ∈ transitNodes s q r ↔ n ∈ routeNodes s r ∧ n ≠ q.src ∧ n ≠ q.dst := by
  simp [transitNodes]

theorem isDiverseQuery_diverse (s : State) (q : Query) (reference : Option Route) :
    IsDiverseQuery s q reference (q.diverse s reference) := by
  cases reference with
  | none => exact ⟨rfl, fun k => by simp [Query.diverse], fun n => by simp [Query.diverse]⟩
  | some r =>
    refine ⟨rfl, fun k => by simp [Query.diverse, mem_diverseLinks], fun n => ?_⟩
    by_cases hdiverse : q.inputs.nodeDiverse = true <;> simp [Query.diverse, hdiverse, mem_transitNodes]

theorem isClassQuery_classQuery (s : State) (i : Inputs) (src dst k : Nat) :
    IsClassQuery s i src dst k (classQuery s i src dst k) := by
  refine ⟨rfl, fun n => ?_⟩
  have hnode : ∀ id : Id32, (if id = 0 then none else (findNode s id).map (·.1)) = some n ↔
      id ≠ 0 ∧ (findNode s id).map (·.1) = some n := fun id => by
    by_cases h : id = 0 <;> simp [h]
  simp only [classQuery, List.mem_filterMap, hnode]

/-! ### One class (R119, R134) -/

/-- The query of the backup of a primary (R121, R133). -/
def backupQuery (s : State) (q : Query) (p : Route) : Query := ({ q with taken := some p } : Query).diverse s (some p)

/-- The result for one class: its primary, and with PAIR its backup (R134). -/
def classResult (s : State) (i : Inputs) (a b k : Nat) : ClassResult :=
  let q := classQuery s i a b k
  match policyRoute s (q.diverse s i.reference) with
  | none => .noPrimary
  | some p =>
    if i.pair = false then .found p none .none
    else
      match policyRoute s (backupQuery s q p) with
      | some r => .found p (some r) .ok
      | none => if i.requireBackup then .noBackup else .found p none .noBackup

theorem computeClass_result (s : State) (i : Inputs) (a b k : Nat) (e : Engine) :
    (computeClass s i a b k e).2 = classResult s i a b k := by
  simp only [computeClass, visit_best, classResult, backupQuery]
  cases policyRoute s ((classQuery s i a b k).diverse s i.reference) with
  | none => rfl
  | some p =>
    cases i.pair with
    | false => rfl
    | true =>
      dsimp only [Bool.not_true, Bool.false_eq_true]
      cases policyRoute s (({ classQuery s i a b k with taken := some p } : Query).diverse s (some p)) with
      | some r => rfl
      | none => cases i.requireBackup <;> rfl

section
variable {s : State} {i : Inputs} {a b k : Nat} {p : Route}

theorem classResult_noPrimary (h : NoRoute s ((classQuery s i a b k).diverse s i.reference)) :
    classResult s i a b k = .noPrimary := by
  simp only [classResult, policyRoute_of_noRoute h]

variable (h : ChosenRoute s ((classQuery s i a b k).diverse s i.reference) p)
include h

theorem classResult_alone (hpair : i.pair = false) : classResult s i a b k = .found p none .none := by
  simp only [classResult, policyRoute_of_chosen h, hpair, if_true]

theorem classResult_pair {r : Route} (hpair : i.pair = true) (hbackup : ChosenRoute s (backupQuery s (classQuery s i a b k) p) r) :
    classResult s i a b k = .found p (some r) .ok := by
  simp only [classResult, policyRoute_of_chosen h, hpair, policyRoute_of_chosen hbackup, Bool.true_eq_false, if_false]

theorem classResult_noBackup (hpair : i.pair = true) (hbackup : NoRoute s (backupQuery s (classQuery s i a b k) p)) :
    classResult s i a b k = if i.requireBackup then .noBackup else .found p none .noBackup := by
  simp only [classResult, policyRoute_of_chosen h, hpair, policyRoute_of_noRoute hbackup, Bool.true_eq_false, if_false]

end

/-- What a computation hands back for the result of class `k` (R137). -/
def ClassResult.answer (a b k : Nat) : ClassResult → Computed
  | .noPrimary => handsOn .noPath a b
  | .noBackup => handsOn .noBackup a b
  | .found p r o => { outcome := .ok, cls := some k, primary := some p, backup := r, backupOutcome := o, src := a, dst := b }

/-- What a computation for class `k` alone hands back (R119, R137). -/
def classAnswer (s : State) (i : Inputs) (a b k : Nat) : Computed :=
  if classServed s a b k then (classResult s i a b k).answer a b k else handsOn .classUnsupported a b

/-- A class succeeds, or it hands on one of three outcomes and nothing else. -/
theorem classAnswer_cases (s : State) (i : Inputs) (a b k : Nat) : (classAnswer s i a b k).outcome = .ok ∨
    ∃ o, (o = .classUnsupported ∨ o = .noPath ∨ o = .noBackup) ∧ classAnswer s i a b k = handsOn o a b := by
  unfold classAnswer
  split
  · cases classResult s i a b k with
    | noPrimary => exact .inr ⟨_, .inr (.inl rfl), rfl⟩
    | noBackup => exact .inr ⟨_, .inr (.inr rfl), rfl⟩
    | found p r o => exact .inl rfl
  · exact .inr ⟨_, .inl rfl, rfl⟩

theorem classServed_iff (s : State) (a b k : Nat) : classServed s a b k = true ↔
    domainHasClass s (nodeDomain s a) k = true ∧ domainHasClass s (nodeDomain s b) k = true := Bool.and_eq_true_iff

theorem classAnswer_eq {s : State} {i : Inputs} {a b k : Nat} {x : ClassResult} (hserved : classServed s a b k = true)
    (hx : classResult s i a b k = x) : classAnswer s i a b k = x.answer a b k := by
  rw [classAnswer, if_pos hserved, hx]

/-! ### The class of the inputs is not read by a search (R132) -/

/-- A query whose inputs name another class, or AUTO. -/
def Query.withClass (q : Query) (c : Option Nat) : Query := { q with inputs := { q.inputs with cls := c } }

section
variable (s : State) (q : Query) (c : Option Nat)

theorem extractions_withClass (byNoise : Bool) (es : List Edge) (fuel : Nat) (labels : Table Label) :
    extractions s (q.withClass c) byNoise es fuel labels = extractions s q byNoise es fuel labels := by
  induction fuel generalizing labels with
  | zero => rfl
  | succ fuel ih =>
    have hrelax : relax s (q.withClass c) byNoise es = relax s q byNoise es := rfl
    have hextend : mayExtend s (q.withClass c) = mayExtend s q := rfl
    have hdst : (q.withClass c).dst = q.dst := rfl
    simp only [extractions, ih, hrelax, hextend, hdst]

theorem routeBy_withClass (byNoise : Bool) (x : Nat) : routeBy s (q.withClass c) byNoise x = routeBy s q byNoise x := by
  have hedges : eligibleEdges s (q.withClass c) x = eligibleEdges s q x := rfl
  simp only [routeBy, search, extractions_withClass, hedges]
  rfl

theorem policyRoute_withClass : policyRoute s (q.withClass c) = policyRoute s q := by
  have hroute : routeAt s (q.withClass c) = routeAt s q := funext fun x => by
    unfold routeAt
    rw [routeBy_withClass, routeBy_withClass]
    rfl
  have hbetter : betterAt s (q.withClass c) = betterAt s q := by
    unfold betterAt
    rw [hroute]
    rfl
  unfold policyRoute
  rw [hroute, hbetter]
  rfl

theorem diverse_withClass (r : Option Route) : (q.withClass c).diverse s r = (q.diverse s r).withClass c := by cases r <;> rfl

/-- AUTO answers for each class what the class alone would. -/
theorem classAnswer_withClass (i : Inputs) (a b k : Nat) : classAnswer s { i with cls := c } a b k = classAnswer s i a b k := by
  have hquery : classQuery s { i with cls := c } a b k = (classQuery s i a b k).withClass c := rfl
  have hbackup : ∀ q p, backupQuery s (q.withClass c) p = (backupQuery s q p).withClass c := fun _ _ => rfl
  simp only [classAnswer, classResult, hquery, hbackup, diverse_withClass, policyRoute_withClass]

end

/-! ### The classes tried (R132, R137) -/

/-- The outcome so far, once a class has failed with `o`: NO_BACKUP stays, and stands before NO_PATH, and that before
CLASS_UNSUPPORTED. -/
def graver (seen o : ReqOutcome) : ReqOutcome :=
  if o = .classUnsupported then seen else if seen = .noBackup ∨ o = .noBackup then .noBackup else .noPath

/-- The answer of the first class of a list that succeeds, and else the gravest outcome. -/
def firstAnswer (given : Nat → Computed) (a b : Nat) : List Nat → ReqOutcome → Computed
  | [], seen => handsOn seen a b
  | k :: ks, seen => if (given k).outcome = .ok then given k else firstAnswer given a b ks (graver seen (given k).outcome)

theorem tryClasses_answer (s : State) (i : Inputs) (a b : Nat) (ks : List Nat) (seen : ReqOutcome) (e : Engine) :
    (tryClasses s i a b ks seen e).2 = firstAnswer (classAnswer s i a b) a b ks seen := by
  induction ks generalizing seen e with
  | nil => rfl
  | cons k ks ih =>
    unfold tryClasses firstAnswer
    cases hserved : classServed s a b k with
    | false =>
      have hanswer : classAnswer s i a b k = handsOn .classUnsupported a b := if_neg (by simp [hserved])
      rw [hanswer]
      exact ih seen e
    | true =>
      rw [classAnswer_eq hserved (computeClass_result s i a b k e).symm]
      generalize computeClass s i a b k e = found
      obtain ⟨e1, x⟩ := found
      cases x with
      | noPrimary =>
        refine (ih _ e1).trans ?_
        simp [ClassResult.answer, handsOn, graver]
      | noBackup =>
        refine (ih _ e1).trans ?_
        simp [ClassResult.answer, handsOn, graver]
      | found p r o => rfl

section
variable {given : Nat → Computed} {a b : Nat} {ks : List Nat} {seen : ReqOutcome}

/-- Of classes tried in falling order, the highest that succeeds answers. -/
theorem firstAnswer_highest {k : Nat} (hk : k ∈ ks) (hsorted : ks.Pairwise (· > ·)) (hok : (given k).outcome = .ok)
    (habove : ∀ m ∈ ks, k < m → (given m).outcome ≠ .ok) : firstAnswer given a b ks seen = given k := by
  induction ks generalizing seen with
  | nil => cases hk
  | cons m ms ih =>
    obtain ⟨hm, hms⟩ := List.pairwise_cons.1 hsorted
    rw [firstAnswer]
    rcases List.mem_cons.1 hk with rfl | hmem
    · exact if_pos hok
    · rw [if_neg (habove m List.mem_cons_self (hm k hmem))]
      exact ih hmem hms fun j hj => habove j (List.mem_cons_of_mem m hj)

/-- When every class fails, the gravest outcome is handed on. -/
theorem firstAnswer_failed (h : ∀ k ∈ ks, (given k).outcome ≠ .ok) :
    firstAnswer given a b ks seen = handsOn ((ks.map fun k => (given k).outcome).foldl graver seen) a b := by
  induction ks generalizing seen with
  | nil => rfl
  | cons k ks ih =>
    obtain ⟨hk, hks⟩ := List.forall_mem_cons.1 h
    rw [firstAnswer, if_neg hk, ih hks]
    rfl

end

section
variable {os : List ReqOutcome} {seen : ReqOutcome}

theorem gravest_noBackup (h : seen = .noBackup ∨ .noBackup ∈ os) : os.foldl graver seen = .noBackup := by
  induction os generalizing seen with
  | nil => simpa using h
  | cons o os ih =>
    refine ih ?_
    rcases h with rfl | h
    · exact .inl (by simp [graver])
    · rcases List.mem_cons.1 h with rfl | h
      · exact .inl (by simp [graver])
      · exact .inr h

theorem gravest_noPath (hseen : seen = .noPath ∨ seen = .classUnsupported) (hos : ∀ o ∈ os, o = .noPath ∨ o = .classUnsupported)
    (h : seen = .noPath ∨ .noPath ∈ os) : os.foldl graver seen = .noPath := by
  induction os generalizing seen with
  | nil => simpa using h
  | cons o os ih =>
    obtain ⟨ho, hrest⟩ := List.forall_mem_cons.1 hos
    rcases ho with rfl | rfl
    · have hnext : graver seen .noPath = .noPath := by rcases hseen with rfl | rfl <;> rfl
      exact ih (.inl hnext) hrest (.inl hnext)
    · have hnext : graver seen .classUnsupported = seen := rfl
      refine ih (hnext ▸ hseen) hrest (hnext ▸ h.imp_right fun h => ?_)
      simpa using h

theorem gravest_classUnsupported (h : ∀ o ∈ os, o = .classUnsupported) : os.foldl graver seen = seen := by
  induction os with
  | nil => rfl
  | cons o os ih =>
    obtain ⟨rfl, hos⟩ := List.forall_mem_cons.1 h
    exact ih hos

end

/-! ### AUTO (R132) -/

/-- What AUTO hands back, from what each class alone does. -/
def autoAnswer (given : Nat → Computed) (a b : Nat) : Computed := firstAnswer given a b [3, 2, 1, 0] .classUnsupported

section
variable {s : State} {i : Inputs} {a b : Nat}

theorem mem_autoClasses {k : Nat} : k ∈ [3, 2, 1, 0] ↔ k ≤ 3 := by
  simp only [List.mem_cons, List.not_mem_nil, or_false]
  omega

theorem autoAnswer_highest {given : Nat → Computed} {k : Nat} (hk : k ≤ 3) (hok : (given k).outcome = .ok)
    (habove : ∀ m ≤ 3, k < m → (given m).outcome ≠ .ok) : autoAnswer given a b = given k :=
  firstAnswer_highest (mem_autoClasses.2 hk) (by decide) hok fun m hm => habove m (mem_autoClasses.1 hm)

/-- The outcomes of the classes that AUTO tries. -/
def autoOutcomes (given : Nat → Computed) : List ReqOutcome := [3, 2, 1, 0].map fun k => (given k).outcome

theorem mem_autoOutcomes {given : Nat → Computed} {o : ReqOutcome} :
    o ∈ autoOutcomes given ↔ ∃ k ≤ 3, (given k).outcome = o := by
  simp only [autoOutcomes, List.mem_map, mem_autoClasses]

theorem autoAnswer_failed {given : Nat → Computed} (hfail : ∀ k ≤ 3, (given k).outcome ≠ .ok) :
    autoAnswer given a b = handsOn ((autoOutcomes given).foldl graver .classUnsupported) a b :=
  firstAnswer_failed fun k hk => hfail k (mem_autoClasses.1 hk)

variable (hfail : ∀ k ≤ 3, (classAnswer s i a b k).outcome ≠ .ok)
include hfail

theorem autoAnswer_noBackup (h : ∃ k ≤ 3, (classAnswer s i a b k).outcome = .noBackup) :
    autoAnswer (classAnswer s i a b) a b = handsOn .noBackup a b := by
  rw [autoAnswer_failed hfail, gravest_noBackup (.inr (mem_autoOutcomes.2 h))]

theorem autoAnswer_noPath (hbackup : ∀ k ≤ 3, (classAnswer s i a b k).outcome ≠ .noBackup)
    (h : ∃ k ≤ 3, (classAnswer s i a b k).outcome = .noPath) : autoAnswer (classAnswer s i a b) a b = handsOn .noPath a b := by
  rw [autoAnswer_failed hfail, gravest_noPath (.inr rfl) ?_ (.inr (mem_autoOutcomes.2 h))]
  intro o ho
  obtain ⟨k, hk, rfl⟩ := mem_autoOutcomes.1 ho
  have hothers := hbackup k hk
  rcases classAnswer_cases s i a b k with hok | ⟨o, ho, hanswer⟩
  · exact absurd hok (hfail k hk)
  · rw [hanswer] at hothers ⊢
    exact (ho.imp_right fun h => h.resolve_right hothers).symm

theorem autoAnswer_unsupported (h : ∀ k ≤ 3, (classAnswer s i a b k).outcome = .classUnsupported) :
    autoAnswer (classAnswer s i a b) a b = handsOn .classUnsupported a b := by
  rw [autoAnswer_failed hfail, gravest_classUnsupported fun o ho => ?_]
  obtain ⟨k, hk, rfl⟩ := mem_autoOutcomes.1 ho
  exact h k hk

end

/-! ### A whole computation (R118, R119, R132, R137) -/

section
variable {s : State} {i : Inputs} {a b : Nat} {x y : NodeEntry}

theorem compute_unknownNode (h : findNode s i.srcId = none ∨ findNode s i.dstId = none) (e : Engine) :
    (compute s i e).2 = handsOn .unknownNode 0 0 := by
  unfold compute
  split
  · next hsrc hdst => simp [hsrc, hdst] at h
  · rfl

variable (hsrc : findNode s i.srcId = some (a, x)) (hdst : findNode s i.dstId = some (b, y))
include hsrc hdst

theorem compute_sameNode (h : a = b) (e : Engine) : (compute s i e).2 = handsOn .sameNode a b := by
  simp only [compute, hsrc, hdst, if_pos h]
  rfl

theorem compute_classes (h : a ≠ b) (e : Engine) :
    (compute s i e).2 = firstAnswer (classAnswer s i a b) a b (classesTried i) .classUnsupported := by
  simp only [compute, hsrc, hdst, if_neg h, tryClasses_answer]

theorem compute_class {k : Nat} (h : a ≠ b) (hk : i.cls = some k) (e : Engine) : (compute s i e).2 = classAnswer s i a b k := by
  have htried : classesTried i = [k] := by rw [classesTried, hk]
  rw [compute_classes hsrc hdst h, htried]
  rcases classAnswer_cases s i a b k with hok | ⟨o, ho, hanswer⟩
  · exact if_pos hok
  · rw [firstAnswer, hanswer]
    rcases ho with rfl | rfl | rfl <;> rfl

theorem compute_auto (h : a ≠ b) (hauto : i.cls = none) (e : Engine) :
    (compute s i e).2 = autoAnswer (classAnswer s i a b) a b := by
  have htried : classesTried i = [3, 2, 1, 0] := by rw [classesTried, hauto]
  rw [compute_classes hsrc hdst h, htried, autoAnswer]

end

end Sys2Proof.Machine

/-!
PROOFS. The end of a computation: what each kind of item does with the outcome (O54).
-/

namespace Sys2Proof.Machine

/-! ### The reservations of a SETUP's routes (R147) -/

/-- The reservation sets with a route's range added on its links. -/
def Route.reservedIn (t : Table SlotSet) (r : Route) : Table SlotSet :=
  r.links.foldl (fun t k => t.setD k 0 (t.getD k 0 ||| r.range)) t

theorem reserveRoute_eq (s : State) (r : Route) : reserveRoute s r = withReserved s (r.reservedIn s.paths.reserved) :=
  List.foldl_hom (withReserved s) (l := r.links) (init := s.paths.reserved) fun _ _ => rfl

theorem Table.getD_setD {α : Type} [DecidableEq α] (t : Table α) (i j : Nat) (d a : α) :
    (t.setD i d a).getD j d = if j = i then a else t.getD j d := by
  split
  · next h => rw [h, Table.getD_setD_self]
  · next h => exact Table.getD_setD_ne t d a h

/-- A range added twice to a set is added once. -/
theorem getD_reservedIn (r : Route) (t : Table SlotSet) (k : Nat) :
    (r.reservedIn t).getD k 0 = if k ∈ r.links then t.getD k 0 ||| r.range else t.getD k 0 := by
  unfold Route.reservedIn
  generalize r.range = range
  induction r.links generalizing t with
  | nil => rfl
  | cons j ks ih =>
    rw [List.foldl_cons, ih, Table.getD_setD]
    by_cases hj : k = j <;> by_cases hk : k ∈ ks <;> simp [hj, hk, BitVec.or_assoc]

/-- The routes of a SETUP, reserved one after another. -/
theorem getD_foldl_reservedIn (rs : List Route) (t : Table SlotSet) (k : Nat) :
    (rs.foldl Route.reservedIn t).getD k 0 =
      rs.foldl (fun acc r => if k ∈ r.links then acc ||| r.range else acc) (t.getD k 0) := by
  induction rs generalizing t with
  | nil => rfl
  | cons r rs ih => rw [List.foldl_cons, List.foldl_cons, ih, getD_reservedIn]

/-! ### The items of a changed path (R168) -/

theorem pathItems_eq {s : State} {p : Nat} {e : PathEntry} (he : s.paths.entries.get? p = some e) (now : PathEntry) (why : PathReason) :
    pathItems s p now why = (pathSaid p e.state now.state why).map Said.op := by
  rw [pathItems, he, pathSaid]
  by_cases h : e.state = now.state
  · rw [if_pos h, if_neg (by simp [h])]
    rfl
  · rw [if_neg h, if_pos (by simpa using h)]
    rfl

theorem places_pathState (s : State) (p : Nat) (why : PathReason) : Said.places s (.pathState p why) ≤ 2 := by
  rw [Said.places]
  split <;> omega

theorem places_pathSaid (s : State) (p : Nat) (old new : PathState) (why : PathReason) : places s (pathSaid p old new why) ≤ 3 := by
  have hpost := places_pathState s p why
  rw [pathSaid]
  split
  · simp [places, Said.places]
  · simp only [places, List.map_cons, List.map_nil, List.sum_cons, List.sum_nil, Said.places] at hpost ⊢
    omega

theorem get?_of_namedPath {s : State} {r : Line} {p : Nat} {e : PathEntry} (h : namedPath s r = some (p, e)) :
    s.paths.entries.get? p = some e := by
  unfold namedPath at h
  split at h
  · obtain ⟨e', he, heq⟩ := Option.map_eq_some_iff.1 h
    cases heq
    exact he
  · cases h

/-! ### The outcome is handed back (R137) -/

/-- The engine has handed back its outcome and keeps no trace; the item is being answered (R137). -/
def handedBack (s : State) (o : Operation) : State := { setItemPhase s o .answering with engine := Engine.idle }

theorem Calm.handedBack {s : State} {n : Nat} (h : Calm s n) (o : Operation) : Calm (handedBack s o) n :=
  ⟨h.released, h.threads, h.waiters, h.turn, h.strikeWait, h.room⟩

theorem Calm.of_sameFrame {s t : State} {n : Nat} (h : Calm s n) (hframe : SameFrame s t) : Calm t n where
  released := hframe.inReset.trans h.released
  threads := hframe.threads.trans h.threads
  waiters := by rw [hframe.writeBack, h.waiters]
  turn := hframe.turn.trans h.turn
  strikeWait := hframe.strikeWait.trans h.strikeWait
  room := by rw [hframe.writeBack]; exact h.room

theorem endComputation_eq {s : State} {o : Operation} {i : Inputs} {n : Nat} {x : State × List Op} (hcalm : Calm s n)
    (h : Computing s o i) (hx : endItem (handedBack s o) o.item (compute s i s.engine).2 = x) :
    endComputation s = launch x.1 .operation x.2 := by
  subst hx
  simp only [endComputation, h.slot, h.inputs, h.phase, hcalm.threads]
  rfl

/-! ### PROBE and SETUP (R146, R147) -/

section
variable {s : State} {o : Operation} {q : QueuedRequest} {c : Computed}

theorem endItem_unchanged (h : reqKind q.record = some .probe ∨ (reqKind q.record = some .setup ∧ c.primary = none)) :
    endItem s (.request q) c = (s, [.pathGrantEnd] ++ computedResult q c none) := by
  rcases h with hkind | ⟨hkind, hnone⟩
  · simp only [endItem, hkind]
  · simp only [endItem, hkind, endSetup, hnone]

/-- The two result lines of a PROBE or SETUP that has changed nothing. -/
theorem launch_computedResult (hcalm : Calm s 6) (hwaits : s.arbiter.waitTopology = false ∧ s.arbiter.waitPath = false) :
    launch (handedBack s o) .operation ([.pathGrantEnd] ++ computedResult q c none) =
    withResult (itemEnded s) q.slot q.serial (resultLine s (.first (reqTag q.record) c.outcome c.cls none (routeSource c.primary)))
      (resultLine s (.second (reqTag q.record) c.backupOutcome (routeSource c.backup))) := by
  have hlines : ∀ l, resultLine (handedBack s o) l = resultLine s l := resultLine_congr rfl
  rw [← hlines, ← hlines]
  exact launch_released_results (n := 4) (xs := []) (hcalm.handedBack o) hwaits q _ _

end

section
variable {s : State} {p : Nat} {c : Computed} (l : Line) (r : Route)

/-- A free path is entered, with its generation and its notice record at their first values (R147 steps 2 and 3). -/
def enterPath (s : State) (p : Nat) (l : Line) (c : Computed) (r : Route) : State :=
  let u : State := { s with paths := { s.paths with generations := s.paths.generations.setD p 0 0 } }
  storePath (setRecord u p (noticeRecord u p).toIdle) p (newPath l c r)

/-- The routes of a SETUP are reserved before its path is entered (R147 step 1). -/
theorem allocatePath_eq : allocatePath s p l c r =
    enterPath (withReserved s ((r :: c.backup.toList).foldl Route.reservedIn s.paths.reserved)) p l c r := by
  obtain ⟨outcome, cls, primary, backup, backupOutcome, src, dst⟩ := c
  cases backup with
  | none => exact congrArg (enterPath · p l _ r) (reserveRoute_eq s r)
  | some b =>
    refine congrArg (enterPath · p l _ r) ((reserveRoute_eq (reserveRoute s r) b).trans ?_)
    rw [reserveRoute_eq s r]
    rfl

/-- What the entering of a free path changes: it has generation 1 (R147, R156). -/
theorem enterPath_eq (hfree : s.paths.entries.get? p = none) : enterPath s p l c r = { s with
    paths := { s.paths with
      entries := s.paths.entries.set p (newPath l c r)
      generations := (s.paths.generations.setD p 0 0).setD p 0 1
      restoration := removeNat p s.paths.restoration }
    notices := { s.notices with records := s.notices.records.setD p NoticeRecord.idle (noticeRecord s p).toIdle } } := by
  have hgeneration : (s.paths.generations.setD p 0 0).getD p 0 + 1 = 1 := by rw [Table.getD_setD_self]; rfl
  have hchanged : (s.paths.entries.get? p).map (·.state) ≠ some (newPath l c r).state := by rw [hfree]; nofun
  simp only [enterPath, storePath, setRecord, noticeRecord, generationOf, hgeneration]
  rw [if_pos hchanged]
  rfl

end

section
variable {s : State} {o : Operation} {q : QueuedRequest} {c : Computed} {p : Nat} {r : Route} (hcalm : Calm s 6)
  (hwaits : s.arbiter.waitTopology = false ∧ s.arbiter.waitPath = false)

theorem endItem_setup {u : State} (hkind : reqKind q.record = some .setup) (hr : c.primary = some r)
    (hfree : LowestFree u.paths.entries 512 p) : endItem u (.request q) c = (allocatePath u p q.record c r,
      [Said.ref (.path p), .ref .status, .pathState p .requested].map Said.op ++ .pathGrantEnd :: computedResult q c (some p)) := by
  have hlowest : u.paths.entries.lowestFree Config.pathEntries = some p := lowestFree_eq_some hfree
  simp only [endItem, hkind, endSetup, hr, hlowest]
  rfl

/-- The lines of a computation show its routes, whatever the state. -/
theorem resultLine_computed (s u : State) (tag : BitVec 32) (outcome : ReqOutcome) (cls path : Option Nat) (x : Option Route) :
    resultLine u (.first tag outcome cls path (routeSource x)) = resultLine s (.first tag outcome cls path (routeSource x)) ∧
    resultLine u (.second tag outcome (routeSource x)) = resultLine s (.second tag outcome (routeSource x)) := by
  cases x <;> exact ⟨rfl, rfl⟩

include hcalm hwaits

/-- A SETUP that found its route: its routes reserved and its path entered, then the items of the path and the two lines (R147, R154). -/
theorem launch_setup (hr : c.primary = some r) : launch (allocatePath (handedBack s o) p q.record c r) .operation
      ([Said.ref (.path p), .ref .status, .pathState p .requested].map Said.op ++ .pathGrantEnd :: computedResult q c (some p)) =
    withResult (withSaid (itemEnded
        (enterPath (withReserved s ((r :: c.backup.toList).foldl Route.reservedIn s.paths.reserved)) p q.record c r))
        [.ref (.path p), .ref .status, .pathState p .requested]) q.slot q.serial
      (resultLine s (.first (reqTag q.record) c.outcome c.cls (some p) (.fixed r)))
      (resultLine s (.second (reqTag q.record) c.backupOutcome (routeSource c.backup))) := by
  have hentered := allocatePath_eq (s := handedBack s o) (p := p) (c := c) q.record r
  have hcalm' := (hcalm.handedBack o).of_sameFrame (sameFrame_allocatePath (handedBack s o) p q.record c r)
  generalize allocatePath (handedBack s o) p q.record c r = u at hentered hcalm'
  have hwaits' : u.arbiter.waitTopology = false ∧ u.arbiter.waitPath = false := by
    rw [hentered]
    exact hwaits
  have hplaces := places_pathState u p .requested
  have hroom : Calm u (0 + 2 + places u [.ref (.path p), .ref .status, .pathState p .requested]) := hcalm'.fewer (by
    simp only [places, List.map_cons, List.map_nil, List.sum_cons, List.sum_nil, Said.places] at hplaces ⊢
    omega)
  have hended : slotFreed (pathReleased u) = itemEnded
      (enterPath (withReserved s ((r :: c.backup.toList).foldl Route.reservedIn s.paths.reserved)) p q.record c r) := by
    rw [hentered]
    rfl
  obtain ⟨hfirst, -⟩ := resultLine_computed s u (reqTag q.record) c.outcome c.cls (some p) c.primary
  obtain ⟨-, hsecond⟩ := resultLine_computed s u (reqTag q.record) c.backupOutcome none none c.backup
  rw [computedResult, launch_granted_results hroom hwaits', hended, hfirst, hsecond, hr]
  rfl

end

/-! ### A path changed by an outcome (R150, R168 to R171) -/

/-- Reservations are replaced whatever stands in the operation slot. -/
theorem replaceReservation_handedBack (s : State) (o : Operation) (old : Option Route) (new : Route) :
    replaceReservation (handedBack s o) old new = handedBack (replaceReservation s old new) o := by
  have hold : ∀ (links : List Nat) (range : SlotSet),
      links.foldl (fun u k => setReserved u k (reservedOn u k &&& ~~~range)) (handedBack s o) =
        handedBack (links.foldl (fun u k => setReserved u k (reservedOn u k &&& ~~~range)) s) o :=
    fun links _ => List.foldl_hom (handedBack · o) (l := links) (init := s) fun _ _ => rfl
  rw [replaceReservation, hold]
  exact List.foldl_hom (handedBack · o) (l := new.links) fun _ _ => rfl

theorem replaceReservation_arbiter (s : State) (old : Option Route) (new : Route) :
    (replaceReservation s old new).arbiter = s.arbiter := by
  unfold replaceReservation
  refine List.foldlRecOn (motive := fun u : State => u.arbiter = s.arbiter) _ _ ?_ fun _ h _ _ => h
  exact List.foldlRecOn (motive := fun u : State => u.arbiter = s.arbiter) _ _ rfl fun _ h _ _ => h

section
variable {s : State} {o : Operation} {p : Nat} {now : PathEntry} {old new : PathState} {why : PathReason} (hcalm : Calm s 6)
  (hwaits : s.arbiter.waitTopology = false ∧ s.arbiter.waitPath = false)
include hcalm hwaits

/-- A changed path whose operation answers a request. -/
theorem launch_pathChanged_results (q : QueuedRequest) (first second : ResultLine) :
    launch (storePath (handedBack s o) p now) .operation
      ([.pathGrantEnd] ++ (pathSaid p old new why).map Said.op ++ resultOps q first second) =
    withResult (withSaid (itemEnded (storePath s p now)) (pathSaid p old new why)) q.slot q.serial
      (resultLine (storePath s p now) first) (resultLine (storePath s p now) second) := by
  have hstored := (hcalm.handedBack o).of_sameFrame (sameFrame_storePath (handedBack s o) p now)
  have hplaces := places_pathSaid (storePath (handedBack s o) p now) p old new why
  have hlines : ∀ l, resultLine (storePath (handedBack s o) p now) l = resultLine (storePath s p now) l := resultLine_congr rfl
  rw [launch_released_results (n := 0) (hstored.fewer (by omega)) hwaits, hlines, hlines]
  rfl

/-- A changed path whose operation is a restoration. -/
theorem launch_pathChanged_items : launch (storePath (handedBack s o) p now) .operation
      ([.pathGrantEnd] ++ (pathSaid p old new why).map Said.op ++ [.operationEnd]) =
    withSaid (itemEnded (storePath s p now)) (pathSaid p old new why) := by
  have hstored := (hcalm.handedBack o).of_sameFrame (sameFrame_storePath (handedBack s o) p now)
  have hplaces := places_pathSaid (storePath (handedBack s o) p now) p old new why
  rw [launch_released_items (n := 0) (hstored.fewer (by omega)) hwaits]
  rfl

end

section
variable {u : State} {q : QueuedRequest} {c : Computed} {p : Nat} {e : PathEntry} {r : Route}

/-- The table of R151. -/
theorem reroutedState_eq (e : PathEntry) (target : Bool) : reroutedState e target =
    if e.state = .exposed ∧ target = true then .active
    else if e.state = .held ∧ target = true then .onBackup
    else if e.state = .held ∧ e.backup = none then .active
    else if e.state = .held then .exposed
    else e.state := by
  unfold reroutedState
  cases hstate : e.state <;> cases target <;> simp

theorem endItem_reroute (hkind : reqKind q.record = some .reroute) (hnamed : namedPath u q.record = some (p, e))
    (hr : c.primary = some r) : endItem u (.request q) c =
      (storePath (replaceReservation u ((if reqTargetBackup q.record then e.backup else e.primary).map (·.route)) r) p
          (reroutedPath e (reqTargetBackup q.record) c r),
        [.pathGrantEnd] ++ (pathSaid p e.state (reroutedState e (reqTargetBackup q.record)) .requested).map Said.op ++
          resultOps q (.first (reqTag q.record) .ok (some e.cls) (some p) (.primaryOf p))
            (.second (reqTag q.record) .none (.backupOf p))) := by
  simp only [endItem, hkind, endReroute, hnamed, hr, pathItems_eq (get?_of_namedPath hnamed)]
  rfl

theorem endItem_reroute_failed (hkind : reqKind q.record = some .reroute) (hr : c.primary = none) :
    endItem u (.request q) c = (u, .pathGrantEnd :: plainResult u q c.outcome) := by
  simp only [endItem, hkind, endReroute, hr]
  cases namedPath u q.record <;> rfl

theorem endItem_restored (he : u.paths.entries.get? p = some e) (hr : c.primary = some r) : endItem u (.restoration p) c =
    (storePath (replaceReservation u (e.primary.map (·.route)) r) p (restoredPath e c r),
      [.pathGrantEnd] ++ (pathSaid p e.state (restoredPath e c r).state .restored).map Said.op ++ [.operationEnd]) := by
  simp only [endItem, endRestoration, he, hr, pathItems_eq he]

theorem endItem_unrestored (he : u.paths.entries.get? p = some e) (hr : c.primary = none) : endItem u (.restoration p) c =
    (storePath u p (unrestoredPath e),
      [.pathGrantEnd] ++ (pathSaid p e.state (unrestoredPath e).state .restoreFailed).map Said.op ++ [.operationEnd]) := by
  simp only [endItem, endRestoration, he, hr, pathItems_eq he]

end

/-! ### COMPUTATION_END, item by item (R146, R147, R149 to R151, R170, R171) -/

section
variable {s : State} {o : Operation} {i : Inputs} {q : QueuedRequest} {p : Nat} {e : PathEntry} {r : Route} {c : Computed}
  (hcalm : Calm s 6) (h : Computing s o i) (hc : c = (compute s i s.engine).2)
include hcalm h hc

theorem exec_computationEnd {item : Item} {x : State × List Op} (hitem : o.item = item)
    (hx : endItem (handedBack s o) item c = x) : exec .computationEnd s = .next (launch x.1 .operation x.2) := by
  subst hitem hc
  exact (live_released hcalm.released _).trans (congrArg _ (endComputation_eq hcalm h hx))

theorem computationEnd_unchanged (hitem : o.item = .request q)
    (hkind : reqKind q.record = some .probe ∨ (reqKind q.record = some .setup ∧ c.primary = none)) :
    exec .computationEnd s = .next (withResult (itemEnded s) q.slot q.serial
      (resultLine s (.first (reqTag q.record) c.outcome c.cls none (routeSource c.primary)))
      (resultLine s (.second (reqTag q.record) c.backupOutcome (routeSource c.backup)))) := by
  rw [exec_computationEnd hcalm h hc hitem (endItem_unchanged hkind)]
  exact congrArg _ (launch_computedResult hcalm h.waits)

theorem computationEnd_setup (hitem : o.item = .request q) (hkind : reqKind q.record = some .setup) (hr : c.primary = some r)
    (hfree : LowestFree s.paths.entries 512 p) :
    ∃ (reserved : Table SlotSet) (generations : Table (BitVec 16)),
      (∀ k, reserved.getD k 0 = (r :: c.backup.toList).foldl
        (fun acc x => if k ∈ x.links then acc ||| x.range else acc) (reservedOn s k)) ∧
      (∀ x, generations.getD x 0 = if x = p then 1 else generationOf s x) ∧
      exec .computationEnd s = .next (withResult (withSaid (itemEnded { s with
        paths := { s.paths with
          entries := s.paths.entries.set p (newPath q.record c r), reserved := reserved, generations := generations
          restoration := s.paths.restoration.filter (· ≠ p) }
        notices := { s.notices with
          records := s.notices.records.setD p NoticeRecord.idle (noticeRecord s p).toIdle } })
          [.ref (.path p), .ref .status, .pathState p .requested]) q.slot q.serial
        (resultLine s (.first (reqTag q.record) c.outcome c.cls (some p) (.fixed r)))
        (resultLine s (.second (reqTag q.record) c.backupOutcome (routeSource c.backup)))) := by
  have ⟨_, hnone, _⟩ := hfree
  refine ⟨(r :: c.backup.toList).foldl Route.reservedIn s.paths.reserved, (s.paths.generations.setD p 0 0).setD p 0 1,
    getD_foldl_reservedIn _ _, fun x => ?_, ?_⟩
  · rw [Table.getD_setD, Table.getD_setD]
    split <;> rfl
  · have hentered : ∀ t, enterPath (withReserved s t) p q.record c r = _ := fun t =>
      enterPath_eq (s := withReserved s t) q.record r hnone
    rw [exec_computationEnd hcalm h hc hitem (endItem_setup hkind hr hfree), launch_setup hcalm h.waits hr, hentered]
    rfl

theorem computationEnd_rerouted (hitem : o.item = .request q) (hkind : reqKind q.record = some .reroute)
    (hnamed : namedPath s q.record = some (p, e)) (hr : c.primary = some r) {t : State}
    (ht : t = storePath (replaceReservation s ((if reqTargetBackup q.record then e.backup else e.primary).map (·.route)) r) p
      (reroutedPath e (reqTargetBackup q.record) c r)) :
    exec .computationEnd s = .next (withResult
      (withSaid (itemEnded t) (pathSaid p e.state (reroutedState e (reqTargetBackup q.record)) .requested)) q.slot q.serial
      (resultLine t (.first (reqTag q.record) .ok (some e.cls) (some p) (.primaryOf p)))
      (resultLine t (.second (reqTag q.record) .none (.backupOf p)))) := by
  have hnamed' : namedPath (handedBack s o) q.record = some (p, e) := hnamed
  rw [exec_computationEnd hcalm h hc hitem (endItem_reroute hkind hnamed' hr), ht, replaceReservation_handedBack]
  exact congrArg _ (launch_pathChanged_results (hcalm.of_sameFrame (sameFrame_replaceReservation _ _ _))
    (by rw [replaceReservation_arbiter]; exact h.waits) _ _ _)

theorem computationEnd_unrouted (hitem : o.item = .request q) (hkind : reqKind q.record = some .reroute) (hr : c.primary = none) :
    exec .computationEnd s = .next (withResult (itemEnded s) q.slot q.serial
      (plainFirst s q.record c.outcome) (bareSecond (reqTag q.record) .none)) := by
  rw [exec_computationEnd hcalm h hc hitem (endItem_reroute_failed hkind hr)]
  exact congrArg _ (launch_plainResult (n := 4) (hcalm.handedBack o) h.waits rfl q _)

theorem computationEnd_restored (hitem : o.item = .restoration p) (he : s.paths.entries.get? p = some e) (hr : c.primary = some r) :
    exec .computationEnd s = .next (withSaid (itemEnded (storePath
      (replaceReservation s (e.primary.map (·.route)) r) p (restoredPath e c r)))
      (pathSaid p e.state (restoredPath e c r).state .restored)) := by
  have he' : (handedBack s o).paths.entries.get? p = some e := he
  rw [exec_computationEnd hcalm h hc hitem (endItem_restored he' hr), replaceReservation_handedBack]
  exact congrArg _ (launch_pathChanged_items (hcalm.of_sameFrame (sameFrame_replaceReservation _ _ _))
    (by rw [replaceReservation_arbiter]; exact h.waits))

theorem computationEnd_unrestored (hitem : o.item = .restoration p) (he : s.paths.entries.get? p = some e) (hr : c.primary = none) :
    exec .computationEnd s = .next (withSaid (itemEnded (storePath s p (unrestoredPath e)))
      (pathSaid p e.state (unrestoredPath e).state .restoreFailed)) := by
  have he' : (handedBack s o).paths.entries.get? p = some e := he
  rw [exec_computationEnd hcalm h hc hitem (endItem_unrestored he' hr)]
  exact congrArg _ (launch_pathChanged_items hcalm h.waits)

end

/-! ### COMPUTATION_END and the outcome of a computation (R118, R119, R129 to R134, R137) -/

/-- Settles O54: the outcome ends the item by its kind, and the classes tried make the outcome. -/
theorem computationEnded : Obligations.ComputationEnded := by
  refine ⟨fun s o i c hcalm h hc => ⟨fun q => computationEnd_unchanged hcalm h hc, fun q r p => computationEnd_setup hcalm h hc,
    ?_, fun q => computationEnd_unrouted hcalm h hc, fun p e hitem he => ⟨?_, ?_⟩⟩, fun s i e => ?_⟩
  · rintro q p e r st hitem hkind hnamed hr target hst t
    rw [← reroutedState_eq] at hst
    subst hst
    exact computationEnd_rerouted hcalm h hc hitem hkind hnamed hr rfl
  · rintro r st hr hst
    have hstate : st = (restoredPath e c r).state := by
      rw [hst, restoredPath]
      cases e.backup <;> rfl
    subst hstate
    exact computationEnd_restored hcalm h hc hitem he hr
  · rintro st hr hst
    have hstate : st = (unrestoredPath e).state := by
      rw [hst, unrestoredPath]
      cases e.primary <;> rfl
    subst hstate
    exact computationEnd_unrestored hcalm h hc hitem he hr
  · refine ⟨fun hnone => compute_unknownNode hnone e, fun a b x y hsrc hdst =>
      ⟨fun hab => compute_sameNode hsrc hdst hab e, fun k hab hk => ?_, fun hab hauto => ?_⟩⟩
    · rw [compute_class hsrc hdst hab hk e, ← classServed_iff]
      refine ⟨fun hserved => if_neg hserved, isClassQuery_classQuery s i a b k, isDiverseQuery_diverse s _ _, fun hserved hnone =>
        classAnswer_eq hserved (classResult_noPrimary hnone), fun r hserved hchosen => ⟨isDiverseQuery_diverse s _ _, fun hpair =>
        classAnswer_eq hserved (classResult_alone hchosen hpair), fun r' hpair hbackup =>
        classAnswer_eq hserved (classResult_pair hchosen hpair hbackup), fun hpair hbackup =>
        ⟨fun hrequire => ?_, fun hrequire => ?_⟩⟩⟩
      · exact classAnswer_eq hserved ((classResult_noBackup hchosen hpair hbackup).trans (if_pos hrequire))
      · exact classAnswer_eq hserved ((classResult_noBackup hchosen hpair hbackup).trans (if_neg (by simp [hrequire])))
    · have hgiven : ∀ k, (compute s { i with cls := some k } e).2 = classAnswer s i a b k := fun k =>
        (compute_class (i := { i with cls := some k }) hsrc hdst hab rfl e).trans (classAnswer_withClass s (some k) i a b k)
      simp only [hgiven, compute_auto hsrc hdst hab hauto e]
      exact ⟨fun k hk hok habove => autoAnswer_highest hk hok habove, fun hfail =>
        ⟨autoAnswer_noBackup hfail, autoAnswer_noPath hfail, autoAnswer_unsupported hfail⟩⟩

end Sys2Proof.Machine

/-!
PROOFS. The reservation sets after a change of a route, and what storing a path keeps in step with its state (O57).
-/

namespace Sys2Proof.Machine

/-! ### Reservation sets (R147, R148, R150, R157) -/

/-- One change after another to the reservation sets of links: a link named twice is changed once when the change is idempotent. -/
theorem reservedOn_foldl_setReserved {change : Nat → SlotSet → SlotSet} (hidem : ∀ j v, change j (change j v) = change j v)
    (links : List Nat) (s : State) (k : Nat) :
    reservedOn (links.foldl (fun u j => setReserved u j (change j (reservedOn u j))) s) k =
      if k ∈ links then change k (reservedOn s k) else reservedOn s k := by
  induction links generalizing s with
  | nil => rfl
  | cons j links ih =>
    rw [List.foldl_cons, ih]
    by_cases hj : k = j
    · subst hj
      simp [reservedOn_setReserved_self, hidem]
    · simp [reservedOn_setReserved_ne _ _ hj, hj]

theorem reservedOn_reserveRoute (s : State) (r : Route) (k : Nat) :
    reservedOn (reserveRoute s r) k = if k ∈ r.links then reservedOn s k ||| r.range else reservedOn s k :=
  reservedOn_foldl_setReserved (change := fun _ v => v ||| r.range) (fun _ v => by simp [BitVec.or_assoc]) r.links s k

theorem reservedOn_foldl_removed (range : SlotSet) (links : List Nat) (s : State) (k : Nat) :
    reservedOn (links.foldl (fun u j => setReserved u j (reservedOn u j &&& ~~~range)) s) k =
      if k ∈ links then reservedOn s k &&& ~~~range else reservedOn s k :=
  reservedOn_foldl_setReserved (change := fun _ v => v &&& ~~~range) (fun _ v => by simp [BitVec.and_assoc]) links s k

theorem reservedOn_unreserveRoute (s : State) (r : Route) (k : Nat) :
    reservedOn (unreserveRoute s r) k = if k ∈ r.links then reservedOn s k &&& ~~~r.range else reservedOn s k :=
  reservedOn_foldl_removed r.range r.links s k

/-- The routes given up one after another. -/
theorem reservedOn_unreserveAll (rs : List Route) (s : State) (k : Nat) :
    reservedOn (unreserveAll s rs) k =
      rs.foldl (fun acc r => if k ∈ r.links then acc &&& ~~~r.range else acc) (reservedOn s k) := by
  induction rs generalizing s with
  | nil => rfl
  | cons r rs ih => exact (ih (unreserveRoute s r)).trans (by rw [List.foldl_cons, reservedOn_unreserveRoute])

/-- The exchange of one range for another is the same when it is made twice. -/
theorem exchange_idem (old new v : SlotSet) : (v &&& ~~~old ||| new) &&& ~~~old ||| new = v &&& ~~~old ||| new := by
  ext i hi
  simp only [BitVec.getElem_or, BitVec.getElem_and, BitVec.getElem_not]
  cases v[i] <;> cases old[i] <;> cases new[i] <;> rfl

/-- Make-before-break, link by link (R150). -/
theorem reservedOn_replaceReservation (s : State) (old : Option Route) (new : Route) (k : Nat) :
    let cleared := if k ∈ (old.map (·.links)).getD [] then reservedOn s k &&& ~~~(old.map (·.range)).getD 0 else reservedOn s k
    reservedOn (replaceReservation s old new) k = if k ∈ new.links then cleared ||| new.range else cleared := by
  unfold replaceReservation
  generalize (old.map (·.links)).getD [] = oldLinks
  generalize (old.map (·.range)).getD 0 = oldRange
  refine (reservedOn_foldl_setReserved
    (change := fun j v => (if oldLinks.contains j then v &&& ~~~oldRange else v) ||| new.range) (fun j v => ?_) _ _ k).trans ?_
  · by_cases hj : oldLinks.contains j = true
    · simp only [hj, if_true, exchange_idem]
    · simp only [hj, Bool.false_eq_true, if_false, BitVec.or_assoc, BitVec.or_self]
  · rw [reservedOn_foldl_removed]
    by_cases hnew : k ∈ new.links <;> simp [hnew]

/-! ### Storing a path (R156, R159) -/

theorem generationOf_storePath {s : State} {p : Nat} {e : PathEntry} (he : s.paths.entries.get? p = some e) (x : PathEntry) :
    generationOf (storePath s p x) p = if x.state = e.state then generationOf s p else generationOf s p + 1 := by
  unfold storePath generationOf
  by_cases hstate : x.state = e.state
  · simp [he, hstate]
  · simp [he, hstate, Ne.symm hstate, Table.getD_setD_self]

theorem mem_restoration_storePath (s : State) (p q : Nat) (x : PathEntry) :
    q ∈ (storePath s p x).paths.restoration ↔ if q = p then x.state = .restoring else q ∈ s.paths.restoration := by
  simp only [storePath]
  by_cases hstate : x.state = .restoring <;> by_cases hq : q = p <;> simp [hstate, hq, mem_insertNat, mem_removeNat]

/-- Settles O57: each link of the routes is changed by itself, and the stored path alone. -/
theorem reservationsAndGenerations : Obligations.ReservationsAndGenerations := by
  refine ⟨fun s r k => ⟨reservedOn_reserveRoute s r k, reservedOn_unreserveRoute s r k⟩, fun s old new k => ⟨?_, ?_⟩,
    fun s p q e x he => ⟨Table.get?_set_self _ p x, generationOf_storePath he x, ?_, fun hq => ?_⟩⟩
  · exact reservedOn_replaceReservation s (some old) new k
  · simpa using reservedOn_replaceReservation s none new k
  · simpa using mem_restoration_storePath s p p x
  · obtain ⟨hentry, hgeneration⟩ := storePath_other s x hq
    exact ⟨hentry, hgeneration, by simpa [hq] using mem_restoration_storePath s p q x⟩

end Sys2Proof.Machine

/-!
PROOFS. How a request is taken, and the verdict of its field checks (O51).
-/

namespace Sys2Proof.Machine

/-! ### The verdict of the field checks (R142, R189, R193) -/

theorem policyOf_isSome (c : Nat) : (policyOf c).isSome = true ↔ c ≤ 2 := by
  match c with
  | 0 | 1 | 2 | n + 3 => simp [policyOf]

theorem orderOf_isSome (c : Nat) : (orderOf c).isSome = true ↔ c ≤ 2 := by
  match c with
  | 0 | 1 | 2 | n + 3 => simp [orderOf]

theorem restoreOf_isSome (c : Nat) : (restoreOf c).isSome = true ↔ c ≤ 2 := by
  match c with
  | 0 | 1 | 2 | n + 3 => simp [restoreOf]

theorem exclLinksOk_iff (r : Line) :
    exclLinksOk r = true ↔ ∀ i < 4, fieldNat r (32 + 2 * i) 2 < 1024 ∨ fieldNat r (32 + 2 * i) 2 = 65535 := by
  simp only [exclLinksOk, List.all_eq_true, Bool.or_eq_true, decide_eq_true_eq, beq_iff_eq]
  simp [reqExclLinks]

/-- The fields that every computation reads: policy, ordering and excluded links (R142). -/
theorem searchFields_iff (r : Line) : ((reqPolicy r).isSome && (reqOrder r).isSome && exclLinksOk r) = true ↔
    fieldNat r 2 1 ≤ 2 ∧ fieldNat r 3 1 ≤ 2 ∧
      ∀ i < 4, fieldNat r (32 + 2 * i) 2 < 1024 ∨ fieldNat r (32 + 2 * i) 2 = 65535 := by
  rw [Bool.and_eq_true, Bool.and_eq_true, reqPolicy, policyOf_isSome, reqOrder, orderOf_isSome, exclLinksOk_iff, and_assoc]

theorem classCodeOk_iff (r : Line) : classCodeOk r = true ↔ fieldNat r 1 1 ≤ 3 ∨ fieldNat r 1 1 = 15 := by
  simp only [classCodeOk, Bool.or_eq_true, decide_eq_true_eq, beq_iff_eq]
  rfl

/-- No non-zero excluded node is an end of the route asked for (R142). -/
theorem requestExclNodesOk_iff (r : Line) : exclNodesOk (reqExclNodes r) (reqSource r) (reqDest r) = true ↔
    ∀ i < 4, fieldBits r (40 + 4 * i) 32 = 0 ∨
      (fieldBits r (40 + 4 * i) 32 ≠ fieldBits r 8 32 ∧ fieldBits r (40 + 4 * i) 32 ≠ fieldBits r 12 32) := by
  simp only [exclNodesOk, List.all_eq_true, Bool.or_eq_true, Bool.and_eq_true, decide_eq_true_eq, beq_iff_eq]
  simp [reqExclNodes, reqSource, reqDest]

/-- The verdict, by the kind's code and the checks of the fields that the kind reads (R142). -/
theorem requestValid_iff (r : Line) : requestValid r = true ↔
    ((reqKindCode r = 1 ∨ reqKindCode r = 2) ∧ ((reqPolicy r).isSome && (reqOrder r).isSome && exclLinksOk r) = true ∧
      (reqKindCode r = 2 → (reqRestore r).isSome = true) ∧ classCodeOk r = true ∧
      exclNodesOk (reqExclNodes r) (reqSource r) (reqDest r) = true) ∨
    reqKindCode r = 3 ∨ reqKindCode r = 4 ∨
    (reqKindCode r = 5 ∧ ((reqPolicy r).isSome && (reqOrder r).isSome && exclLinksOk r) = true) := by
  unfold requestValid reqKind
  generalize reqKindCode r = kind
  match kind with
  | 0 | 3 | 4 | 5 | n + 6 => simp
  | 1 | 2 =>
    simp
    tauto

/-! ### REQUEST_TAKING (R140, R141) -/

/-- The state once a taking has ended (R140). -/
def takingEnded (s : State) : State := { s with paths := { s.paths with taking := false } }

/-- Items read nothing of the taking's mark. -/
theorem takingEnded_withSaid (s : State) (xs : List Said) : takingEnded (withSaid s xs) = withSaid (takingEnded s) xs := by
  have h : withSaid (voiced s (takingEnded s)) xs = voiced (withSaid s xs) (takingEnded s) :=
    withSaid_voiced (s := s) (u := takingEnded s) rfl rfl xs
  rw [withSaid_self s xs]
  exact h.symm

theorem settled_requestFinish {s : State} {n : Nat} (h : Calm s n) (t : Thread) :
    settleAll (s.putOps t [.requestFinish]) = takingEnded s := by
  have hended : Calm (takingEnded s) n := ⟨h.released, h.threads, h.waiters, h.turn, h.strikeWait, h.room⟩
  exact (settled_step (s' := takingEnded s) (push := []) (h.alone t) rfl).trans (settled_calm hended t)

section
variable {s : State} {h : HandedRequest} {rest : List HandedRequest} (hcalm : Calm s 2) (hhanded : s.paths.handed = h :: rest)
  (hrestart : restarting s = false)
include hcalm hhanded hrestart

theorem takeRequest_ignored (hzero : reqKindCode h.record = 0) :
    takeRequest s = { s with paths := { s.paths with handed := rest } } := by
  simp [takeRequest, hhanded, hrestart, hcalm.threads, Threads.none, hzero]

/-- A request for a pending slot is refused, and its taking ends behind the notice (R140). -/
theorem takeRequest_refused (htaking : s.paths.taking = false) (hkind : reqKindCode h.record ≠ 0)
    (hpending : s.paths.pendingSlots.get? h.slot ≠ none) :
    takeRequest s = withSaid { s with paths := { s.paths with handed := rest } }
      [.post (.requestRefused h.slot (reqTag h.record) (reqKindCode h.record))] := by
  have hhas : s.paths.pendingSlots.has h.slot = true := Option.isSome_iff_ne_none.2 hpending
  have htake : takeRequest s = launch { s with paths := { s.paths with handed := rest, taking := true } } .taking
      ([Said.post (.requestRefused h.slot (reqTag h.record) (reqKindCode h.record))].map Said.op ++ [.requestFinish]) := by
    simp [takeRequest, hhanded, hrestart, hcalm.threads, Threads.none, hkind, hhas, Said.op]
  generalize Notice.requestRefused h.slot (reqTag h.record) (reqKindCode h.record) = refusal at htake ⊢
  have hplaces : places s [.post refusal] ≤ 2 := by
    rw [places_cons, Said.places]
    split <;> exact Nat.le_of_ble_eq_true rfl
  have hbegun : Calm { s with paths := { s.paths with handed := rest, taking := true } } (0 + places s [.post refusal]) :=
    Calm.fewer (n := 2) ⟨hcalm.released, hcalm.threads, hcalm.waiters, hcalm.turn, hcalm.strikeWait, hcalm.room⟩ (by omega)
  rw [htake, launch_calm hbegun, settled_said (n := 0) _ _ _ hbegun, settled_requestFinish (Calm.withSaid _ hbegun),
    takingEnded_withSaid]
  simp only [takingEnded, htaking]

/-- A request for a free slot is queued, and its taking ends behind the status line reference (R140, R141). -/
theorem takeRequest_queued (hkind : reqKindCode h.record ≠ 0) (hfree : s.paths.pendingSlots.get? h.slot = none) :
    takeRequest s = withRef (queueRequest { s with paths := { s.paths with handed := rest } } h) .status := by
  have hhas : s.paths.pendingSlots.has h.slot = false := by rw [Table.has, hfree, Option.isSome_none]
  have hqueued : Calm (queueRequest { s with paths := { s.paths with handed := rest } } h) 2 :=
    ⟨hcalm.released, hcalm.threads, hcalm.waiters, hcalm.turn, hcalm.strikeWait, hcalm.room⟩
  have htake : takeRequest s = launch (queueRequest { s with paths := { s.paths with handed := rest } } h) .taking [.ref .status] := by
    simp [takeRequest, hhanded, hrestart, hcalm.threads, Threads.none, hkind, hhas]
  rw [htake, launch_calm hqueued, settled_ref hqueued, settled_calm (hqueued.withRef .status)]

end

/-- Settles O51: the record's kind and its slot decide the taking, and the kind's fields the verdict. -/
theorem requestTaken : Obligations.RequestTaken := by
  refine ⟨fun s h rest hcalm hhanded htaking hrestart => ?_, fun r searched hsearched => ?_⟩
  · rw [show exec .requestTaking s = .next (takeRequest s) from live_released hcalm.released _]
    exact ⟨fun hzero => congrArg _ (takeRequest_ignored hcalm hhanded hrestart hzero),
      fun hkind hpending => congrArg _ (takeRequest_refused hcalm hhanded hrestart htaking hkind hpending),
      fun hkind hfree => congrArg _ (takeRequest_queued hcalm hhanded hrestart hkind hfree)⟩
  · rw [requestValid_iff, searchFields_iff, ← hsearched, classCodeOk_iff, requestExclNodesOk_iff, reqRestore, restoreOf_isSome]

end Sys2Proof.Machine

/-!
PROOFS. The selection of the next item, and the requests that are decided without a grant (O52).
-/

namespace Sys2Proof.Machine

/-! ### What is selected (R143) -/

section
variable {s : State} {n : Nat} (hcalm : Calm s n) (h : MaySelect s)

include hcalm h in
theorem maySelect_calm : maySelect s = true := by
  simp [maySelect, h.slot, strikesIdle_calm hcalm h.strikes, hcalm.threads, Threads.none, h.mode, h.restart]

include hcalm h

theorem selectNext_nothing (hrestoration : s.paths.restoration = []) (hqueue : s.paths.queue = []) : selectNext s = s := by
  simp [selectNext, maySelect_calm hcalm h, hrestoration, hqueue]

theorem selectNext_restoration {p : Nat} {others : List Nat} (hrestoration : s.paths.restoration = p :: others)
    (hturn : s.paths.runCount < 4 ∨ s.paths.queue = []) : selectNext s = selectRestoration s p := by
  cases hqueue : s.paths.queue with
  | nil => simp [selectNext, maySelect_calm hcalm h, hrestoration, hqueue]
  | cons q rest =>
    have hcount : s.paths.runCount < 4 := hturn.resolve_right (by simp [hqueue])
    simp [selectNext, maySelect_calm hcalm h, hrestoration, hqueue, hcount]

theorem selectNext_request {q : QueuedRequest} {rest : List QueuedRequest} (hqueue : s.paths.queue = q :: rest)
    (hturn : s.paths.restoration = [] ∨ 4 ≤ s.paths.runCount) :
    selectNext s = selectRequest { s with paths := { s.paths with queue := rest } } q := by
  cases hrestoration : s.paths.restoration with
  | nil => simp [selectNext, maySelect_calm hcalm h, hrestoration, hqueue]
  | cons p others =>
    have hcount : ¬ s.paths.runCount < 4 := Nat.not_lt.2 (hturn.resolve_left (by simp [hrestoration]))
    simp [selectNext, maySelect_calm hcalm h, hrestoration, hqueue, hcount]

end

/-- With a sound arbiter the path table unit's request is granted at once exactly when nobody holds the database (R110). -/
theorem requestGrant_path {s : State} (h : ArbiterSound s) : requestGrant s .path = pathAsks s := by
  by_cases hholder : s.arbiter.holder = none
  · rw [requestGrant_free ⟨hholder, h hholder⟩, pathAsks, if_pos hholder]
  · rw [(requestGrant_held hholder).2, pathAsks, if_neg hholder]

/-! ### The outcome of a request at its selection (R145, R148) -/

/-- What a request is decided to at its selection; OK also for one that asks for the grant (R145, R148). -/
def outcomeAtSelection (s : State) (q : QueuedRequest) : ReqOutcome :=
  if q.valid = false ∨ reqKind q.record = none then .badRequest
  else if reqKind q.record = some .setup ∧ (List.range 512).all (fun i => s.paths.entries.has i) = true then .tableFull
  else if (reqKind q.record = some .release ∨ reqKind q.record = some .resume) ∧ namedPath s q.record = none then .unknownPath
  else if reqKind q.record = some .resume ∧
      (namedPath s q.record).map (fun x => decide (x.2.state = .onBackup ∧ x.2.primary.map (·.struck) = some 0)) = some false
    then .wrongState
  else .ok

theorem lowestFree_isSome {α : Type} (t : Table α) (b : Nat) :
    (t.lowestFree b).isSome = !(List.range b).all (fun i => t.has i) := by
  rw [Table.lowestFree, Bool.eq_iff_iff, List.find?_isSome, List.not_all_eq_any_not, List.any_eq_true]

/-- A RESUME needs a path ON_BACKUP with an intact primary (R148). -/
theorem resumable_eq (e : PathEntry) :
    resumable e = decide (e.state = .onBackup ∧ e.primary.map (·.struck) = some 0) := by
  cases hprimary : e.primary <;> simp [resumable, intact, hprimary, Bool.beq_eq_decide_eq]

section
variable {s : State} {q : QueuedRequest}

theorem outcome_badRequest (h : q.valid = false ∨ reqKind q.record = none) : outcomeAtSelection s q = .badRequest := if_pos h

theorem outcome_setup (hvalid : q.valid = true) (hkind : reqKind q.record = some .setup) :
    outcomeAtSelection s q = if (s.paths.entries.lowestFree Config.pathEntries).isSome then .ok else .tableFull := by
  rw [lowestFree_isSome]
  unfold outcomeAtSelection Config.pathEntries
  generalize (List.range 512).all (fun i => s.paths.entries.has i) = full
  cases full <;> simp [hvalid, hkind]

theorem outcome_search (hvalid : q.valid = true) (hkind : reqKind q.record = some .probe ∨ reqKind q.record = some .reroute) :
    outcomeAtSelection s q = .ok := by
  rcases hkind with hkind | hkind <;> simp [outcomeAtSelection, hvalid, hkind]

theorem outcome_unnamed (hvalid : q.valid = true) (hkind : reqKind q.record = some .release ∨ reqKind q.record = some .resume)
    (hnamed : namedPath s q.record = none) : outcomeAtSelection s q = .unknownPath := by
  rcases hkind with hkind | hkind <;> simp [outcomeAtSelection, hvalid, hkind, hnamed]

theorem outcome_release {x : Nat × PathEntry} (hvalid : q.valid = true) (hkind : reqKind q.record = some .release)
    (hnamed : namedPath s q.record = some x) : outcomeAtSelection s q = .ok := by
  simp [outcomeAtSelection, hvalid, hkind, hnamed]

theorem outcome_resume {x : Nat × PathEntry} (hvalid : q.valid = true) (hkind : reqKind q.record = some .resume)
    (hnamed : namedPath s q.record = some x) : outcomeAtSelection s q = if resumable x.2 then .ok else .wrongState := by
  simp only [outcomeAtSelection, hvalid, hkind, hnamed, Option.map_some, ← resumable_eq]
  cases resumable x.2 <;> simp

theorem valid_of_outcome (h : outcomeAtSelection s q = .ok) : q.valid = true := by
  by_contra hvalid
  rw [outcome_badRequest (.inl (by simpa using hvalid))] at h
  cases h

/-- A request that is not OK is answered, with nothing else changed. -/
theorem selectRequest_failed (h : outcomeAtSelection s q ≠ .ok) :
    selectRequest s q = selectAnswered q s (plainResult s q (outcomeAtSelection s q)) := by
  cases hvalid : q.valid with
  | false =>
    rw [outcome_badRequest (.inl hvalid)]
    simp [selectRequest, hvalid]
  | true =>
    cases hkind : reqKind q.record with
    | none =>
      rw [outcome_badRequest (.inr hkind)]
      simp [selectRequest, hvalid, hkind]
    | some kind =>
      cases kind with
      | probe => exact absurd (outcome_search hvalid (.inl hkind)) h
      | reroute => exact absurd (outcome_search hvalid (.inr hkind)) h
      | setup =>
        have houtcome := outcome_setup (s := s) hvalid hkind
        cases hfree : (s.paths.entries.lowestFree Config.pathEntries).isSome <;> simp only [hfree] at houtcome
        · simp only [selectRequest, hvalid, hkind, hfree, houtcome]
          rfl
        · exact absurd houtcome h
      | release =>
        cases hnamed : namedPath s q.record with
        | none => simp [selectRequest, selectRelease, hvalid, hkind, hnamed, outcome_unnamed hvalid (.inl hkind) hnamed]
        | some x => exact absurd (outcome_release hvalid hkind hnamed) h
      | resume =>
        cases hnamed : namedPath s q.record with
        | none => simp [selectRequest, selectResume, hvalid, hkind, hnamed, outcome_unnamed hvalid (.inr hkind) hnamed]
        | some x =>
          have houtcome := outcome_resume hvalid hkind hnamed
          cases hresumable : resumable x.2 <;> simp only [hresumable] at houtcome
          · simp [selectRequest, selectResume, hvalid, hkind, hnamed, hresumable, houtcome]
          · exact absurd houtcome h

theorem selectRequest_waiting (h : outcomeAtSelection s q = .ok)
    (hkind : reqKind q.record = some .probe ∨ reqKind q.record = some .setup ∨ reqKind q.record = some .reroute) :
    selectRequest s q = selectWaiting s q := by
  have hvalid := valid_of_outcome h
  rcases hkind with hkind | hkind | hkind
  · simp [selectRequest, hvalid, hkind]
  · have hfree : (s.paths.entries.lowestFree Config.pathEntries).isSome = true := by
      by_contra hfull
      rw [outcome_setup hvalid hkind, if_neg hfull] at h
      cases h
    simp only [selectRequest, hvalid, hkind, hfree]
    rfl
  · simp [selectRequest, hvalid, hkind]

theorem selectRequest_release {p : Nat} {e : PathEntry} (h : outcomeAtSelection s q = .ok)
    (hkind : reqKind q.record = some .release) (hnamed : namedPath s q.record = some (p, e)) : selectRequest s q =
      selectAnswered q (freePath (unreserveAll s e.routes) p) ([.ref (.path p), .ref .status] ++ plainResult s q .ok) := by
  simp [selectRequest, valid_of_outcome h, hkind, selectRelease, hnamed, releasePath]

theorem selectRequest_resume {p : Nat} {e : PathEntry} (h : outcomeAtSelection s q = .ok)
    (hkind : reqKind q.record = some .resume) (hnamed : namedPath s q.record = some (p, e)) : selectRequest s q =
      selectAnswered q (storePath s p { e with state := .active })
        ([.ref (.path p), .postPath p .requested] ++ pathResult q p e) := by
  have hvalid := valid_of_outcome h
  have hresumable : resumable e = true := by
    by_contra hnot
    rw [outcome_resume hvalid hkind hnamed, if_neg hnot] at h
    cases h
  have hstate : e.state = .onBackup := by
    rw [resumable_eq, decide_eq_true_eq] at hresumable
    exact hresumable.1
  have hitems : pathItems s p { e with state := .active } .requested = [.ref (.path p), .postPath p .requested] := by
    rw [pathItems_eq (get?_of_namedPath hnamed), hstate]
    rfl
  simp [selectRequest, hvalid, hkind, selectResume, hnamed, hresumable, resumePath, hitems]

end

/-! ### A request answered at its selection (R141, R154) -/

/-- The status line reference, the items and the two lines of an answer, and the slot is free again. -/
theorem selectAnswered_eq {s : State} {n : Nat} {xs : List Said} (h : Calm s (n + 2 + places s (.ref .status :: xs)))
    (q : QueuedRequest) (first second : ResultLine) :
    selectAnswered q s (xs.map Said.op ++ resultOps q first second) =
      withResult (withSaid (served s s.paths.queue) (.ref .status :: xs)) q.slot q.serial (resultLine s first) (resultLine s second) := by
  have hselected : Calm (selectItem s (.request q) .answering 0) (n + 2 + places s (.ref .status :: xs)) :=
    ⟨h.released, h.threads, h.waiters, h.turn, h.strikeWait, h.room⟩
  have hlaunch : selectAnswered q s (xs.map Said.op ++ resultOps q first second) = launch (selectItem s (.request q) .answering 0)
      .operation ((Said.ref .status :: xs).map Said.op ++ resultOps q first second) := rfl
  have hlines : ∀ l, resultLine (withSaid (selectItem s (.request q) .answering 0) (.ref .status :: xs)) l = resultLine s l :=
    resultLine_congr (by rw [withSaid_paths]; rfl)
  rw [hlaunch, launch_calm hselected, settled_said (n := n + 2) _ _ _ hselected, settled_results (Calm.withSaid _ hselected),
    hlines, hlines, slotFreed_withSaid]
  rfl

theorem withRef_queued {s : State} {r : Ref} (h : WbItem.ref r ∈ s.writeBack.queue) : withRef s r = s := if_pos (.inr h)

theorem mem_withRef {s : State} {x : WbItem} (r : Ref) (h : x ∈ s.writeBack.queue) : x ∈ (withRef s r).writeBack.queue := by
  unfold withRef
  split
  · exact h
  · exact List.mem_append_left _ h

theorem status_mem_withRef (s : State) : WbItem.ref .status ∈ (withRef s .status).writeBack.queue := by
  unfold withRef
  split
  · next h => exact h.resolve_left (by simp)
  · simp

section
variable {s : State} {q : QueuedRequest} (hcalm : Calm s 6)
include hcalm

/-- A request that asks for the grant leaves the queue, and its reference follows (R141, R144). -/
theorem selectWaiting_eq (harbiter : ArbiterSound s) :
    selectWaiting s q = withRef (pathAsks (selectItem s (.request q) .waiting 0)) .status := by
  have hasks : Calm (pathAsks (selectItem s (.request q) .waiting 0)) 6 :=
    ⟨hcalm.released, hcalm.threads, hcalm.waiters, hcalm.turn, hcalm.strikeWait, hcalm.room⟩
  have hgrant := requestGrant_path (s := selectItem s (.request q) .waiting 0) harbiter
  rw [selectWaiting, hgrant, launch_calm hasks, settled_ref hasks, settled_calm (hasks.withRef .status)]

/-- An answer without a route at the selection (R148, R152). -/
theorem selectAnswered_plain (o : ReqOutcome) : selectAnswered q s (plainResult s q o) =
    withResult (withRef (served s s.paths.queue) .status) q.slot q.serial (plainFirst s q.record o)
      (bareSecond (reqTag q.record) .none) := by
  rw [← resultLine_plain (u := s) rfl]
  exact selectAnswered_eq (n := 3) (xs := []) hcalm q _ _

/-- A RELEASE: the path is freed with its reservations, and the answer shows the path (R148, R152). -/
theorem selectAnswered_released (p : Nat) (e : PathEntry) :
    selectAnswered q (freePath (unreserveAll s e.routes) p) ([.ref (.path p), .ref .status] ++ plainResult s q .ok) =
    withResult (withRefs (served (freePath (unreserveAll s e.routes) p) s.paths.queue) [.status, .path p]) q.slot q.serial
      (plainFirst s q.record .ok) (bareSecond (reqTag q.record) .none) := by
  have hfreed : Calm (freePath (unreserveAll s e.routes) p) 6 :=
    hcalm.of_sameFrame ((sameFrame_unreserveAll _ _).trans (sameFrame_freePath _ _))
  have hqueue : (freePath (unreserveAll s e.routes) p).paths.queue = s.paths.queue := by
    rw [unreserveAll_eq]
    rfl
  rw [← resultLine_plain (u := s) rfl, ← hqueue]
  refine (selectAnswered_eq (n := 1) (xs := [.ref (.path p), .ref .status]) hfreed q _ _).trans ?_
  exact congrArg (withResult · _ _ _ _) (withRef_queued (mem_withRef _ (status_mem_withRef _)))

/-- A RESUME: the path returns to ACTIVE, and the answer shows its routes (R148, R152, R168). -/
theorem selectAnswered_resumed (p : Nat) (e now : PathEntry) :
    selectAnswered q (storePath s p now) ([.ref (.path p), .postPath p .requested] ++ pathResult q p e) =
    withResult (withSaid (served (storePath s p now) s.paths.queue) [.ref .status, .ref (.path p), .pathState p .requested])
      q.slot q.serial
      (resultLine (storePath s p now) (.first (reqTag q.record) .ok (some e.cls) (some p) (.primaryOf p)))
      (resultLine (storePath s p now) (.second (reqTag q.record) .none (.backupOf p))) := by
  have hstored : Calm (storePath s p now) 6 := hcalm.of_sameFrame (sameFrame_storePath s p now)
  have hplaces := places_pathState (storePath s p now) p .requested
  refine selectAnswered_eq (n := 0) (xs := [.ref (.path p), .pathState p .requested]) (hstored.fewer ?_) q _ _
  simp only [places, List.map_cons, List.map_nil, List.sum_cons, List.sum_nil, Said.places] at hplaces ⊢
  omega

end

/-- Settles O52: the restoration set and the queue decide what is selected, and the outcome what becomes of a request. -/
theorem selectionResult : Obligations.SelectionResult := by
  intro s hcalm hmay harbiter
  rw [show exec .selection s = .next (selectNext s) from live_released hcalm.released _]
  refine ⟨fun hrestoration hqueue => congrArg _ (selectNext_nothing hcalm hmay hrestoration hqueue),
    fun p others hrestoration hturn => ?_, fun q rest o p e hqueue hturn ho => ?_⟩
  · rw [selectNext_restoration hcalm hmay hrestoration hturn]
    exact congrArg _ (requestGrant_path harbiter)
  · rw [selectNext_request hcalm hmay hqueue hturn]
    have hleft : Calm { s with paths := { s.paths with queue := rest } } 6 :=
      ⟨hcalm.released, hcalm.threads, hcalm.waiters, hcalm.turn, hcalm.strikeWait, hcalm.room⟩
    change o = outcomeAtSelection { s with paths := { s.paths with queue := rest } } q at ho
    subst ho
    refine ⟨fun hfailed => ?_, fun hok hkind => ?_, fun hok hkind hnamed => ?_, fun hok hkind hnamed => ?_⟩
    · exact congrArg _ ((selectRequest_failed hfailed).trans (selectAnswered_plain hleft _))
    · exact congrArg _ ((selectRequest_waiting hok hkind).trans (selectWaiting_eq hleft harbiter))
    · refine ⟨e.routes.foldl Route.releasedFrom s.paths.reserved, fun k => ?_, ?_⟩
      · have hsets := reservedOn_unreserveAll e.routes s k
        rwa [unreserveAll_eq] at hsets
      · have hreleased := (selectRequest_release hok hkind hnamed).trans (selectAnswered_released hleft p e)
        rw [unreserveAll_eq] at hreleased
        exact congrArg _ hreleased
    · exact congrArg _ ((selectRequest_resume hok hkind hnamed).trans (selectAnswered_resumed hleft p e _))

end Sys2Proof.Machine

/-!
PROOFS. The restoration set and the paths in RESTORING (O8).
-/

namespace Sys2Proof.Machine

/-! ### The restoration set's law, path by path (R159) -/

/-- The restoration set lists a path exactly when it is in RESTORING; both lists rise, so this is equality. -/
theorem restorationLaw_iff (s : State) : RestorationLaw s ↔
    s.paths.entries.ascending ∧ s.paths.restoration.Pairwise (· < ·) ∧
      ∀ p, p ∈ s.paths.restoration ↔ ∃ e, s.paths.entries.get? p = some e ∧ e.state = .restoring := by
  unfold RestorationLaw
  refine and_congr_right fun hascending => ?_
  have hrises : (restoringPaths s).Pairwise (· < ·) := hascending.sublist (List.filter_sublist.map _)
  have hmem : ∀ p, p ∈ restoringPaths s ↔ ∃ e, s.paths.entries.get? p = some e ∧ e.state = .restoring := fun p => by
    simp only [restoringPaths, List.mem_map, List.mem_filter, beq_iff_eq]
    constructor
    · rintro ⟨x, ⟨hx, hstate⟩, rfl⟩
      exact ⟨x.2, Table.get?_of_mem hascending hx, hstate⟩
    · rintro ⟨e, he, hstate⟩
      exact ⟨(p, e), ⟨Table.get?_mem _ he, hstate⟩, rfl⟩
  constructor
  · intro h
    rw [h]
    exact ⟨hrises, hmem⟩
  · rintro ⟨hset, hlists⟩
    exact hset.eq_of_mem_iff hrises fun p => (hlists p).trans (hmem p).symm

theorem pairwise_insertNat {l : List Nat} (h : l.Pairwise (· < ·)) (i : Nat) : (insertNat i l).Pairwise (· < ·) := by
  induction l with
  | nil => exact List.pairwise_singleton _ _
  | cons k r ih =>
    obtain ⟨hk, hr⟩ := List.pairwise_cons.1 h
    unfold insertNat
    split
    · next hik => exact List.pairwise_cons.2 ⟨fun j hj => (List.mem_cons.1 hj).elim (· ▸ hik) fun hj => hik.trans (hk j hj), h⟩
    · split
      · exact h
      · refine List.pairwise_cons.2 ⟨fun j hj => ?_, ih hr⟩
        rcases (mem_insertNat i j r).1 hj with rfl | hj
        · omega
        · exact hk j hj

theorem pairwise_removeNat {l : List Nat} (h : l.Pairwise (· < ·)) (i : Nat) : (removeNat i l).Pairwise (· < ·) := h.filter _

/-- A stored path is in the restoration set by its new state, and every other path as before. -/
theorem RestorationLaw.storePath {s : State} (h : RestorationLaw s) (p : Nat) (e : PathEntry) :
    RestorationLaw (Machine.storePath s p e) := by
  obtain ⟨hascending, hrises, hmem⟩ := (restorationLaw_iff s).1 h
  refine (restorationLaw_iff _).2 ⟨Table.ascending_set hascending p e, ?_, fun q => ?_⟩
  · unfold Machine.storePath
    dsimp only
    split
    · exact pairwise_insertNat hrises p
    · exact pairwise_removeNat hrises p
  · rw [mem_restoration_storePath]
    change _ ↔ ∃ e', (s.paths.entries.set p e).get? q = some e' ∧ _
    split
    · next hq => simp [hq, Table.get?_set_self]
    · next hq => rw [hmem, Table.get?_set_ne _ _ hq]

/-- A freed path leaves the restoration set with its entry. -/
theorem RestorationLaw.freePath {s : State} (h : RestorationLaw s) (p : Nat) : RestorationLaw (Machine.freePath s p) := by
  obtain ⟨hascending, hrises, hmem⟩ := (restorationLaw_iff s).1 h
  refine (restorationLaw_iff _).2 ⟨Table.ascending_erase hascending p, pairwise_removeNat hrises p, fun q => ?_⟩
  rw [freePath_entries]
  change q ∈ removeNat p s.paths.restoration ↔ _
  rw [mem_removeNat, hmem]
  by_cases hq : q = p <;> simp [hq]

theorem restorationLaw_clearPathTables (s : State) : RestorationLaw (clearPathTables s) := ⟨Table.ascending_nil, rfl⟩

/-! ### What a command does to the path table and the restoration set -/

/-- What the restoration set's law speaks of. -/
def pathTables (s : State) : Table PathEntry × List Nat := (s.paths.entries, s.paths.restoration)

theorem RestorationLaw.same {s t : State} (h : RestorationLaw s) (htables : pathTables t = pathTables s) : RestorationLaw t := by
  obtain ⟨hentries, hrestoration⟩ := Prod.mk.inj htables
  unfold RestorationLaw restoringPaths
  rwa [hentries, hrestoration]

/-- The ways in which commands reach from one state to another, as far as the path table goes: a path is stored or freed, or every path
is freed, and nothing else touches the entries or the restoration set. -/
inductive PathsMove : State → State → Prop
  | same {s t : State} (h : pathTables t = pathTables s) : PathsMove s t
  | stored (s : State) (p : Nat) (e : PathEntry) : PathsMove s (storePath s p e)
  | freed (s : State) (p : Nat) : PathsMove s (freePath s p)
  | cleared (s : State) : PathsMove s (clearPathTables s)
  | trans {s t u : State} (h : PathsMove s t) (k : PathsMove t u) : PathsMove s u

theorem PathsMove.restorationLaw {s t : State} (h : PathsMove s t) (hs : RestorationLaw s) : RestorationLaw t := by
  induction h with
  | same htables => exact hs.same htables
  | stored s p e => exact hs.storePath p e
  | freed s p => exact hs.freePath p
  | cleared s => exact restorationLaw_clearPathTables s
  | trans _ _ h k => exact k (h hs)

theorem PathsMove.refl (s : State) : PathsMove s s := .same rfl

theorem PathsMove.after {s t u : State} (k : PathsMove t u) (h : pathTables t = pathTables s) : PathsMove s u := .trans (.same h) k

theorem PathsMove.then {s t u : State} (h : PathsMove s t) (k : pathTables u = pathTables t) : PathsMove s u := h.trans (.same k)

/-! ### The shared operations -/

theorem pathTables_imageWrite (s : State) : pathTables (imageWrite s) = pathTables s := by
  rcases imageWrite_cases s with ⟨-, e⟩ | ⟨-, -, e⟩ | ⟨-, -, e⟩ <;> rw [e] <;> rfl

theorem pathTables_finishRecord (s : State) (r : Line) (o : CmdOutcome) : pathTables (finishRecord s r o) = pathTables s :=
  pathTables_imageWrite _

theorem pathTables_completeCommand (s : State) (o : CmdOutcome) : pathTables (completeCommand s o) = pathTables s := by
  unfold completeCommand
  split
  · rfl
  · exact pathTables_finishRecord _ _ _

theorem pathTables_judgeCommands (rs : List Line) (s : State) : pathTables (judgeCommands rs s) = pathTables s := by
  induction rs generalizing s with
  | nil => rfl
  | cons r rs ih =>
    unfold judgeCommands
    repeat' split
    · exact ih s
    · exact (ih _).trans (pathTables_imageWrite _)
    · rfl

theorem pathTables_setPhase (s : State) (phase : Phase) : pathTables (setPhase s phase) = pathTables s := by
  unfold setPhase
  split <;> rfl

theorem pathTables_requestGrant (s : State) (r : Requester) : pathTables (requestGrant s r) = pathTables s := by
  unfold requestGrant
  repeat' split
  all_goals rfl

theorem pathTables_releaseGrant (s : State) : pathTables (releaseGrant s) = pathTables s := by
  unfold releaseGrant
  repeat' split
  all_goals rfl

theorem pathTables_requestTopology (s : State) : pathTables (requestTopology s) = pathTables s := by
  unfold requestTopology
  repeat' split
  · rfl
  · rfl
  · exact pathTables_requestGrant _ _

theorem pathTables_reserveRoute (s : State) (r : Route) : pathTables (reserveRoute s r) = pathTables s := by
  rw [reserveRoute_eq]
  rfl

theorem pathTables_unreserveAll (s : State) (rs : List Route) : pathTables (unreserveAll s rs) = pathTables s := by
  rw [unreserveAll_eq]
  rfl

theorem pathTables_foldl_setReserved (f : State → Nat → SlotSet) (ks : List Nat) (s : State) :
    pathTables (ks.foldl (fun s k => setReserved s k (f s k)) s) = pathTables s := by
  induction ks generalizing s with
  | nil => rfl
  | cons k ks ih => exact ih _

theorem pathTables_replaceReservation (s : State) (old : Option Route) (new : Route) :
    pathTables (replaceReservation s old new) = pathTables s :=
  (pathTables_foldl_setReserved _ _ _).trans (pathTables_foldl_setReserved _ _ _)

theorem pathTables_withTurn {t : Thread} {s : State} {f : State → OpResult} (hf : ∀ u, pathTables (f u).state = pathTables u) :
    pathTables (withTurn t s f).state = pathTables s := by
  unfold withTurn
  repeat' split
  · exact hf _
  · exact hf s
  · rfl

/-! ### The steps of operations -/

theorem pathTables_applyRecord (l : Line) (off : Nat) (s : State) : pathTables (applyRecord l off s).state = pathTables s := by
  unfold applyRecord
  split
  · unfold applyNodeReport updateNode recordFault
    repeat' split
    all_goals rfl
  · unfold applyPortReport updatePort recordFault
    repeat' split
    all_goals rfl
  · unfold applyPortWithdraw
    repeat' split
    all_goals rfl
  · unfold applyNodeWithdraw
    repeat' split
    all_goals rfl
  all_goals rfl

theorem pathTables_leaveLink (s : State) (j : Option Nat) : pathTables (leaveLink s j) = pathTables s := by
  cases j <;> rfl

theorem pathTables_retireLink (k : Nat) (why : TopoReason) (s : State) : pathTables (retireLink k why s).state = pathTables s := by
  unfold retireLink
  split
  · rfl
  · exact (pathTables_leaveLink _ _).trans (pathTables_leaveLink _ _)

theorem pathTables_setAnswered (s : State) (k : Nat) : pathTables (setAnswered s k) = pathTables s := by
  rcases setAnswered_cases s k with ⟨l, -, -, e⟩ | ⟨-, e⟩ <;> rw [e]
  rfl

theorem pathTables_restartDone (s : State) : pathTables (restartDone s) = pathTables s := by
  unfold restartDone
  repeat' split
  · rfl
  · exact pathTables_completeCommand _ _
  · rfl

/-- A strike event's path gives up reservations and is stored (R161). -/
theorem pathsMove_changePath (s : State) (p : Nat) (x : PathEntry × List Route) (why : PathReason) (next : Op) :
    PathsMove s (changePath s p x why next).state :=
  (PathsMove.stored _ p x.1).after (pathTables_unreserveAll s x.2)

/-- Of the steps of operations, those of strike events store paths, and RESTART's frees them all. -/
theorem pathsMove_runOp (given : Bool) (t : Thread) (op : Op) (s : State) : PathsMove s (runOp given t op s).state := by
  cases op with
  | downPaths k p | upPaths k p | retirePaths k p =>
    simp only [runOp, downPaths, upPaths, retirePaths]
    split
    · exact .refl s
    · exact pathsMove_changePath ..
  | restartTables => exact (PathsMove.cleared s).then rfl
  | ref r =>
    rcases queueRef_cases given t r s with ⟨-, e⟩ | ⟨-, -, e⟩ | ⟨-, -, e⟩ <;> simp only [runOp, e] <;> exact .same rfl
  | result m l =>
    rcases queueContent_cases given t (resultTarget s m) (resultLine s l) (some m) s with ⟨-, e⟩ | ⟨-, e⟩ <;>
      simp only [runOp, e] <;> exact .same rfl
  | post | postPath | drain | ackPath =>
    simp only [runOp, postNotice, postPathState, drainDeferred, acknowledgePath]
    refine .same (pathTables_withTurn fun u => ?_)
    repeat' split
    all_goals rfl
  | complete o => exact .same (pathTables_completeCommand s o)
  | restartDone => exact .same (pathTables_restartDone s)
  | applyRecord l off => exact .same (pathTables_applyRecord l off s)
  | retireLink k why => exact .same (pathTables_retireLink k why s)
  | topologyEnd | pathGrantEnd => exact .same (pathTables_releaseGrant _)
  | retireDone k => exact .same (pathTables_setAnswered _ k)
  | unlock | requestFinish | operationEnd | restartCounts => exact .same rfl
  | notice | writePath | takeFinish | openBatch | stopCheck | event | reconvertNodes | reconvertPorts | linkAttributes | linkState
  | portMove | repoint | evaluate | claimants | removePort | freePort | orphans | removePorts | freeNode | offer =>
    refine .same ?_
    simp only [runOp, writeNotice, writePathState, finishTaking, openNested, stopBatch, sendEvent, reconvertNodes, reconvertPorts,
      updateLinkAttributes, updateLinkState, movePort, repointPort, evaluatePort, recheckClaimants, removePort, freePort,
      orphanClaimants, removePorts, freeNode, offerLink]
    repeat' split
    all_goals rfl

theorem pathsMove_micro (given : Bool) (t : Thread) (s : State) : PathsMove s (micro given t s) := by
  refine micro_keeps (PathsMove s) (fun _ _ _ h => h.then rfl) (.refl s) (fun op rest s' push _ hrun => ?_)
    fun op rest s' _ hrun => ?_
  · have hop := pathsMove_runOp given t op s
    rwa [hrun] at hop
  · have hop := pathsMove_runOp given t op s
    rwa [hrun] at hop

/-- Settling, and the launch of an operation, move paths on from the state that they find. -/
theorem PathsMove.settle {s u : State} (h : PathsMove s u) : PathsMove s (settleAll u) :=
  settleAll_induction (PathsMove s) (fun v t hv _ => hv.trans (pathsMove_micro false t v)) u h

theorem PathsMove.launch {s u : State} (h : PathsMove s u) {t : Thread} {ops : List Op} : PathsMove s (launch u t ops) :=
  PathsMove.settle (u := u.addOps t ops) (h.then (by rfl))

/-- An operation is launched in a state whose paths are those of the command's beginning. -/
theorem PathsMove.launched {s u : State} {t : Thread} {ops : List Op} (h : pathTables u = pathTables s := by rfl) :
    PathsMove s (Machine.launch u t ops) := PathsMove.launch (.same h)

/-! ### The ports and the write-back queue -/

theorem pathsMove_acceptHead (s : State) : PathsMove s (acceptHead s) := by
  unfold acceptHead decodeWrite
  repeat' split
  · exact .refl s
  · exact .refl s
  · dsimp only
    generalize writeClass s _ = c
    cases c with
    | anchorCommand => exact .same (pathTables_judgeCommands _ _)
    | _ => exact .same rfl
  · exact .launched
  · exact .same rfl

theorem pathTables_acceptRead (s : State) (a : Addr) (tag : Nat) : pathTables (acceptRead s a tag) = pathTables s := by
  unfold acceptRead
  repeat' split
  all_goals rfl

theorem pathTables_returnResponse (s : State) (tag : Nat) (answer : ReadData) :
    pathTables (returnResponse s tag answer) = pathTables s := by
  unfold returnResponse
  split <;> rfl

theorem pathTables_releaseDue (s : State) (entry : Nat) : pathTables (releaseDue s entry) = pathTables s := by
  unfold releaseDue
  repeat' split
  all_goals rfl

theorem pathTables_issueOldest (s : State) : pathTables (issueOldest s) = pathTables s := by
  unfold issueOldest issueItem
  repeat' split
  · rfl
  · rfl
  · rw [resultIssued_eq]
    rfl
  · rfl

theorem pathsMove_giveRoom (s : State) : PathsMove s (giveRoom s) := by
  unfold giveRoom
  split
  · split
    · exact PathsMove.settle ((pathsMove_micro true _ (dropWaiter s)).after rfl)
    · exact .refl s
  · repeat' split
    all_goals exact .same rfl
  · exact .refl s

theorem pathTables_giveResponseRoom (s : State) : pathTables (giveResponseRoom s) = pathTables s := by
  unfold giveResponseRoom
  repeat' split
  all_goals rfl

theorem pathsMove_giveStrikeRoom (s : State) : PathsMove s (giveStrikeRoom s) := by
  unfold giveStrikeRoom
  split
  · exact .settle (.same rfl)
  · exact .refl s

/-! ### The commands of the control unit -/

/-- What the effect of a command does to the paths, the command does: the records behind it are judged without touching them (R21). -/
theorem pathsMove_onRecord (p : Line → Bool) {f : Line → State → State} (hf : ∀ r s, PathsMove s (f r s)) (s : State) :
    PathsMove s (onRecord p f s) := by
  unfold onRecord
  repeat' split
  · exact .refl s
  · exact ((hf _ _).then (pathTables_judgeCommands _ _)).after rfl
  · exact .refl s

theorem pathsMove_finishRecord (s : State) (r : Line) (o : CmdOutcome) : PathsMove s (finishRecord s r o) :=
  .same (pathTables_finishRecord s r o)

theorem PathsMove.performing {s u : State} (h : PathsMove s u) {r : Line} {items : List Op} :
    PathsMove s (Machine.performing u r items) :=
  PathsMove.launch (h.then (by rfl))

theorem pathsMove_runSetWindows (r : Line) (s : State) : PathsMove s (runSetWindows r s) := by
  unfold runSetWindows
  repeat' split
  iterate 3 exact pathsMove_finishRecord s r _
  all_goals exact PathsMove.performing (.same (by rfl))

theorem pathsMove_runLoadProfile (r : Line) (s : State) : PathsMove s (runLoadProfile r s) := by
  unfold runLoadProfile
  repeat' split
  · exact pathsMove_finishRecord s r _
  · exact pathsMove_finishRecord s r _
  · exact .same rfl

theorem pathTables_answerProfileRead (answer : ReadData) (s : State) : pathTables (answerProfileRead answer s) = pathTables s := by
  unfold answerProfileRead
  dsimp only
  repeat' split
  · rfl
  · exact pathTables_completeCommand _ _
  · exact pathTables_setPhase _ _
  · exact pathTables_completeCommand _ _
  · exact pathTables_completeCommand _ _
  · rfl

theorem pathTables_installWaiting (s : State) : pathTables (installWaiting s) = pathTables s := by
  unfold installWaiting
  repeat' split
  · rfl
  · exact (pathTables_requestTopology _).trans (pathTables_setPhase _ _)
  · exact pathTables_completeCommand _ _
  · exact pathTables_completeCommand _ _
  · rfl

theorem pathsMove_runLoadClasses (r : Line) (s : State) : PathsMove s (runLoadClasses r s) := by
  unfold runLoadClasses
  repeat' split
  iterate 3 exact pathsMove_finishRecord s r _
  exact .same (pathTables_finishRecord _ _ _)

theorem pathsMove_runSetTiming (r : Line) (s : State) : PathsMove s (runSetTiming r s) := .same (pathTables_finishRecord _ r _)

theorem pathsMove_runSetReporting (r : Line) (s : State) : PathsMove s (runSetReporting r s) := by
  unfold runSetReporting
  split
  · exact PathsMove.performing (.same (by rfl))
  · exact .same (pathTables_finishRecord _ _ _)

theorem pathsMove_runStart (r : Line) (s : State) : PathsMove s (runStart r s) := by
  unfold runStart
  split
  · exact pathsMove_finishRecord s r _
  · exact PathsMove.performing (.same (by rfl))

theorem pathsMove_stopIntake (s : State) : PathsMove s (stopIntake s) := by
  unfold stopIntake
  split
  · exact .launched
  · exact .refl s

theorem pathsMove_runStop (r : Line) (s : State) : PathsMove s (runStop r s) := by
  unfold runStop
  split
  · exact pathsMove_finishRecord s r _
  · exact PathsMove.trans .launched (pathsMove_stopIntake _)

theorem pathsMove_endDrain (s : State) : PathsMove s (endDrain s) := by
  unfold endDrain
  split
  · exact .launched
  · exact .refl s

theorem pathsMove_runClearTopology (r : Line) (s : State) : PathsMove s (runClearTopology r s) := by
  unfold runClearTopology
  repeat' split
  · exact pathsMove_finishRecord s r _
  · exact pathsMove_finishRecord s r _
  · exact .same (pathTables_requestTopology _)

theorem pathsMove_runClearPaths (r : Line) (s : State) : PathsMove s (runClearPaths r s) := by
  unfold runClearPaths
  split
  · exact pathsMove_finishRecord s r _
  · exact PathsMove.performing ((PathsMove.cleared s).then (by rfl))

/-- RESTART's own steps free the paths (R36 step 4). -/
theorem pathsMove_runRestart (r : Line) (s : State) : PathsMove s (runRestart r s) := .launched

/-! ### The notice unit, the intake unit and the topology unit -/

theorem pathsMove_acknowledgeNext (s : State) : PathsMove s (acknowledgeNext s) := by
  unfold acknowledgeNext
  repeat' split
  · exact .refl s
  · exact .refl s
  · exact .launched

theorem pathTables_placeRecord (s : State) (r : HandedRecord) : pathTables (placeRecord s r).1 = pathTables s := by
  unfold placeRecord placeOpen placeClose placeReport
  repeat' split
  all_goals rfl

theorem pathsMove_takeRecord (s : State) : PathsMove s (takeRecord s) := by
  unfold takeRecord
  repeat' split
  · exact .refl s
  · exact .refl s
  · refine .launched ?_
    exact pathTables_placeRecord _ _

theorem pathsMove_applyLoose (s : State) : PathsMove s (applyLoose s) := by
  unfold applyLoose
  repeat' split
  · exact .launched
  · exact .refl s
  · exact .refl s

theorem pathsMove_applyBatch (s : State) : PathsMove s (applyBatch s) := by
  unfold applyBatch
  repeat' split
  · exact .launched
  · exact .refl s
  · exact .refl s

theorem pathTables_noteDue (e : EntryName) (s : State) : pathTables (noteDue e s) = pathTables s := by
  unfold noteDue
  split
  · exact pathTables_requestTopology s
  · rfl

theorem pathsMove_expireNext (s : State) : PathsMove s (expireNext s) := by
  unfold expireNext
  repeat' split
  · exact .launched
  · exact .launched
  · exact .same (pathTables_releaseGrant _)
  · exact .refl s

theorem pathsMove_releaseLink (s : State) : PathsMove s (releaseLink s) := by
  unfold releaseLink
  repeat' split
  · exact .launched
  · exact .refl s
  · exact .refl s

theorem pathsMove_reconvert (s : State) : PathsMove s (reconvert s) := by
  unfold reconvert
  repeat' split
  · exact .launched
  · exact .refl s
  · exact .refl s

theorem pathsMove_clearTopology (s : State) : PathsMove s (clearTopology s) := by
  unfold clearTopology
  repeat' split
  · exact .launched
  · exact .refl s
  · exact .refl s

/-! ### The path table unit -/

theorem pathsMove_takeRequest (s : State) : PathsMove s (takeRequest s) := by
  unfold takeRequest
  dsimp only
  repeat' split
  · exact .refl s
  · exact .refl s
  · exact .same rfl
  · exact .launched
  · exact .launched

theorem PathsMove.selectAnswered {s u : State} (h : PathsMove s u) {q : QueuedRequest} {items : List Op} :
    PathsMove s (Machine.selectAnswered q u items) :=
  PathsMove.launch (h.then (by rfl))

theorem pathsMove_selectWaiting (s : State) (q : QueuedRequest) : PathsMove s (selectWaiting s q) := by
  refine .launched ?_
  exact pathTables_requestGrant _ _

/-- A RELEASE gives up the path's reservations and frees it (R148). -/
theorem pathsMove_selectRelease (s : State) (q : QueuedRequest) : PathsMove s (selectRelease s q) := by
  unfold selectRelease
  split
  · exact (PathsMove.refl s).selectAnswered
  · exact ((PathsMove.freed _ _).after (pathTables_unreserveAll s _)).selectAnswered

/-- A RESUME stores the path in ACTIVE (R148). -/
theorem pathsMove_selectResume (s : State) (q : QueuedRequest) : PathsMove s (selectResume s q) := by
  unfold selectResume
  repeat' split
  · exact (PathsMove.refl s).selectAnswered
  · exact (PathsMove.stored s _ _).selectAnswered
  · exact (PathsMove.refl s).selectAnswered

theorem pathsMove_selectRequest (s : State) (q : QueuedRequest) : PathsMove s (selectRequest s q) := by
  have hanswered : ∀ items, PathsMove s (selectAnswered q s items) := fun _ => (PathsMove.refl s).selectAnswered
  unfold selectRequest
  repeat' split
  · exact hanswered _
  · exact pathsMove_selectWaiting s q
  · exact pathsMove_selectWaiting s q
  · exact hanswered _
  · exact pathsMove_selectWaiting s q
  · exact pathsMove_selectRelease s q
  · exact pathsMove_selectResume s q
  · exact hanswered _

theorem pathsMove_selectNext (s : State) : PathsMove s (selectNext s) := by
  have hrestoration : ∀ p, PathsMove s (selectRestoration s p) := fun _ => .same (pathTables_requestGrant _ _)
  have hrequest : ∀ q rest, PathsMove s (selectRequest { s with paths := { s.paths with queue := rest } } q) :=
    fun q _ => (pathsMove_selectRequest _ q).after rfl
  unfold selectNext
  repeat' split
  · exact .refl s
  · exact hrestoration _
  · exact hrestoration _
  · exact hrequest _ _
  · exact hrequest _ _
  · exact .refl s

theorem pathsMove_takeUpRequest (s : State) (o : Operation) (q : QueuedRequest) : PathsMove s (takeUpRequest s o q) := by
  unfold takeUpRequest
  repeat' split
  · exact .same rfl
  · exact .launched
  · exact .same rfl

theorem pathsMove_takeUpGrant (s : State) : PathsMove s (takeUpGrant s) := by
  unfold takeUpGrant
  repeat' split
  · exact .same rfl
  · exact .same (pathTables_releaseGrant _)
  · exact .same (pathTables_releaseGrant _)
  · exact pathsMove_takeUpRequest s _ _
  · exact .refl s
  · exact .refl s

/-- A SETUP reserves its routes and stores the new path (R147). -/
theorem pathsMove_allocatePath (s : State) (p : Nat) (r : Line) (c : Computed) (primary : Route) :
    PathsMove s (allocatePath s p r c primary) := by
  refine (PathsMove.stored _ p _).after ?_
  change pathTables (match c.backup with | some b => reserveRoute (reserveRoute s primary) b | none => reserveRoute s primary) = _
  split
  · exact (pathTables_reserveRoute _ _).trans (pathTables_reserveRoute _ _)
  · exact pathTables_reserveRoute _ _

theorem pathsMove_endSetup (s : State) (q : QueuedRequest) (c : Computed) : PathsMove s (endSetup s q c).1 := by
  unfold endSetup
  split
  · exact pathsMove_allocatePath ..
  · exact .refl s

theorem pathsMove_endReroute (s : State) (q : QueuedRequest) (c : Computed) : PathsMove s (endReroute s q c).1 := by
  unfold endReroute
  split
  · exact (PathsMove.stored _ _ _).after (pathTables_replaceReservation s _ _)
  · exact .refl s

theorem pathsMove_endRestoration (s : State) (p : Nat) (c : Computed) : PathsMove s (endRestoration s p c).1 := by
  unfold endRestoration
  repeat' split
  · exact .refl s
  · exact (PathsMove.stored _ _ _).after (pathTables_replaceReservation s _ _)
  · exact .stored s _ _

theorem pathsMove_endItem (s : State) (item : Item) (c : Computed) : PathsMove s (endItem s item c).1 := by
  unfold endItem
  repeat' split
  · exact pathsMove_endRestoration s _ c
  · exact pathsMove_endSetup s _ c
  · exact pathsMove_endReroute s _ c
  all_goals exact .refl s

theorem pathsMove_endComputation (s : State) : PathsMove s (endComputation s) := by
  unfold endComputation
  repeat' split
  · exact PathsMove.launch ((pathsMove_endItem _ _ _).after (by rfl))
  · exact .refl s
  · exact .refl s

theorem pathTables_nextStrike {s u : State} {kind : StrikeKind} {k : Nat} (hnext : nextStrike s kind = some (k, u)) :
    pathTables u = pathTables s := by
  unfold nextStrike at hnext
  split at hnext
  · cases hnext
  · split at hnext
    · cases hnext
      rfl
    · cases hnext

theorem pathsMove_strikeDown (s : State) : PathsMove s (strikeDown s) := by
  unfold strikeDown
  repeat' split
  · exact .refl s
  · next hnext _ => exact .same (pathTables_nextStrike hnext)
  · next hnext _ => exact PathsMove.after .launched (pathTables_nextStrike hnext)

theorem pathsMove_strikeUp (s : State) : PathsMove s (strikeUp s) := by
  unfold strikeUp
  repeat' split
  · exact .refl s
  · next hnext _ => exact PathsMove.after .launched (pathTables_nextStrike hnext)
  · next hnext _ => exact .same (pathTables_nextStrike hnext)

theorem pathsMove_strikeRetire (s : State) : PathsMove s (strikeRetire s) := by
  unfold strikeRetire
  split
  · exact .refl s
  · next hnext => exact .launched (pathTables_nextStrike hnext)

/-! ### All commands -/

theorem exec_pathsMove {c : Instr} {s t : State} (h : exec c s = .next t) : PathsMove s t := by
  have keeps : ∀ {f : State → State}, (∀ s, PathsMove s (f s)) → live s f = .next t → PathsMove s t :=
    fun hf => live_keeps (.refl s) hf
  have quiet : ∀ {f : State → State}, (∀ s, pathTables (f s) = pathTables s) → live s f = .next t → PathsMove s t :=
    fun hf => keeps fun u => .same (hf u)
  have record : ∀ {p : Line → Bool} {f : Line → State → State}, (∀ r s, PathsMove s (f r s)) →
      live s (onRecord p f) = .next t → PathsMove s t := fun hf => keeps (pathsMove_onRecord _ hf)
  cases c with
  | resetAsserted =>
    cases h
    exact (PathsMove.cleared s).then rfl
  | resetReleased straps =>
    cases h
    split <;> exact .same rfl
  | writeAccepted presented =>
    cases presented with
    | none => exact keeps pathsMove_acceptHead h
    | some w =>
      simp only [exec, execWriteAccepted] at h
      split at h
      · exact keeps (fun u => (pathsMove_acceptHead (present u w)).after rfl) h
      · cases h
  | readAccepted a tag =>
    simp only [exec, execReadAccepted] at h
    split at h
    · exact quiet (fun u => pathTables_acceptRead u a tag) h
    · cases h
  | readResponse tag answer => exact quiet (fun u => pathTables_returnResponse u tag answer) h
  | holdDeadline entry => exact quiet (fun u => pathTables_releaseDue u entry) h
  | writeBackIssue => exact quiet pathTables_issueOldest h
  | writeBackRoom => exact keeps pathsMove_giveRoom h
  | responseWrite => exact quiet pathTables_giveResponseRoom h
  | strikeQueueRoom => exact keeps pathsMove_giveStrikeRoom h
  | unknownCommand => exact record (fun r u => pathsMove_finishRecord u r _) h
  | setWindows => exact record pathsMove_runSetWindows h
  | loadProfile => exact record pathsMove_runLoadProfile h
  | profileReadResponse answer => exact quiet (pathTables_answerProfileRead answer) h
  | profileInstallation => exact quiet pathTables_installWaiting h
  | profileReconversion => exact keeps pathsMove_reconvert h
  | loadClasses => exact record pathsMove_runLoadClasses h
  | setTiming => exact record pathsMove_runSetTiming h
  | setReporting => exact record pathsMove_runSetReporting h
  | start => exact record pathsMove_runStart h
  | stop => exact record pathsMove_runStop h
  | drainEnd => exact keeps pathsMove_endDrain h
  | clearTopology => exact record pathsMove_runClearTopology h
  | clearTopologyOperation => exact keeps pathsMove_clearTopology h
  | clearPaths => exact record pathsMove_runClearPaths h
  | restart => exact record pathsMove_runRestart h
  | acknowledgement => exact keeps pathsMove_acknowledgeNext h
  | intakeRecordTaking => exact keeps pathsMove_takeRecord h
  | topologyRequest => exact quiet pathTables_requestTopology h
  | looseRecordApplication => exact keeps pathsMove_applyLoose h
  | batchApplication => exact keeps pathsMove_applyBatch h
  | entryDue entry => exact quiet (pathTables_noteDue entry) h
  | expiry => exact keeps pathsMove_expireNext h
  | linkIdRelease => exact keeps pathsMove_releaseLink h
  | requestTaking => exact keeps pathsMove_takeRequest h
  | selection => exact keeps pathsMove_selectNext h
  | grantTakeUp => exact keeps pathsMove_takeUpGrant h
  | computationEnd => exact keeps pathsMove_endComputation h
  | downEvent => exact keeps pathsMove_strikeDown h
  | upEvent => exact keeps pathsMove_strikeUp h
  | retireEvent => exact keeps pathsMove_strikeRetire h

/-- Settles O8: every command is a chain of paths stored and freed, and each of these moves the restoration set along. -/
theorem restorationLawKept : Obligations.RestorationLawKept :=
  keeps_of_exec (fun _ _ hs => hs.same rfl) (fun s hs => hs.same (by unfold tick; split <;> rfl))
    fun _ _ _ hs h => (exec_pathsMove h).restorationLaw hs

end Sys2Proof.Machine

/-!
PROOFS. The tables of a path's moves (O56).
-/

namespace Sys2Proof.Machine

section
variable {e : PathEntry} {h : HeldRoute}

/-! ### Falling back (R160) -/

theorem fallBack_hold (hmode : e.restore = .hold) :
    fallBack e = ({ e with state := if e.primary.isSome = true then .held else .down }, []) := by
  cases hprimary : e.primary <;> simp [fallBack, hmode, hprimary]

theorem fallBack_release (hmode : e.restore = .release) : fallBack e =
    if e.primary.isSome = true then ({ e with state := .down, primary := none, backup := none }, e.routes)
    else ({ e with state := .down }, []) := by
  cases hprimary : e.primary <;> simp [fallBack, hmode, hprimary]

theorem fallBack_reroute (hmode : e.restore = .reroute) : fallBack e = ({ e with state := .restoring }, []) := by
  cases hprimary : e.primary <;> simp [fallBack, hmode, hprimary]

theorem intact_iff (r : Option HeldRoute) : intact r = true ↔ r.map (·.struck) = some 0 := by
  cases r <;> simp [intact]

/-! ### A route struck or intact again (R164, R165) -/

theorem struckMove_active (hstate : e.state = .active) :
    struckMove e true = (if e.backup.isSome then ({ e with state := .onBackup }, []) else fallBack e) ∧
      struckMove e false = ({ e with state := .exposed }, []) := by
  simp [struckMove, hstate]

theorem struckMove_exposed (hstate : e.state = .exposed) : struckMove e true = fallBack e := by simp [struckMove, hstate]

theorem struckMove_onBackup (hstate : e.state = .onBackup) :
    struckMove e true = (e, []) ∧
      struckMove e false = (if e.primary.map (·.struck) = some 0 then ({ e with state := .exposed }, []) else fallBack e) := by
  simp [struckMove, hstate, intact_iff]

theorem repairedMove_onBackup (hstate : e.state = .onBackup) :
    repairedMove e true = (if e.revertive then { e with state := .active } else e) := by
  simp [repairedMove, hstate]

theorem repairedMove_exposed (hstate : e.state = .exposed) : repairedMove e false = { e with state := .active } := by
  simp [repairedMove, hstate]

/-- A path without a working route is carried again by the one that is intact. -/
theorem repairedMove_waiting (hstate : e.state = .held ∨ e.state = .restoring) :
    repairedMove e true = { e with state := if e.backup = none then .active else .exposed } ∧
      repairedMove e false = { e with state := .onBackup } := by
  rcases hstate with hstate | hstate <;> simp [repairedMove, hstate]

/-! ### A route dropped (R167) -/

theorem backupDropped_exposed (hstate : e.state = .exposed) : backupDropped e = ({ e with state := .active }, []) := by
  simp [backupDropped, hstate]

theorem backupDropped_onBackup (hstate : e.state = .onBackup) :
    backupDropped e = (if e.primary.map (·.struck) = some 0 then ({ e with state := .active }, []) else fallBack e) := by
  simp [backupDropped, hstate, intact_iff]

theorem backupDropped_unused (hstate : e.state = .active ∨ e.state = .held ∨ e.state = .restoring) : backupDropped e = (e, []) := by
  rcases hstate with hstate | hstate | hstate <;> simp [backupDropped, hstate]

theorem primaryDropped_promotes (hbackup : e.backup = some h) : primaryDropped e =
    if h.struck = 0 then ({ e with primary := some h, backup := none, state := .active }, [])
    else fallBack { e with primary := some h, backup := none } := by
  simp [primaryDropped, hbackup]

theorem primaryDropped_alone (hbackup : e.backup = none) : primaryDropped e = fallBack { e with primary := none } := by
  simp [primaryDropped, hbackup]

end

/-- Settles O56: each row of the tables is the move of its state. -/
theorem pathMoves : Obligations.PathMoves := by
  intro e h
  refine ⟨fallBack_hold, fun hmode hheld => ?_, fun hmode hheld => ?_, fallBack_reroute,
    fun hstate => (struckMove_active hstate).1, fun hstate => (struckMove_active hstate).2, struckMove_exposed,
    fun hstate => (struckMove_onBackup hstate).1, fun hstate => (struckMove_onBackup hstate).2, repairedMove_onBackup,
    repairedMove_exposed, repairedMove_waiting, backupDropped_exposed, backupDropped_onBackup, backupDropped_unused,
    fun hbackup hstruck => ?_, fun hbackup hstruck => ?_, primaryDropped_alone⟩
  · rw [fallBack_release hmode, if_pos hheld]
  · rw [fallBack_release hmode, if_neg hheld]
  · rw [primaryDropped_promotes hbackup, if_pos hstruck]
  · rw [primaryDropped_promotes hbackup, if_neg hstruck]

end Sys2Proof.Machine

/-!
PROOFS. The reset pin, the path notices' posts and the acknowledgements (O14, O40, O41).
-/

namespace Sys2Proof.Machine

/-! ### The reset pin (R5, R19, R37, R38) -/

/-- Settles O14: both steps are the reset rules themselves; the anchor is the strap value times 1 MiB, counted in lines of 64 bytes. -/
theorem resetPinResults : Obligations.ResetPinResults := by
  refine ⟨fun s => ⟨rfl, rfl⟩, fun s straps hr => ?_⟩
  have hanchor : straps.toNat * 2 ^ 20 / 64 = straps.toNat * 16384 := by omega
  rw [hanchor]
  exact congrArg Host.Outcome.next (if_pos hr)

/-! ### PATH_STATE posts (R175, R179) -/

/-- A PATH_STATE post while the turn is free: not written, about to be written, or kept by the due mark (R179). -/
theorem runOp_postPath_free {s : State} (h : s.notices.turn = []) (t : Thread) (p : Nat) (why : PathReason) :
    runOp false t (.postPath p why) s =
      if s.control.enables.path = false then .done s []
      else if (noticeRecord s p).outstanding = false ∧ (noticeRecord s p).due = false ∧ ringOpen s = true then
        .done (turned t (withRecord s p ((noticeRecord s p).counted why))) [.writePath p true]
      else .done (withRecord s p { (noticeRecord s p).counted why with due := true }) [] := by
  have hdisabled : endTurn (turned t s) = s := endTurn_turned t h
  have hdue : ∀ r, endTurn (setRecord (turned t s) p r) = withRecord s p r :=
    fun r => endTurn_turned (s := withRecord s p r) t h
  have hjudge : runOp false t (.postPath p why) s =
      if !s.control.enables.path then .done (endTurn (turned t s)) []
      else if !(noticeRecord s p).outstanding && !(noticeRecord s p).due && ringOpen s then
        .done (turned t (withRecord s p ((noticeRecord s p).counted why))) [.writePath p true]
      else .done (endTurn (setRecord (turned t s) p { (noticeRecord s p).counted why with due := true })) [] := by
    simp only [runOp, postPathState, withTurn, h]
    rfl
  rw [hjudge, hdisabled, hdue]
  simp [and_assoc]

/-- Settles O41: the three outcomes of a post. -/
theorem pathStatePosts : Obligations.PathStatePosts := by
  intro s t p why x hturn hx
  subst hx
  rw [runOp_postPath_free hturn]
  refine ⟨fun hoff => if_pos hoff, fun hon hout hdue hopen => ?_, fun hon hshut => ?_⟩
  · rw [if_neg (by simp [hon]), if_pos ⟨hout, hdue, hopen⟩]
    rfl
  · rw [if_neg (by simp [hon]), if_neg]
    · rfl
    · rintro ⟨hout, hdue, hopen⟩
      simp [hout, hdue, hopen] at hshut

end Sys2Proof.Machine

namespace Sys2Proof.Machine

/-! ### The table of path notice records -/

theorem Table.mem_of_mem_set {α : Type} {t : Table α} {i : Nat} {a : α} {y : Nat × α} (hy : y ∈ t.set i a) : y = (i, a) ∨ y ∈ t := by
  induction t with
  | nil => exact .inl (List.mem_singleton.1 hy)
  | cons x t ih =>
    unfold Table.set at hy
    split at hy
    · exact List.mem_cons.1 hy
    · split at hy
      · exact (List.mem_cons.1 hy).imp_right (List.mem_cons_of_mem _)
      · rcases List.mem_cons.1 hy with rfl | hy
        · exact .inr List.mem_cons_self
        · exact (ih hy).imp_right (List.mem_cons_of_mem _)

theorem Table.erase_sublist {α : Type} (t : Table α) (i : Nat) : (t.erase i).Sublist t := by
  induction t with
  | nil => exact List.Sublist.slnil
  | cons x t ih =>
    unfold Table.erase
    split
    · exact ih.cons _
    · exact ih.cons_cons _

theorem Table.mem_of_mem_setD {α : Type} [DecidableEq α] {t : Table α} {i : Nat} {d a : α} {y : Nat × α} (hy : y ∈ t.setD i d a) :
    y = (i, a) ∨ y ∈ t := by
  unfold Table.setD at hy
  split at hy
  · exact .inr ((t.erase_sublist i).subset hy)
  · exact Table.mem_of_mem_set hy

/-- An entry stored adds at most one to those that a filter lets through. -/
theorem Table.length_filter_setD_le {α : Type} [DecidableEq α] (t : Table α) (i : Nat) (d a : α) (f : Nat × α → Bool) :
    (List.filter f (t.setD i d a)).length ≤ (List.filter f t).length + 1 := by
  have hcons : ∀ u, (List.filter f ((i, a) :: u)).length ≤ (List.filter f u).length + 1 := fun u => by
    rw [List.filter_cons]
    split <;> simp
  have hset : (List.filter f (t.set i a)).length ≤ (List.filter f t).length + 1 := by
    induction t with
    | nil => exact hcons []
    | cons x t ih =>
      unfold Table.set
      split
      · exact hcons _
      · split
        · have htail : (List.filter f t).length ≤ (List.filter f (x :: t)).length := ((List.sublist_cons_self x t).filter f).length_le
          exact (hcons t).trans (Nat.succ_le_succ htail)
        · simp only [List.filter_cons]
          split
          · exact Nat.succ_le_succ ih
          · exact ih
  unfold Table.setD
  split
  · exact ((t.erase_sublist i).filter f).length_le.trans (Nat.le_succ _)
  · exact hset

theorem noticeRecord_mem {s : State} {p : Nat} (hdue : (noticeRecord s p).due = true) : (p, noticeRecord s p) ∈ s.notices.records := by
  cases hget : s.notices.records.get? p with
  | none => simp [noticeRecord, Table.getD, hget, NoticeRecord.idle] at hdue
  | some r =>
    rw [noticeRecord, Table.getD, hget]
    exact Table.get?_mem _ hget

/-- The records are in ascending path ID, and each with its due mark set has a change to report (R179). -/
structure RecordsSound (t : Table NoticeRecord) : Prop where
  ascending : t.ascending
  counted : ∀ y ∈ t, y.2.due = true → 1 ≤ y.2.count

theorem RecordsSound.setD {t : Table NoticeRecord} (h : RecordsSound t) (p : Nat) {r : NoticeRecord} (hr : r.due = true → 1 ≤ r.count) :
    RecordsSound (t.setD p NoticeRecord.idle r) := by
  refine ⟨Table.ascending_setD h.ascending _ _ _, fun y hy => ?_⟩
  rcases Table.mem_of_mem_setD hy with rfl | hy
  · exact hr
  · exact h.counted y hy

theorem RecordsSound.counted_noticeRecord {s : State} (h : RecordsSound s.notices.records) {p : Nat}
    (hdue : (noticeRecord s p).due = true) : 1 ≤ (noticeRecord s p).count :=
  h.counted _ (noticeRecord_mem hdue) hdue

theorem none_deferred_setD {t : Table NoticeRecord} (h : ∀ y ∈ t, y.2.deferred = false) (p : Nat) {r : NoticeRecord}
    (hr : r.due = false) : ∀ y ∈ t.setD p NoticeRecord.idle r, y.2.deferred = false := by
  intro y hy
  rcases Table.mem_of_mem_setD hy with rfl | hy
  · simp [NoticeRecord.deferred, hr]
  · exact h y hy

theorem deferredPaths_withRecord_length (s : State) (p : Nat) (r : NoticeRecord) :
    (deferredPaths (withRecord s p r)).length ≤ (deferredPaths s).length + 1 := by
  simp only [deferredPaths, List.length_map]
  exact Table.length_filter_setD_le ..

theorem deferredPaths_eq_nil {s : State} (h : ∀ y ∈ s.notices.records, y.2.deferred = false) : deferredPaths s = [] := by
  rw [deferredPaths, List.filter_eq_nil_iff.2 fun y hy => by simp [h y hy]]
  rfl

/-! ### The steps of an acknowledgement, with the notice unit's turn (R177, R180, R181) -/

/-- A reference item with room in the write-back queue. -/
theorem runOp_ref_room {s : State} (h : hasPlace false s = true) (t : Thread) (r : Ref) :
    runOp false t (.ref r) s = .done (withRef s r) [] := by
  simp only [runOp, queueRef, refIdle_eq, h, withRef, decide_eq_true_eq, if_true]
  split <;> rfl

theorem settled_ref_turned {s : State} {n : Nat} (h : Calm s (n + 1)) (t : Thread) (r : Ref) (rest : List Op) :
    settleAll ((turned t s).putOps t (.ref r :: rest)) = settleAll ((turned t (withRef s r)).putOps t rest) := by
  have hplace : hasPlace false ((turned t s).putOps t (.ref r :: rest)) = true := h.hasPlace
  refine settled_step (push := []) (h.turned_alone t) ((runOp_ref_room hplace t r).trans ?_)
  simp only [withRef_eq]
  rfl

/-- The path acknowledgement names an OUTSTANDING path's last notified generation (R180). -/
def NamesOutstanding (s : State) (p : Nat) (gen : BitVec 16) : Prop :=
  p < 512 ∧ (noticeRecord s p).outstanding = true ∧ gen = (noticeRecord s p).lastGen

/-- The state in which path `p` is no longer OUTSTANDING; a due mark it has makes it deferred (R180). -/
def ackIdle (s : State) (p : Nat) : State := withRecord s p { noticeRecord s p with outstanding := false }

theorem Calm.ackIdle {s : State} {n : Nat} (h : Calm s n) (p : Nat) : Calm (ackIdle s p) n := h.withRecord p _

theorem runOp_ackPath_turned (s : State) (t : Thread) (p : Nat) (gen : BitVec 16) (ops : List Op) :
    runOp false t (.ackPath p gen) ((turned t s).putOps t ops) =
      if 512 ≤ p ∨ (noticeRecord s p).outstanding = false ∨ gen ≠ (noticeRecord s p).lastGen then .done ((turned t s).putOps t ops) []
      else if !(noticeRecord s p).due then .done ((turned t (ackIdle s p)).putOps t ops) []
      else if ringOpen s then .done ((turned t s).putOps t ops) [.writePath p false]
      else .done ((turned t (ackIdle s p)).putOps t ops) [] := by
  simp only [runOp, acknowledgePath, withTurn_turned]
  rfl

section
variable {s : State} {n p : Nat} {gen : BitVec 16} (h : Calm s n) (t : Thread) (rest : List Op)
include h

theorem settled_ackPath_ignored (hnamed : ¬ NamesOutstanding s p gen) :
    settleAll ((turned t s).putOps t (.ackPath p gen :: rest)) = settleAll ((turned t s).putOps t rest) := by
  refine settled_step (push := []) (h.turned_alone t) ?_
  rw [runOp_ackPath_turned, if_pos]
  simp only [NamesOutstanding, not_and_or, Nat.not_lt, Bool.not_eq_true] at hnamed
  exact hnamed

theorem settled_ackPath_idle (hnamed : NamesOutstanding s p gen) (hshut : (noticeRecord s p).due = false ∨ ringOpen s = false) :
    settleAll ((turned t s).putOps t (.ackPath p gen :: rest)) = settleAll ((turned t (ackIdle s p)).putOps t rest) := by
  obtain ⟨hp, hout, hgen⟩ := hnamed
  refine settled_step (push := []) (h.turned_alone t) ?_
  rw [runOp_ackPath_turned, if_neg (by simp [hp, hout, hgen])]
  rcases hshut with hshut | hshut <;> simp [hshut]

end

/-- A path whose due mark is set has its PATH_STATE written again when the ring takes it (R180). -/
theorem settled_ackPath_written {s : State} {n p : Nat} {gen : BitVec 16} {w : Windows} (h : Calm s (n + 2)) (t : Thread) (rest : List Op)
    (hnamed : NamesOutstanding s p gen) (hw : s.decoder.windows = some w) (hopen : ringOpen s = true)
    (hdue : (noticeRecord s p).due = true) (hcount : 1 ≤ (noticeRecord s p).count) :
    settleAll ((turned t s).putOps t (.ackPath p gen :: rest)) = settleAll ((turned t (pathNotified w s p)).putOps t rest) := by
  obtain ⟨hp, hout, hgen⟩ := hnamed
  rw [← settled_writePath h t hw (by omega) rest]
  refine settled_step (push := [.writePath p false]) (h.turned_alone t) ?_
  rw [runOp_ackPath_turned, if_neg (by simp [hp, hout, hgen])]
  simp [hdue, hopen]

/-- What an acknowledgement ends with: the deferred notices when its count moves the held one, and else the end of its turn (log 29). -/
def ackTail (s : State) (c : BitVec 32) : List Op := if c = s.notices.consumer then [.unlock] else [.drain 0]

theorem settled_unlock {s : State} {n : Nat} (h : Calm s n) (t : Thread) : settleAll ((turned t s).putOps t [.unlock]) = s := by
  have hrun : runOp false t .unlock ((turned t s).putOps t [.unlock]) = .done (s.putOps t [.unlock]) [] :=
    congrArg (fun u => OpResult.done (State.putOps u t [.unlock]) []) (endTurn_turned t h.turn)
  rw [settled_step (h.turned_alone t) hrun]
  exact settled_calm h t

/-- Without a deferred notice a drain writes nothing. -/
theorem settled_drain_none {s : State} {n : Nat} (h : Calm s n) (hnone : ∀ y ∈ s.notices.records, y.2.deferred = false) (t : Thread) :
    settleAll ((turned t s).putOps t [.drain 0]) = s := by
  have hnext : (turned t s).notices.records.nextFrom 0 Config.pathEntries (fun _ r => r.deferred) = none :=
    List.find?_eq_none.2 fun y hy => by simp [hnone y hy]
  have hrun : runOp false t (.drain 0) ((turned t s).putOps t [.drain 0]) = .done (s.putOps t [.drain 0]) [] := by
    simp only [runOp, drainDeferred, withTurn_turned, State.putOps_notices, hnext]
    exact congrArg (fun u => OpResult.done (State.putOps u t [.drain 0]) []) (endTurn_turned t h.turn)
  rw [settled_step (h.turned_alone t) hrun]
  exact settled_calm h t

theorem settled_ackTail_none {u : State} {n : Nat} (h : Calm u n) (hnone : ∀ y ∈ u.notices.records, y.2.deferred = false) (s : State)
    (c : BitVec 32) (t : Thread) : settleAll ((turned t u).putOps t (ackTail s c)) = u := by
  unfold ackTail
  split
  · exact settled_unlock h t
  · exact settled_drain_none h hnone t

theorem settled_ackTail {u : State} {n : Nat} {w : Windows} (h : Calm u (n + 2 * (deferredPaths u).length))
    (hw : u.decoder.windows = some w) (hlines : w.noticeLines ≤ 4096) (hsound : RecordsSound u.notices.records) (s : State)
    (c : BitVec 32) (t : Thread) : settleAll ((turned t u).putOps t (ackTail s c)) =
      if c = s.notices.consumer then u else drainedTo w (w.noticeLines - ringUsed u) u := by
  unfold ackTail
  split
  · exact settled_unlock h t
  · obtain ⟨hsettled, hcalm⟩ := settled_drain hlines h hw hsound.ascending
      (fun y hy hdef => hsound.counted y hy (Bool.and_eq_true_iff.1 hdef).2) t []
    rw [← settled_drain_turned h, hsettled, settled_calm hcalm]

/-! ### ACKNOWLEDGEMENT (R177, R180, R181) -/

/-- The references of an acknowledgement: the status line's when its count moves the held one (R177). -/
def movedRefs (s : State) (c : BitVec 32) : List Ref := if c = s.notices.consumer then [] else [.status]

/-- The state in which an acknowledgement's consumer count has been dealt with (R177). -/
def consumerTaken (s : State) (rest : List Line) (c : BitVec 32) : State :=
  withRefs (acknowledged s rest c s.notices.records) (movedRefs s c)

theorem consumerTaken_eq (s : State) (rest : List Line) (c : BitVec 32) : consumerTaken s rest c =
    { s with
      writeBack := { s.writeBack with queue := (movedRefs s c).foldl (refJoined s.decoder.windows) s.writeBack.queue }
      notices := { s.notices with handed := rest, consumer := c } } := by
  rw [consumerTaken, withRefs_eq]
  rfl

theorem movedRefs_length_le (s : State) (c : BitVec 32) : (movedRefs s c).length ≤ 1 := by
  unfold movedRefs
  split <;> simp

theorem Calm.consumerTaken {s : State} {n : Nat} {c : BitVec 32} (h : Calm s (n + (movedRefs s c).length)) (rest : List Line) :
    Calm (consumerTaken s rest c) n := by
  have hack : Calm (acknowledged s rest c s.notices.records) (n + (movedRefs s c).length) :=
    ⟨h.released, h.threads, h.waiters, h.turn, h.strikeWait, h.room⟩
  exact hack.withRefs _

theorem Calm.consumerTaken_succ {s : State} {n : Nat} (h : Calm s (n + 1)) (rest : List Line) (c : BitVec 32) :
    Calm (Machine.consumerTaken s rest c) n :=
  (h.fewer (Nat.add_le_add_left (movedRefs_length_le s c) n)).consumerTaken rest

/-- ACKNOWLEDGEMENT deals with the count, then with the path, and ends. -/
theorem exec_acknowledgement {s : State} {n : Nat} {l : Line} {rest : List Line} {c : BitVec 32} (h : Calm s (n + 1))
    (hl : s.notices.handed = l :: rest) (hc : c = acceptedConsumer s (ackConsumer l)) :
    exec .acknowledgement s = .next (settleAll ((turned .acknowledge (consumerTaken s rest c)).putOps .acknowledge
      (.ackPath (ackPathId l) (ackGeneration l) :: ackTail s c))) := by
  have hack : Calm (acknowledged s rest c s.notices.records) (n + 1) :=
    ⟨h.released, h.threads, h.waiters, h.turn, h.strikeWait, h.room⟩
  have hlaunch : ∀ ops, launch (turned .acknowledge (acknowledged s rest c s.notices.records)) .acknowledge ops =
      settleAll ((turned .acknowledge (acknowledged s rest c s.notices.records)).putOps .acknowledge ops) := by
    simp [launch, State.addOps, turned, hack.threads]
  have hnext : acknowledgeNext s = launch (turned .acknowledge (acknowledged s rest c s.notices.records)) .acknowledge
      (if c = s.notices.consumer then [.ackPath (ackPathId l) (ackGeneration l), .unlock]
       else [.ref .status, .ackPath (ackPathId l) (ackGeneration l), .drain 0]) := by
    simp only [acknowledgeNext, hl, ← hc]
    rw [if_neg (by simp [h.threads, h.turn, Threads.none])]
    rfl
  refine (live_released h.released acknowledgeNext).trans (congrArg Host.Outcome.next ?_)
  rw [hnext, hlaunch, consumerTaken, movedRefs, ackTail]
  split
  · rfl
  · exact settled_ref_turned hack _ _ _

theorem consumerTaken_records (s : State) (rest : List Line) (c : BitVec 32) :
    (consumerTaken s rest c).notices.records = s.notices.records := by
  rw [consumerTaken_eq]

theorem noticeRecord_consumerTaken (s : State) (rest : List Line) (c : BitVec 32) (p : Nat) :
    noticeRecord (consumerTaken s rest c) p = noticeRecord s p := by
  rw [consumerTaken_eq]
  rfl

theorem namesOutstanding_consumerTaken (s : State) (rest : List Line) (c : BitVec 32) (p : Nat) (gen : BitVec 16) :
    NamesOutstanding (consumerTaken s rest c) p gen ↔ NamesOutstanding s p gen := by
  rw [NamesOutstanding, NamesOutstanding, noticeRecord_consumerTaken]

theorem ackIdle_consumerTaken (s : State) (rest : List Line) (c : BitVec 32) (p : Nat) :
    ackIdle (consumerTaken s rest c) p = withRefs (acknowledged s rest c
      (s.notices.records.setD p NoticeRecord.idle { noticeRecord s p with outstanding := false })) (movedRefs s c) := by
  rw [ackIdle, noticeRecord_consumerTaken, consumerTaken_eq, withRefs_eq]
  rfl

theorem ringOpen_of_windows {s : State} {w : Windows} (hw : s.decoder.windows = some w) :
    ringOpen s = true ↔ ringUsed s < w.noticeLines ∧ s.notices.records.any (fun y => y.2.deferred) = false := by
  simp [ringOpen, ringRoom, hw, anyDeferred]

section
variable {s v : State} {n : Nat} {l : Line} {rest : List Line} {c : BitVec 32} (h : Calm s (n + 1))
  (hl : s.notices.handed = l :: rest) (hc : c = acceptedConsumer s (ackConsumer l))
  (hpath : ∀ tail, settleAll ((turned .acknowledge (consumerTaken s rest c)).putOps .acknowledge
      (.ackPath (ackPathId l) (ackGeneration l) :: tail)) = settleAll ((turned .acknowledge v).putOps .acknowledge tail))
include h hl hc hpath

theorem exec_acknowledgement_none {m : Nat} (hv : Calm v m) (hnone : ∀ y ∈ v.notices.records, y.2.deferred = false) :
    exec .acknowledgement s = .next v := by
  rw [exec_acknowledgement h hl hc, hpath, settled_ackTail_none hv hnone]

theorem exec_acknowledgement_drained {m : Nat} {w : Windows} (hv : Calm v (m + 2 * (deferredPaths v).length))
    (hw : v.decoder.windows = some w) (hlines : w.noticeLines ≤ 4096) (hsound : RecordsSound v.notices.records) :
    exec .acknowledgement s = .next (if c = s.notices.consumer then v else drainedTo w (w.noticeLines - ringUsed v) v) := by
  rw [exec_acknowledgement h hl hc, hpath, settled_ackTail hv hw hlines hsound]

end

/-! ### The path's part with the windows set (R180) -/

/-- The state in which a path acknowledgement has been dealt with, the windows set; `named` tells whether it names the path's last
notified generation (R180). -/
def pathAcknowledged (w : Windows) (named : Bool) (s : State) (p : Nat) : State :=
  if named = false then s
  else if (noticeRecord s p).due = true ∧ ringUsed s < w.noticeLines ∧ s.notices.records.any (fun y => y.2.deferred) = false then
    pathNotified w s p
  else ackIdle s p

section
variable {s : State} {n p : Nat} {gen : BitVec 16} {w : Windows} {named : Bool} (hw : s.decoder.windows = some w)
include hw

theorem settled_ackPath (h : Calm s (n + 2)) (hsound : RecordsSound s.notices.records)
    (hnamed : NamesOutstanding s p gen ↔ named = true) (t : Thread) (rest : List Op) :
    settleAll ((turned t s).putOps t (.ackPath p gen :: rest)) =
      settleAll ((turned t (pathAcknowledged w named s p)).putOps t rest) := by
  unfold pathAcknowledged
  split
  · next hoff => exact settled_ackPath_ignored h t rest (by simp [hnamed, hoff])
  · next hon =>
    have hnames : NamesOutstanding s p gen := hnamed.2 (Bool.eq_true_of_not_eq_false hon)
    split
    · next hdue =>
      exact settled_ackPath_written h t rest hnames hw ((ringOpen_of_windows hw).2 hdue.2) hdue.1 (hsound.counted_noticeRecord hdue.1)
    · next hshut =>
      refine settled_ackPath_idle h t rest hnames ?_
      rw [← ringOpen_of_windows hw, not_and_or, Bool.not_eq_true, Bool.not_eq_true] at hshut
      exact hshut

theorem pathAcknowledged_windows (named : Bool) (p : Nat) : (pathAcknowledged w named s p).decoder.windows = some w := by
  unfold pathAcknowledged
  split
  · exact hw
  · split
    · rw [pathNotified_windows, hw]
    · exact hw

end

theorem RecordsSound.pathAcknowledged {s : State} (h : RecordsSound s.notices.records) (w : Windows) (named : Bool) (p : Nat) :
    RecordsSound (pathAcknowledged w named s p).notices.records := by
  unfold Machine.pathAcknowledged
  split
  · exact h
  · split
    · rw [pathNotified_records]
      exact h.setD p fun hdue => by simp [NoticeRecord.written] at hdue
    · exact h.setD p fun hdue => h.counted_noticeRecord hdue

/-- A notice written takes two places and leaves none deferred; a path that becomes deferred takes two later. -/
theorem Calm.pathAcknowledged {s : State} {n : Nat} (h : Calm s (n + 2 * (deferredPaths s).length + 2)) (w : Windows) (named : Bool)
    (p : Nat) : Calm (pathAcknowledged w named s p) (n + 2 * (deferredPaths (pathAcknowledged w named s p)).length) := by
  unfold Machine.pathAcknowledged
  split
  · exact h.fewer (by omega)
  · split
    · next hopen =>
      have hnone : ∀ y ∈ s.notices.records, y.2.deferred = false := by simpa using hopen.2.2
      have hnone' : deferredPaths (Machine.pathNotified w s p) = [] := deferredPaths_eq_nil (by
        rw [pathNotified_records]
        exact none_deferred_setD hnone p rfl)
      rw [hnone']
      exact (h.fewer (by rw [List.length_nil]; omega)).pathNotified w p
    · have hlength := deferredPaths_withRecord_length s p { noticeRecord s p with outstanding := false }
      exact (h.fewer (by rw [Machine.ackIdle]; omega)).ackIdle p

/-! ### The outcomes of an acknowledgement (R177, R180, R181) -/

section
variable {s : State} {l : Line} {rest : List Line} {c : BitVec 32} {named : Bool} (hl : s.notices.handed = l :: rest)
  (hc : c = acceptedConsumer s (ackConsumer l))
  (hnamed : named = true ↔ NamesOutstanding s (ackPathId l) (ackGeneration l))
include hl hc hnamed

theorem exec_acknowledgement_ignored (h : Calm s 2) (hnone : ∀ y ∈ s.notices.records, y.2.deferred = false) (hoff : named = false) :
    exec .acknowledgement s = .next (consumerTaken s rest c) := by
  have htaken : Calm (consumerTaken s rest c) 1 := h.consumerTaken_succ rest c
  refine exec_acknowledgement_none h hl hc (fun tail => settled_ackPath_ignored htaken _ tail ?_) htaken
    (by rwa [consumerTaken_records])
  rw [namesOutstanding_consumerTaken, ← hnamed]
  exact Bool.not_eq_true _ ▸ hoff

theorem exec_acknowledgement_idle (h : Calm s 2) (hnone : ∀ y ∈ s.notices.records, y.2.deferred = false) (hon : named = true)
    (hdue : (noticeRecord s (ackPathId l)).due = false) :
    exec .acknowledgement s = .next (ackIdle (consumerTaken s rest c) (ackPathId l)) := by
  have htaken : Calm (consumerTaken s rest c) 1 := h.consumerTaken_succ rest c
  have hdue' : (noticeRecord (consumerTaken s rest c) (ackPathId l)).due = false := by rwa [noticeRecord_consumerTaken]
  refine exec_acknowledgement_none h hl hc (fun tail => settled_ackPath_idle htaken _ tail ?_ (.inl hdue')) (htaken.ackIdle _)
    (none_deferred_setD (by rwa [consumerTaken_records]) _ hdue')
  rw [namesOutstanding_consumerTaken, ← hnamed]
  exact hon

/-- The PATH_STATE of a path with its due mark set is written again while the count stands (R180). -/
theorem exec_acknowledgement_again (h : Calm s 2) (hnone : ∀ y ∈ s.notices.records, y.2.deferred = false) (hon : named = true)
    (hdue : (noticeRecord s (ackPathId l)).due = true) (hcount : 1 ≤ (noticeRecord s (ackPathId l)).count)
    (hsame : c = s.notices.consumer) {w : Windows} (hw : s.decoder.windows = some w) (hroom : ringUsed s < w.noticeLines) :
    exec .acknowledgement s = .next (pathNotified w (consumerTaken s rest c) (ackPathId l)) := by
  have htaken : Calm (consumerTaken s rest c) (0 + 2) := (h.fewer (by simp [movedRefs, hsame])).consumerTaken rest
  have hopen : ringOpen (consumerTaken s rest c) = true := by
    rw [consumerTaken_eq, hsame]
    exact (ringOpen_iff s).2 ⟨w, hw, hroom, hnone⟩
  refine exec_acknowledgement_none h hl hc (fun tail => settled_ackPath_written htaken _ tail ?_ ?_ hopen ?_ ?_)
    (htaken.pathNotified w _) ?_
  · rw [namesOutstanding_consumerTaken, ← hnamed]
    exact hon
  · rw [consumerTaken_eq]
    exact hw
  · rwa [noticeRecord_consumerTaken]
  · rwa [noticeRecord_consumerTaken]
  · rw [pathNotified_records]
    exact none_deferred_setD (by rwa [consumerTaken_records]) _ rfl

/-- With the windows set the deferred notices are written after a count that moves, as far as the ring has room (R181). -/
theorem exec_acknowledgement_windows {w : Windows} (h : Calm s (2 * (deferredPaths s).length + 4)) (hw : s.decoder.windows = some w)
    (hlines : w.noticeLines ≤ 4096) (hsound : RecordsSound s.notices.records) :
    let t := pathAcknowledged w named (consumerTaken s rest c) (ackPathId l)
    exec .acknowledgement s = .next (if c = s.notices.consumer then t else drainedTo w (w.noticeLines - ringUsed t) t) := by
  have hw' : (consumerTaken s rest c).decoder.windows = some w := by rw [consumerTaken_eq]; exact hw
  have hsound' : RecordsSound (consumerTaken s rest c).notices.records := by rwa [consumerTaken_records]
  have hdeferred : deferredPaths (consumerTaken s rest c) = deferredPaths s := by rw [deferredPaths, consumerTaken_records]; rfl
  have htaken : Calm (consumerTaken s rest c) (1 + 2 * (deferredPaths (consumerTaken s rest c)).length + 2) :=
    Calm.consumerTaken_succ (h.fewer (by rw [hdeferred]; omega)) rest c
  refine exec_acknowledgement_drained h hl hc (fun tail => settled_ackPath hw' htaken hsound' ?_ _ tail)
    (htaken.pathAcknowledged w named _) (pathAcknowledged_windows hw' _ _) hlines (hsound'.pathAcknowledged w named _)
  rw [namesOutstanding_consumerTaken, hnamed]

end

/-- Settles O40: the count is dealt with, then the path's record, then the deferred notices. -/
theorem acknowledgementResult : Obligations.AcknowledgementResult := by
  refine ⟨fun s => decide_eq_true_iff, fun s l rest p x c named hcalm hl hp hx hc hnamed => ?_⟩
  subst hp hx
  intro moved noneDeferred
  have hignored := fun hnone : noneDeferred => exec_acknowledgement_ignored hl hc hnamed hcalm hnone
  have hidle := fun hnone : noneDeferred => exec_acknowledgement_idle hl hc hnamed hcalm hnone
  refine ⟨hignored, fun hnone hon hdue => ?_, fun hnone hquiet => ?_, fun hnone hon hdue hcount hsame w hw hroom => ?_,
    fun w hw hlines hasc hcounted hcalm' => ?_⟩
  · rw [hidle hnone hon hdue, ackIdle_consumerTaken]
    rfl
  · have hattention : ∀ v : State, v.notices.producer = s.notices.producer → v.notices.consumer = c →
        (v.attention = true ↔ c ≠ s.notices.producer) := fun v hproducer hconsumer => by
      rw [State.attention, decide_eq_true_iff, hproducer, hconsumer, ne_comm]
    cases named with
    | false => exact ⟨_, hignored hnone rfl, hattention _ (by rw [consumerTaken_eq]) (by rw [consumerTaken_eq])⟩
    | true =>
      refine ⟨_, hidle hnone rfl (by simpa using hquiet), hattention _ ?_ ?_⟩ <;> simp only [ackIdle, withRecord, consumerTaken_eq]
  · have hout : (noticeRecord s (ackPathId l)).outstanding = true := (hnamed.1 hon).2.1
    rw [exec_acknowledgement_again hl hc hnamed hcalm hnone hon hdue hcount hsame hw hroom, pathNotified, noticeRecord_consumerTaken,
      consumerTaken_eq, hsame, movedRefs, if_pos rfl]
    -- the record written says OUTSTANDING, which the path was already
    simp only [← hout]
    rfl
  · have hrecord := noticeRecord_consumerTaken s rest c (ackPathId l)
    refine (exec_acknowledgement_windows hl hc hnamed hcalm' hw hlines ⟨hasc, hcounted⟩).trans ?_
    simp only [pathAcknowledged, ackIdle, hrecord, consumerTaken_records]
    rfl

end Sys2Proof.Machine

/-!
PROOFS. The machine at its simplest: the front of the queue, unaligned transactions, the values and the laws at reset (O1, O3 to O5).
-/

namespace Sys2Proof.Machine

/-! ### The step and the ports (01, section 1.1) -/

/-- Settles O1: a queue that is not empty does not tick. -/
theorem stepRunsFrontCommand : Obligations.StepRunsFrontCommand := by
  intro s c rest hpending
  simp only [step, hpending]

theorem not_aligned_iff (a : Addr) : ¬ Addr.aligned a = true ↔ a.toNat % 64 ≠ 0 := by simp [Addr.aligned]

/-- Settles O3: both steps look at the address before the pin. -/
theorem unalignedTransactionStops : Obligations.UnalignedTransactionStops := by
  intro s w a tag
  exact ⟨fun hw => if_neg ((not_aligned_iff w.addr).2 hw), fun ha => if_neg ((not_aligned_iff a).2 ha)⟩

/-! ### The part at reset (R19, R20) -/

/-- Settles O4: the values stand in the definition of `State.reset`. -/
theorem resetValues : Obligations.ResetValues := by
  refine ⟨?control, ?stores, ?tables, ?paths, ?notices⟩
  all_goals
    and_intros
    all_goals rfl

theorem queueLaw_reset : QueueLaw State.reset := ⟨Nat.zero_le _, List.nodup_nil, fun _ => rfl⟩

theorem restorationLaw_reset : RestorationLaw State.reset := ⟨Table.ascending_nil, rfl⟩

theorem tableLaw_reset : TableLaw State.reset := (tableLaw_iff_tabled _).2 (tabled_assertReset State.reset)

theorem quiescent_reset : quiescent State.reset = true := by decide

/-- Settles O5: the queues and the tables are empty, and so is every operation. -/
theorem lawsHoldAtReset : Obligations.LawsHoldAtReset :=
  ⟨queueLaw_reset, boundLaw_reset, restorationLaw_reset, tableLaw_reset, quiescent_reset⟩

end Sys2Proof.Machine

/-!
PROOFS. The configuration over all commands (O12).
-/

namespace Sys2Proof.Machine

/-! ### What a command leaves of the configuration (R5, R20, R26, R36, R41) -/

/-- The anchor is as before, and so is each part of the configuration that `c` is not the command for. -/
structure ConfigurationKept (c : Instr) (s t : State) : Prop where
  anchor : t.decoder.anchor = s.decoder.anchor := by rfl
  windows : c ≠ .setWindows → t.decoder.windows = s.decoder.windows := by exact fun _ => rfl
  classes : c ≠ .loadClasses → t.profiles.classes = s.profiles.classes := by exact fun _ => rfl
  domains : c ≠ .profileInstallation → t.profiles.domains = s.profiles.domains := by exact fun _ => rfl
  holdTimeout : c ≠ .setTiming → t.control.holdTimeout = s.control.holdTimeout := by exact fun _ => rfl
  enables : c ≠ .setReporting → t.control.enables = s.control.enables := by exact fun _ => rfl

theorem ConfigurationKept.trans {c : Instr} {s t u : State} (h : ConfigurationKept c s t) (k : ConfigurationKept c t u) :
    ConfigurationKept c s u where
  anchor := k.anchor.trans h.anchor
  windows hc := (k.windows hc).trans (h.windows hc)
  classes hc := (k.classes hc).trans (h.classes hc)
  domains hc := (k.domains hc).trans (h.domains hc)
  holdTimeout hc := (k.holdTimeout hc).trans (h.holdTimeout hc)
  enables hc := (k.enables hc).trans (h.enables hc)

theorem SameSettings.configurationKept {s t : State} (h : SameSettings s t) (c : Instr) : ConfigurationKept c s t where
  anchor := congrArg Decoder.anchor h.decoder
  windows _ := congrArg Decoder.windows h.decoder
  classes _ := congrArg ProfileStore.classes h.profiles
  domains _ := congrArg ProfileStore.domains h.profiles
  holdTimeout _ := h.holdTimeout
  enables _ := h.enables

/-- What comes behind a change of the configuration keeps the settings, and so the change's bounds. -/
theorem ConfigurationKept.settings {c : Instr} {s t u : State} (h : ConfigurationKept c s t) (k : SameSettings t u) :
    ConfigurationKept c s u :=
  h.trans (k.configurationKept c)

section
variable {c : Instr} {s u : State}

theorem ConfigurationKept.launch (h : ConfigurationKept c s u) (t : Thread) (ops : List Op) :
    ConfigurationKept c s (launch u t ops) :=
  h.settings ((SameSettings.refl u).launch t ops)

theorem ConfigurationKept.performing (h : ConfigurationKept c s u) (r : Line) (items : List Op) :
    ConfigurationKept c s (performing u r items) :=
  h.settings (SameSettings.launch {} _ _)

theorem ConfigurationKept.finishRecord (h : ConfigurationKept c s u) (r : Line) (o : CmdOutcome) :
    ConfigurationKept c s (finishRecord u r o) :=
  h.settings (sameSettings_finishRecord u r o)

end

/-! ### The commands that set a part of it -/

theorem configurationKept_setWindows (s : State) (w : Windows) : ConfigurationKept .setWindows s (setWindows s w) where
  windows := absurd rfl

theorem configurationKept_installProfile (s : State) (d : Nat) (p : Profile) :
    ConfigurationKept .profileInstallation s (installProfile s d p) where
  domains := absurd rfl

theorem configurationKept_setReporting (s : State) (en : Enables) : ConfigurationKept .setReporting s (setReporting s en) where
  enables := absurd rfl

theorem configurationKept_runSetWindows (r : Line) (s : State) : ConfigurationKept .setWindows s (runSetWindows r s) := by
  unfold runSetWindows
  split
  · exact ConfigurationKept.finishRecord {} r _
  · split
    · exact ConfigurationKept.finishRecord {} r _
    · split
      · exact ConfigurationKept.finishRecord {} r _
      · exact (configurationKept_setWindows s _).performing r _

theorem configurationKept_installWaiting (s : State) : ConfigurationKept .profileInstallation s (installWaiting s) := by
  unfold installWaiting
  repeat' split
  · exact {}
  · exact (configurationKept_installProfile s _ _).settings ((sameSettings_setPhase _ _).trans (sameSettings_requestTopology _))
  · exact (sameSettings_completeCommand s _).configurationKept _
  · exact (configurationKept_installProfile s _ _).settings (sameSettings_completeCommand _ _)
  · exact {}

theorem configurationKept_runLoadClasses (r : Line) (s : State) : ConfigurationKept .loadClasses s (runLoadClasses r s) := by
  unfold runLoadClasses
  repeat' split
  · exact ConfigurationKept.finishRecord {} r _
  · exact ConfigurationKept.finishRecord {} r _
  · exact ConfigurationKept.finishRecord {} r _
  · exact ConfigurationKept.finishRecord { classes := absurd rfl } r _

theorem configurationKept_runSetTiming (r : Line) (s : State) : ConfigurationKept .setTiming s (runSetTiming r s) :=
  ConfigurationKept.finishRecord { holdTimeout := absurd rfl } r _

theorem configurationKept_runSetReporting (r : Line) (s : State) : ConfigurationKept .setReporting s (runSetReporting r s) := by
  unfold runSetReporting
  split
  · exact (configurationKept_setReporting s _).performing r _
  · exact (configurationKept_setReporting s _).finishRecord r _

/-! ### The commands that change the mode -/

theorem configurationKept_runStart (c : Instr) (r : Line) (s : State) : ConfigurationKept c s (runStart r s) := by
  unfold runStart
  split
  · exact ConfigurationKept.finishRecord {} r _
  · exact ConfigurationKept.performing {} r _

theorem configurationKept_stopIntake (c : Instr) (s : State) : ConfigurationKept c s (stopIntake s) := by
  unfold stopIntake
  split
  · exact ConfigurationKept.launch {} _ _
  · exact {}

theorem configurationKept_runStop (c : Instr) (r : Line) (s : State) : ConfigurationKept c s (runStop r s) := by
  unfold runStop
  split
  · exact ConfigurationKept.finishRecord {} r _
  · exact (ConfigurationKept.launch {} _ _).trans (configurationKept_stopIntake c _)

theorem configurationKept_endDrain (c : Instr) (s : State) : ConfigurationKept c s (endDrain s) := by
  unfold endDrain
  split
  · exact ConfigurationKept.launch {} _ _
  · exact {}

/-- RESTART keeps all of it (R36). -/
theorem configurationKept_runRestart (c : Instr) (r : Line) (s : State) : ConfigurationKept c s (runRestart r s) :=
  ConfigurationKept.launch {} _ _

/-! ### All commands -/

theorem exec_configurationKept {c : Instr} {s t : State} (hc : reach c ≠ .pin) (h : exec c s = .next t) :
    ConfigurationKept c s t := by
  have record : ∀ {p : Line → Bool} {f : Line → State → State}, (∀ r s, ConfigurationKept c s (f r s)) →
      live s (onRecord p f) = .next t → ConfigurationKept c s t :=
    fun hf => live_keeps {} (onRecord_keeps (fun _ _ k => k.configurationKept c) ConfigurationKept.trans hf)
  cases c with
  | resetAsserted | resetReleased straps => exact absurd rfl hc
  | setWindows => exact record configurationKept_runSetWindows h
  | profileInstallation => exact live_keeps {} configurationKept_installWaiting h
  | loadClasses => exact record configurationKept_runLoadClasses h
  | setTiming => exact record configurationKept_runSetTiming h
  | setReporting => exact record configurationKept_runSetReporting h
  | start => exact record (configurationKept_runStart _) h
  | stop => exact record (configurationKept_runStop _) h
  | drainEnd => exact live_keeps {} (configurationKept_endDrain _) h
  | restart => exact record (configurationKept_runRestart _) h
  | _ => exact (exec_sameSettings rfl h).configurationKept _

theorem reach_ne_pin {c : Instr} (hassert : c ≠ .resetAsserted) (hrelease : ∀ straps, c ≠ .resetReleased straps) :
    reach c ≠ .pin := by
  cases c with
  | resetAsserted => exact absurd rfl hassert
  | resetReleased straps => exact absurd rfl (hrelease straps)
  | _ => exact Reach.noConfusion

/-- Settles O12: each part of the configuration has one command, and every other one keeps it. -/
theorem configurationChangesOnlyBy : Obligations.ConfigurationChangesOnlyBy := by
  intro c s t h hassert hrelease
  obtain ⟨hanchor, hwindows, hclasses, hdomains, htimeout, henables⟩ := exec_configurationKept (reach_ne_pin hassert hrelease) h
  exact ⟨hanchor, hwindows, hclasses, hdomains, htimeout, henables⟩

end Sys2Proof.Machine

/-!
PROOFS. The arithmetic of profiles: the conversion of raw values into NU, and the slots of vendor masks and profiles (O59).
-/

namespace Sys2Proof.Machine

/-! ### Slot ranges (R39) -/

/-- The members of a slot range on the grid. -/
theorem getLsbD_slotRange {start width g : Nat} (hg : g < 80) :
    (slotRange start width).getLsbD g = true ↔ start ≤ g ∧ g < start + width := by
  have hones : (2 ^ width - 1).testBit (g - start) = decide (g - start < width) := Nat.testBit_two_pow_sub_one width (g - start)
  simp only [slotRange, BitVec.getLsbD_shiftLeft, BitVec.getLsbD_ofNat, hones, hg, decide_true, Bool.true_and, Bool.and_eq_true,
    Bool.not_eq_true', decide_eq_false_iff_not, decide_eq_true_eq]
  omega

/-! ### Conversion into NU (R49) -/

theorem convert_exact {p : Profile} (h : p.shift = 0) (raw : Nat) : convert p raw = min 65535 (raw * p.multiplier) := by
  simp only [convert, h, if_true, Config.opaqueNoise, Nat.min_comm]

theorem convert_rounded {p : Profile} (h : 0 < p.shift) (raw : Nat) :
    convert p raw = min 65535 ((raw * p.multiplier + 2 ^ (p.shift - 1)) / 2 ^ p.shift) := by
  simp only [convert, if_neg h.ne', Config.opaqueNoise, Nat.min_comm]

theorem convert_zero (p : Profile) : convert p 0 = 0 := by
  rcases Nat.eq_zero_or_pos p.shift with h | h
  · simp [convert_exact h]
  · have hhalf : 2 ^ (p.shift - 1) < 2 ^ p.shift := Nat.pow_lt_pow_right (by decide) (by omega)
    simp [convert_rounded h, Nat.div_eq_of_lt hhalf]

theorem convert_le_convert (p : Profile) {raw more : Nat} (h : raw ≤ more) : convert p raw ≤ convert p more := by
  have hproduct : raw * p.multiplier ≤ more * p.multiplier := Nat.mul_le_mul_right _ h
  rcases Nat.eq_zero_or_pos p.shift with hshift | hshift
  · rw [convert_exact hshift, convert_exact hshift]
    exact min_le_min_left _ hproduct
  · rw [convert_rounded hshift, convert_rounded hshift]
    exact min_le_min_left _ (Nat.div_le_div_right (Nat.add_le_add_right hproduct _))

/-! ### The slots of channels (R44 to R46) -/

theorem getLsbD_channelSlots {p : Profile} {v g : Nat} (hg : g < 80) : (channelSlots p v).getLsbD g = true ↔
    v < p.count ∧ p.base + v * p.stride ≤ g ∧ g < p.base + v * p.stride + p.stride := by
  unfold channelSlots
  split
  · next h => simp [getLsbD_slotRange hg, h]
  · next h => simp [h]

/-- A union built up by a fold has the members of its first set and of each further one. -/
theorem getLsbD_foldl_or {f : Nat → SlotSet} {vs : List Nat} {acc : SlotSet} {g : Nat} :
    (vs.foldl (fun acc v => acc ||| f v) acc).getLsbD g = true ↔ acc.getLsbD g = true ∨ ∃ v ∈ vs, (f v).getLsbD g = true := by
  induction vs generalizing acc with
  | nil => simp
  | cons v vs ih => simp [ih, BitVec.getLsbD_or, or_assoc]

theorem getLsbD_mapForeign {p : Profile} {m : BitVec 128} {g : Nat} (hg : g < 80) : (mapForeign p m).getLsbD g = true ↔
    ∃ v, v < 128 ∧ m.getLsbD v = true ∧ v < p.count ∧ p.base + v * p.stride ≤ g ∧ g < p.base + v * p.stride + p.stride := by
  rw [mapForeign, getLsbD_foldl_or]
  simp [maskChannels, getLsbD_channelSlots hg, and_assoc]

theorem getLsbD_capability {base stride count g : Nat} (hg : g < 80) :
    (capability base stride count).getLsbD g = true ↔ base ≤ g ∧ g < base + count * stride := by
  rw [capability, getLsbD_slotRange hg]
  omega

/-- Settles O59: the conversion is a quotient of exact numbers, and each slot set is a range of the grid or a union of ranges. -/
theorem profileArithmetic : Obligations.ProfileArithmetic := by
  refine ⟨fun p raw h => convert_exact h raw, fun p raw h => ⟨_, convert_rounded h raw, Nat.div_mul_le_self _ _, ?_⟩,
    fun p raw more => ⟨convert_zero p, convert_le_convert p⟩, fun p m g hg => getLsbD_mapForeign hg,
    fun l g _ hg => getLsbD_capability hg⟩
  rw [Nat.mul_comm (_ + 1)]
  exact Nat.lt_mul_div_succ _ (Nat.two_pow_pos _)

end Sys2Proof.Machine

/-!
PROOFS. The order of a search: the comparison of labels, the label extracted, and what relaxing a link does (O58).
-/

namespace Sys2Proof.Machine

/-! ### The comparison of labels (R124) -/

theorem lexLess_nil (ys : List Nat) : lexLess [] ys = false := rfl

theorem lexLess_cons (x y : Nat) (xs ys : List Nat) :
    lexLess (x :: xs) (y :: ys) = true ↔ x < y ∨ x = y ∧ lexLess xs ys = true := by
  simp [lexLess]

/-- A label's key comes before another's, whatever their nodes. -/
def Label.Less (byNoise : Bool) (a b : Label) : Prop := lexLess (a.key byNoise) (b.key byNoise) = true

/-- A label's key comes before another's or is the same. -/
def Label.AtMost (byNoise : Bool) (a b : Label) : Prop := ¬ b.Less byNoise a

/-- A label of a node comes before a label of another in the order of extraction: the node index decides last. -/
def Precedes (byNoise : Bool) (x y : Nat × Label) : Prop :=
  lexLess (x.2.key byNoise ++ [x.1]) (y.2.key byNoise ++ [y.1]) = true

theorem Label.less_noise (a b : Label) : a.Less true b ↔
    a.noise < b.noise ∨ a.noise = b.noise ∧ (a.cost < b.cost ∨ a.cost = b.cost ∧ a.hops < b.hops) := by
  simp [Label.Less, Label.key, lexLess_cons, lexLess_nil]

theorem Label.less_cost (a b : Label) : a.Less false b ↔
    a.cost < b.cost ∨ a.cost = b.cost ∧ (a.noise < b.noise ∨ a.noise = b.noise ∧ a.hops < b.hops) := by
  simp [Label.Less, Label.key, lexLess_cons, lexLess_nil]

theorem Label.key_eq_iff (byNoise : Bool) (a b : Label) :
    a.key byNoise = b.key byNoise ↔ a.cost = b.cost ∧ a.noise = b.noise ∧ a.hops = b.hops := by
  cases byNoise
  · simp [Label.key]
  · simp only [Label.key, if_true, List.cons.injEq, and_true]
    exact and_left_comm

theorem precedes_iff (byNoise : Bool) (x y : Nat × Label) : Precedes byNoise x y ↔
    x.2.Less byNoise y.2 ∨ x.2.key byNoise = y.2.key byNoise ∧ x.1 < y.1 := by
  rw [Label.key_eq_iff]
  cases byNoise
  · simp only [Precedes, Label.key, Bool.false_eq_true, if_false, List.cons_append, List.nil_append, lexLess_cons, lexLess_nil,
      Bool.false_eq_true, and_false, or_false, Label.less_cost]
    omega
  · simp only [Precedes, Label.key, if_true, List.cons_append, List.nil_append, lexLess_cons, lexLess_nil, Bool.false_eq_true,
      and_false, or_false, Label.less_noise]
    omega

section
variable {byNoise : Bool} {a b c : Label}

theorem Label.atMost_refl (byNoise : Bool) (a : Label) : a.AtMost byNoise a := by
  cases byNoise
  · simp [Label.AtMost, Label.less_cost]
  · simp [Label.AtMost, Label.less_noise]

theorem Label.AtMost.trans (hab : a.AtMost byNoise b) (hbc : b.AtMost byNoise c) : a.AtMost byNoise c := by
  cases byNoise
  · simp only [Label.AtMost, Label.less_cost] at *
    omega
  · simp only [Label.AtMost, Label.less_noise] at *
    omega

theorem Label.Less.atMost (h : a.Less byNoise b) : a.AtMost byNoise b := by
  cases byNoise
  · simp only [Label.AtMost, Label.less_cost] at *
    omega
  · simp only [Label.AtMost, Label.less_noise] at *
    omega

theorem Label.atMost_of_key_eq (h : a.key byNoise = b.key byNoise) : a.AtMost byNoise b := by
  unfold Label.AtMost Label.Less
  rw [h]
  exact Label.atMost_refl byNoise b

/-- Whether a label is final has no part in its key. -/
theorem Label.atMost_final (byNoise : Bool) (a : Label) (f : Bool) : Label.AtMost byNoise { a with final := f } a :=
  Label.atMost_of_key_eq rfl

theorem Label.atMost_final_right (byNoise : Bool) (a : Label) (f : Bool) : Label.AtMost byNoise a { a with final := f } :=
  Label.atMost_of_key_eq rfl

end

section
variable {byNoise : Bool} {x y z : Nat × Label}

theorem not_precedes_self (byNoise : Bool) (x : Nat × Label) : ¬ Precedes byNoise x x := by
  rw [precedes_iff]
  exact fun h => h.elim (Label.atMost_refl byNoise x.2) fun h => lt_irrefl _ h.2

theorem not_precedes_trans (hxy : ¬ Precedes byNoise y x) (hyz : ¬ Precedes byNoise z y) : ¬ Precedes byNoise z x := by
  rw [precedes_iff, Label.key_eq_iff] at *
  cases byNoise
  · simp only [Label.less_cost] at *
    omega
  · simp only [Label.less_noise] at *
    omega

theorem precedes_of_not (h : ¬ Precedes byNoise y x) (hne : y.1 ≠ x.1) : Precedes byNoise x y := by
  rw [precedes_iff, Label.key_eq_iff] at *
  cases byNoise
  · simp only [Label.less_cost] at *
    omega
  · simp only [Label.less_noise] at *
    omega

theorem Precedes.not_symm (h : Precedes byNoise x y) : ¬ Precedes byNoise y x :=
  fun h' => Bool.noConfusion ((lexLess_asymm h).symm.trans h')

theorem atMost_of_not_precedes (h : ¬ Precedes byNoise y x) : x.2.AtMost byNoise y.2 :=
  fun hless => h ((precedes_iff byNoise y x).2 (.inl hless))

end

/-! ### The label extracted (R124) -/

/-- The lesser of the best so far and a further label is one of the two, and neither comes before it. -/
theorem lesserLabel_cases (byNoise : Bool) (best : Option (Nat × Label)) {x : Nat × Label} (hx : x.2.final = false) :
    ∃ b, lesserLabel byNoise best x = some b ∧ (b = x ∨ best = some b) ∧ ¬ Precedes byNoise x b ∧
      ∀ c, best = some c → ¬ Precedes byNoise c b := by
  unfold lesserLabel
  rw [if_neg (by simp [hx])]
  cases best with
  | none => exact ⟨x, rfl, .inl rfl, not_precedes_self byNoise x, nofun⟩
  | some c =>
    dsimp only
    split
    · next hless => exact ⟨x, rfl, .inl rfl, not_precedes_self byNoise x, fun d hd => Option.some.inj hd ▸ Precedes.not_symm hless⟩
    · next hnot => exact ⟨c, rfl, .inr rfl, hnot, fun d hd => Option.some.inj hd ▸ not_precedes_self byNoise c⟩

/-- The fold that looks for the label to extract answers nothing only when every label is final, and else one that none precedes. -/
theorem foldl_lesserLabel (byNoise : Bool) (labels : Table Label) (best : Option (Nat × Label)) :
    (labels.foldl (lesserLabel byNoise) best = none ↔ best = none ∧ ∀ x ∈ labels, x.2.final = true) ∧
    ∀ b, labels.foldl (lesserLabel byNoise) best = some b → (best = some b ∨ b ∈ labels ∧ b.2.final = false) ∧
      (∀ c, best = some c → ¬ Precedes byNoise c b) ∧ ∀ x ∈ labels, x.2.final = false → ¬ Precedes byNoise x b := by
  induction labels generalizing best with
  | nil =>
    refine ⟨by simp, fun b hb => ⟨.inl hb, fun c hc => ?_, nofun⟩⟩
    exact Option.some.inj (hb.symm.trans hc) ▸ not_precedes_self byNoise b
  | cons x xs ih =>
    rw [List.foldl_cons]
    cases hx : x.2.final with
    | true =>
      have hsame : lesserLabel byNoise best x = best := if_pos hx
      rw [hsame]
      obtain ⟨hnone, hsome⟩ := ih best
      refine ⟨by simp [hnone, hx], fun b hb => ?_⟩
      obtain ⟨hin, hbest, hall⟩ := hsome b hb
      refine ⟨hin.imp_right fun h => ⟨List.mem_cons_of_mem x h.1, h.2⟩, hbest, fun y hy hopen => ?_⟩
      rcases List.mem_cons.1 hy with rfl | hy
      · exact absurd (hx.symm.trans hopen) (by decide)
      · exact hall y hy hopen
    | false =>
      obtain ⟨c, hc, hwhich, hxc, hbestc⟩ := lesserLabel_cases byNoise best hx
      rw [hc]
      obtain ⟨hnone, hsome⟩ := ih (some c)
      refine ⟨by simp [hnone, hx], fun b hb => ?_⟩
      obtain ⟨hin, hcb, hall⟩ := hsome b hb
      have hcb : ¬ Precedes byNoise c b := hcb c rfl
      refine ⟨?_, fun d hd => not_precedes_trans hcb (hbestc d hd), fun y hy hopen => ?_⟩
      · rcases hin with hbc | ⟨hmem, hopen⟩
        · obtain rfl : c = b := Option.some.inj hbc
          rcases hwhich with rfl | hbest
          · exact .inr ⟨List.mem_cons_self, hx⟩
          · exact .inl hbest
        · exact .inr ⟨List.mem_cons_of_mem x hmem, hopen⟩
      · rcases List.mem_cons.1 hy with rfl | hy
        · exact not_precedes_trans hcb hxc
        · exact hall y hy hopen

section
variable {byNoise : Bool} {labels : Table Label}

theorem nextExtracted_eq_none_iff : nextExtracted byNoise labels = none ↔ ∀ x ∈ labels, x.2.final = true := by
  rw [nextExtracted, (foldl_lesserLabel byNoise labels none).1]
  exact and_iff_right rfl

/-- The label extracted is not final, and no other that is not final comes before it. -/
theorem nextExtracted_least {b : Nat × Label} (h : nextExtracted byNoise labels = some b) :
    b ∈ labels ∧ b.2.final = false ∧ ∀ x ∈ labels, x.2.final = false → ¬ Precedes byNoise x b := by
  obtain ⟨hin, -, hall⟩ := (foldl_lesserLabel byNoise labels none).2 b h
  obtain ⟨hmem, hopen⟩ := hin.resolve_left nofun
  exact ⟨hmem, hopen, hall⟩

end

/-! ### Relaxing a link (R125, R126) -/

/-- An edge leads from node `u` to node `v`. -/
def Edge.Crosses (e : Edge) (u v : Nat) : Prop := e.a = u ∧ e.b = v ∨ e.b = u ∧ e.a = v

theorem Edge.Crosses.other {e : Edge} {u v : Nat} (h : e.Crosses u v) : e.other u = v := by
  unfold Edge.other
  rcases h with ⟨ha, hb⟩ | ⟨hb, ha⟩
  · rw [if_pos ha, hb]
  · split
    · next hau => rw [hb, ← hau, ha]
    · exact ha

theorem Edge.crosses_other {e : Edge} {u : Nat} (h : e.a = u ∨ e.b = u) : e.Crosses u (e.other u) := by
  unfold Edge.other
  split
  · next ha => exact .inl ⟨ha, rfl⟩
  · next ha => exact .inr ⟨h.resolve_left ha, rfl⟩

theorem Edge.Crosses.touches {e : Edge} {u v : Nat} (h : e.Crosses u v) : e.a = u ∨ e.b = u := h.imp And.left And.left

theorem Edge.Crosses.symm {e : Edge} {u v : Nat} (h : e.Crosses u v) : e.Crosses v u :=
  (Or.symm h).imp And.symm And.symm

/-- A label within the noise budget and the hop limit of the query (R125). -/
structure Accepted (q : Query) (l : Label) : Prop where
  noise : l.noise ≤ q.budget
  hops : l.hops ≤ q.inputs.hops

theorem accepted_iff {q : Query} {l : Label} : Accepted q l ↔ ¬ (q.budget < l.noise ∨ q.inputs.hops < l.hops) := by
  rw [not_or, not_lt, not_lt]
  exact ⟨fun h => ⟨h.noise, h.hops⟩, fun h => ⟨h.1, h.2⟩⟩

/-- The label that crossing an edge offers: the edge's cost, one hop, and the noise of that step of a walk. -/
theorem offered_eq {s : State} {q : Query} {u v : Nat} {e : Edge} (lu : Label) (h : e.Crosses u v)
    (hnu : (s.topology.links.get? e.link).map (·.attrs.nu) = some e.nu) : offered s q u lu e =
      { cost := lu.cost + e.cost
        noise := walkedNoise s q.src lu.noise [e.link] [u, v]
        hops := lu.hops + 1, pred := some e.link, final := false } := by
  simp only [offered, h.other, walkedNoise, hnu, Option.getD_some]

theorem replaces_iff (byNoise : Bool) (es : List Edge) (u v : Nat) (new old : Label) : replaces byNoise es u v new old = true ↔
    new.Less byNoise old ∨ new.key byNoise = old.key byNoise ∧ ∃ w, predNode es v old = some w ∧ u < w := by
  unfold replaces Label.Less
  cases predNode es v old <;> simp

section
variable {s : State} {q : Query} {byNoise : Bool} {es : List Edge} {u v : Nat} {lu : Label} {labels : Table Label} {e : Edge}

theorem relax_untouched (h : ¬ (e.a = u ∨ e.b = u)) : relax s q byNoise es u lu labels e = labels :=
  if_pos (not_or.1 h)

/-- What relaxing an edge does to the label of its other end. -/
theorem relax_eq (h : e.Crosses u v) : relax s q byNoise es u lu labels e =
    if q.budget < (offered s q u lu e).noise ∨ q.inputs.hops < (offered s q u lu e).hops then labels
    else match labels.get? v with
      | none => labels.set v (offered s q u lu e)
      | some old =>
        if old.final then labels
        else if replaces byNoise es u v (offered s q u lu e) old then labels.set v (offered s q u lu e) else labels := by
  have htouch : ¬ (e.a ≠ u ∧ e.b ≠ u) := by
    rw [← not_or, not_not]
    exact h.touches
  obtain rfl : e.other u = v := h.other
  exact if_neg htouch

theorem relax_rejected (h : e.Crosses u v) (hreject : ¬ Accepted q (offered s q u lu e)) :
    relax s q byNoise es u lu labels e = labels := by
  rw [relax_eq h, if_pos (not_not.1 (mt accepted_iff.2 hreject))]

section
variable (h : e.Crosses u v) (haccept : Accepted q (offered s q u lu e))
include h haccept

theorem relax_empty (hv : labels.get? v = none) :
    relax s q byNoise es u lu labels e = labels.set v (offered s q u lu e) := by
  rw [relax_eq h, if_neg (accepted_iff.1 haccept), hv]

theorem relax_final {old : Label} (hv : labels.get? v = some old) (hfinal : old.final = true) :
    relax s q byNoise es u lu labels e = labels := by
  rw [relax_eq h, if_neg (accepted_iff.1 haccept), hv]
  exact if_pos hfinal

theorem relax_open {old : Label} (hv : labels.get? v = some old) (hopen : old.final = false) :
    relax s q byNoise es u lu labels e =
      if replaces byNoise es u v (offered s q u lu e) old then labels.set v (offered s q u lu e) else labels := by
  rw [relax_eq h, if_neg (accepted_iff.1 haccept), hv]
  exact if_neg (by simp [hopen])

end

end

end Sys2Proof.Machine

/-!
PROOFS. The edges of a search are the usable links, and crossing one adds to a label (O58).
-/

namespace Sys2Proof.Machine

/-! ### Usable links (R120 to R122) -/

theorem countedReserved_eq (s : State) (q : Query) (k : Nat) : countedReserved s q k = reservedFor s q k := by
  simp only [countedReserved, reservedFor, List.contains_iff_mem]

/-- A link with its two end nodes passes every test for the query's class and a start slot (R120 to R122). -/
def LinkPasses (s : State) (q : Query) (start k : Nat) (l : LinkEntry) (a b : Nat) : Prop :=
  l.state = .up ∧ l.attrs.nu < 65535 ∧ k ∉ q.noLinks ∧ a ∉ q.noNodes ∧ b ∉ q.noNodes ∧
    slotsIn (slotRange start q.width) q.inputs.mask = true ∧ slotRange start q.width &&& l.attrs.foreign = 0 ∧
    slotRange start q.width &&& reservedFor s q k = 0 ∧ DomainTakes s q (slotRange start q.width) a ∧
    DomainTakes s q (slotRange start q.width) b

theorem usable_iff {s : State} {q : Query} {start k : Nat} : Usable s q start k ↔
    ∃ l a b, s.topology.links.get? k = some l ∧ linkNodes s l = some (a, b) ∧ LinkPasses s q start k l a b := Iff.rfl

theorem domainTakes_iff (s : State) (q : Query) (range : SlotSet) (n : Nat) :
    DomainTakes s q range n ↔ domainCarries s q range n = true ∧ transitOk s q n = true := by
  simp only [domainCarries, transitOk, Bool.and_eq_true, Bool.or_eq_true, beq_iff_eq, or_assoc]
  exact ⟨fun h => ⟨⟨h.slots, h.cls⟩, h.transit⟩, fun h => ⟨h.1.1, h.1.2, h.2⟩⟩

/-- The edge of a link between two nodes. -/
def edgeBetween (k : Nat) (l : LinkEntry) (a b : Nat) : Edge := { link := k, a, b, cost := l.attrs.cost, nu := l.attrs.nu }

theorem eligible_eq_some_iff {s : State} {q : Query} {start k : Nat} {l : LinkEntry} {e : Edge} :
    eligible s q start (k, l) = some e ↔
      ∃ a b, linkNodes s l = some (a, b) ∧ LinkPasses s q start k l a b ∧ edgeBetween k l a b = e := by
  unfold eligible
  cases linkNodes s l with
  | none => simp
  | some ends =>
    obtain ⟨a, b⟩ := ends
    have hpasses : (l.state == .up && decide (l.attrs.nu < Config.opaqueNoise) && !q.noLinks.contains k && !q.noNodes.contains a &&
        !q.noNodes.contains b && spectrumOk s q start k l a b && transitOk s q a && transitOk s q b) = true ↔
        LinkPasses s q start k l a b := by
      simp only [LinkPasses, domainTakes_iff, spectrumOk, slotsApart, countedReserved_eq, Bool.and_eq_true, Bool.not_eq_true',
        beq_iff_eq, decide_eq_true_eq, List.contains_eq_mem, decide_eq_false_iff_not]
      simp only [Config.opaqueNoise]
      tauto
    simp only [Option.some.injEq, Prod.mk.injEq]
    constructor
    · intro h
      split at h
      · next hp => exact ⟨a, b, ⟨rfl, rfl⟩, hpasses.1 hp, Option.some.inj h⟩
      · cases h
    · rintro ⟨a', b', ⟨rfl, rfl⟩, hp, rfl⟩
      exact if_pos (hpasses.2 hp)

/-- The edges of a search are the usable links, with their ends and attributes (R123). -/
theorem mem_eligibleEdges {s : State} (hlinks : s.topology.links.ascending) {q : Query} {start : Nat} {e : Edge} :
    e ∈ eligibleEdges s q start ↔ ∃ k l a b, s.topology.links.get? k = some l ∧ linkNodes s l = some (a, b) ∧
      LinkPasses s q start k l a b ∧ edgeBetween k l a b = e := by
  rw [eligibleEdges, List.mem_filterMap]
  constructor
  · rintro ⟨⟨k, l⟩, hmem, he⟩
    obtain ⟨a, b, hends, hpasses, rfl⟩ := eligible_eq_some_iff.1 he
    exact ⟨k, l, a, b, Table.get?_of_mem hlinks hmem, hends, hpasses, rfl⟩
  · rintro ⟨k, l, a, b, hget, hends, hpasses, rfl⟩
    exact ⟨(k, l), Table.get?_mem _ hget, eligible_eq_some_iff.2 ⟨a, b, hends, hpasses, rfl⟩⟩

/-- An edge shows a link of the table, its two ends and its attributes. -/
def ShowsLink (s : State) (e : Edge) : Prop :=
  ∃ l, s.topology.links.get? e.link = some l ∧ linkNodes s l = some (e.a, e.b) ∧ e = edgeBetween e.link l e.a e.b

section
variable {s : State} {e : Edge}

theorem showsLink_of_mem (hlinks : s.topology.links.ascending) {q : Query} {start : Nat} (he : e ∈ eligibleEdges s q start) :
    ShowsLink s e := by
  obtain ⟨k, l, a, b, hget, hends, -, rfl⟩ := (mem_eligibleEdges hlinks).1 he
  exact ⟨l, hget, hends, rfl⟩

theorem usable_of_mem (hlinks : s.topology.links.ascending) {q : Query} {start : Nat} (he : e ∈ eligibleEdges s q start) :
    Usable s q start e.link := by
  obtain ⟨k, l, a, b, hget, hends, hpasses, rfl⟩ := (mem_eligibleEdges hlinks).1 he
  exact ⟨l, a, b, hget, hends, hpasses⟩

namespace ShowsLink

theorem nu (h : ShowsLink s e) : (s.topology.links.get? e.link).map (·.attrs.nu) = some e.nu := by
  obtain ⟨l, hget, -, he⟩ := h
  rw [hget, he]
  rfl

theorem cost (h : ShowsLink s e) : ((s.topology.links.get? e.link).map (·.attrs.cost)).getD 0 = e.cost := by
  obtain ⟨l, hget, -, he⟩ := h
  rw [hget, he]
  rfl

/-- A link has one edge. -/
theorem eq_of_link {e' : Edge} (h : ShowsLink s e) (h' : ShowsLink s e') (hlink : e'.link = e.link) : e' = e := by
  obtain ⟨l, hget, hends, he⟩ := h
  obtain ⟨l', hget', hends', he'⟩ := h'
  obtain rfl : l = l' := Option.some.inj (hget.symm.trans (hlink ▸ hget'))
  obtain ⟨ha, hb⟩ := Prod.mk.inj (Option.some.inj (hends.symm.trans hends'))
  rw [he', he, hlink, ha, hb]

theorem edgeOf_eq {es : List Edge} (hes : ∀ e ∈ es, ShowsLink s e) (he : e ∈ es) : edgeOf es e.link = some e := by
  unfold edgeOf
  cases hfind : es.find? (fun x => x.link == e.link) with
  | none => exact absurd (List.find?_eq_none.1 hfind e he) (by simp)
  | some e' =>
    have hlink : e'.link = e.link := by simpa using List.find?_some hfind
    rw [(hes e he).eq_of_link (hes e' (List.mem_of_find?_eq_some hfind)) hlink]

/-- The link of an edge joins the two nodes that the edge leads between. -/
theorem joins (h : ShowsLink s e) {u v : Nat} (hcross : e.Crosses u v) :
    ∃ l, s.topology.links.get? e.link = some l ∧ (linkNodes s l = some (u, v) ∨ linkNodes s l = some (v, u)) := by
  obtain ⟨l, hget, hends, -⟩ := h
  refine ⟨l, hget, ?_⟩
  rw [hends]
  rcases hcross with ⟨rfl, rfl⟩ | ⟨rfl, rfl⟩
  · exact .inl rfl
  · exact .inr rfl

end ShowsLink

end

/-- A usable link that joins two nodes is an edge of the search between them. -/
theorem exists_edge_of_usable {s : State} (hlinks : s.topology.links.ascending) {q : Query} {start k u v : Nat} {l : LinkEntry}
    (husable : Usable s q start k) (hget : s.topology.links.get? k = some l)
    (hjoins : linkNodes s l = some (u, v) ∨ linkNodes s l = some (v, u)) :
    ∃ e ∈ eligibleEdges s q start, e.link = k ∧ e.Crosses u v := by
  obtain ⟨l', a, b, hget', hends, hpasses⟩ := usable_iff.1 husable
  obtain rfl : l = l' := Option.some.inj (hget.symm.trans hget')
  refine ⟨edgeBetween k l a b, (mem_eligibleEdges hlinks).2 ⟨k, l, a, b, hget, hends, hpasses, rfl⟩, rfl, ?_⟩
  rw [hends] at hjoins
  rcases hjoins with h | h
  · obtain ⟨rfl, rfl⟩ := Prod.mk.inj (Option.some.inj h)
    exact .inl ⟨rfl, rfl⟩
  · obtain ⟨rfl, rfl⟩ := Prod.mk.inj (Option.some.inj h)
    exact .inr ⟨rfl, rfl⟩

/-- The nodes of a link are nodes of ports in use. -/
theorem linkNodes_lt {s : State} {bound : Nat} (hports : ∀ x ∈ s.topology.ports, x.2.node < bound) {l : LinkEntry} {a b : Nat}
    (h : linkNodes s l = some (a, b)) : a < bound ∧ b < bound := by
  simp only [linkNodes, linkPorts_eq] at h
  split at h
  · next p p' hp =>
    obtain ⟨x, hx, hy⟩ := Option.bind_eq_some_iff.1 hp
    obtain ⟨y, hy, hxy⟩ := Option.map_eq_some_iff.1 hy
    obtain ⟨i, -, hi⟩ := Option.bind_eq_some_iff.1 hx
    obtain ⟨j, -, hj⟩ := Option.bind_eq_some_iff.1 hy
    obtain ⟨rfl, rfl⟩ := Prod.mk.inj hxy
    obtain ⟨rfl, rfl⟩ := Prod.mk.inj (Option.some.inj h)
    exact ⟨hports _ (Table.get?_mem _ hi), hports _ (Table.get?_mem _ hj)⟩
  · cases h

/-! ### The noise of a step (R53, R125) -/

section
variable {s : State} {q : Query} {u : Nat} {a b : Label} {e : Edge}

theorem offered_noise_le (h : a.noise ≤ b.noise) : (offered s q u a e).noise ≤ (offered s q u b e).noise := by
  simp only [offered, noiseAdd]
  split_ifs <;> omega

/-- Below saturation, what began with less noise has less after the step. -/
theorem offered_noise_lt (hsum : (offered s q u a e).noise < 65535) (h : a.noise < b.noise) :
    (offered s q u a e).noise < (offered s q u b e).noise := by
  simp only [offered, noiseAdd, Config.opaqueNoise] at *
  split_ifs at * <;> omega

theorem offered_noise_saturates (a : Label) : (offered s q u a e).noise ≤ 65535 := by
  simp only [offered, noiseAdd, Config.opaqueNoise]
  split_ifs <;> omega

theorem le_offered_noise (h : a.noise ≤ 65535) : a.noise ≤ (offered s q u a e).noise := by
  simp only [offered, noiseAdd, Config.opaqueNoise]
  split_ifs <;> omega

variable (byNoise : Bool)

/-- A step makes a label's key greater. -/
theorem less_offered (h : a.noise ≤ 65535) : a.Less byNoise (offered s q u a e) := by
  have hnoise := le_offered_noise (s := s) (q := q) (u := u) (e := e) h
  have hcost : a.cost ≤ (offered s q u a e).cost := Nat.le_add_right _ _
  have hhops : (offered s q u a e).hops = a.hops + 1 := rfl
  cases byNoise
  · rw [Label.less_cost]
    omega
  · rw [Label.less_noise]
    omega

/-- Nothing that a step offers is as good as the source's own label. -/
theorem not_offered_atMost_origin (f : Bool) : ¬ (offered s q u a e).AtMost byNoise { Label.origin with final := f } := by
  refine not_not.2 ?_
  have hhops : (offered s q u a e).hops = a.hops + 1 := rfl
  cases byNoise
  · simp only [Label.less_cost, Label.origin]
    omega
  · simp only [Label.less_noise, Label.origin]
    omega

end

end Sys2Proof.Machine

/-!
PROOFS. The rounds of a search: what one extraction leaves of the labels, and the route read back from them (O58).
-/

namespace Sys2Proof.Machine

/-! ### What relaxing links leaves (R126) -/

/-- What relaxing links of `es` from node `u` makes of the labels: a final label stays, one that is not final is kept or bettered, and
what is new was offered by `u` and accepted. -/
structure Relaxed (s : State) (q : Query) (byNoise : Bool) (es : List Edge) (u : Nat) (lu : Label) (t t' : Table Label) : Prop where
  ascending : t.ascending → t'.ascending
  kept : ∀ v l, t.get? v = some l → ∃ l', t'.get? v = some l' ∧ l'.AtMost byNoise l ∧ l'.final = l.final ∧
    (l.final = true → l' = l)
  source : ∀ v l', t'.get? v = some l' → t.get? v = some l' ∨
    (∃ e ∈ es, e.Crosses u v ∧ l' = offered s q u lu e ∧ Accepted q l') ∧ ∀ l, t.get? v = some l → l.final = false

section
variable {s : State} {q : Query} {byNoise : Bool} {es : List Edge} {u : Nat} {lu : Label}

theorem Relaxed.refl (t : Table Label) : Relaxed s q byNoise es u lu t t where
  ascending h := h
  kept _ l h := ⟨l, h, Label.atMost_refl byNoise l, rfl, fun _ => rfl⟩
  source _ _ h := .inl h

theorem Relaxed.trans {t t' t'' : Table Label} (h : Relaxed s q byNoise es u lu t t') (h' : Relaxed s q byNoise es u lu t' t'') :
    Relaxed s q byNoise es u lu t t'' where
  ascending ht := h'.ascending (h.ascending ht)
  kept v l hl := by
    obtain ⟨l', hl', hle, hfinal, hsame⟩ := h.kept v l hl
    obtain ⟨l'', hl'', hle', hfinal', hsame'⟩ := h'.kept v l' hl'
    exact ⟨l'', hl'', hle'.trans hle, hfinal'.trans hfinal, fun hf => (hsame' (hfinal.trans hf)).trans (hsame hf)⟩
  source v l hl := by
    rcases h'.source v l hl with hl | ⟨hnew, hopen⟩
    · exact h.source v l hl
    · refine .inr ⟨hnew, fun l₀ hl₀ => ?_⟩
      obtain ⟨l', hl', -, hfinal, -⟩ := h.kept v l₀ hl₀
      exact hfinal.symm.trans (hopen l' hl')

theorem relaxed_set {t : Table Label} {e : Edge} {v : Nat} (he : e ∈ es) (hcross : e.Crosses u v)
    (haccept : Accepted q (offered s q u lu e))
    (hold : ∀ l, t.get? v = some l → l.final = false ∧ (offered s q u lu e).AtMost byNoise l) :
    Relaxed s q byNoise es u lu t (t.set v (offered s q u lu e)) where
  ascending ht := Table.ascending_set ht _ _
  kept w l hl := by
    by_cases hw : w = v
    · subst hw
      obtain ⟨hopen, hle⟩ := hold l hl
      exact ⟨_, Table.get?_set_self t w _, hle, hopen.symm, fun hf => absurd (hopen.symm.trans hf) (by decide)⟩
    · exact ⟨l, (Table.get?_set_ne t _ hw).trans hl, Label.atMost_refl byNoise l, rfl, fun _ => rfl⟩
  source w l hl := by
    by_cases hw : w = v
    · subst hw
      obtain rfl : offered s q u lu e = l := Option.some.inj ((Table.get?_set_self t w _).symm.trans hl)
      exact .inr ⟨⟨e, he, hcross, rfl, haccept⟩, fun l hl => (hold l hl).1⟩
    · exact .inl ((Table.get?_set_ne t _ hw).symm.trans hl)

theorem atMost_of_replaces {v : Nat} {new old : Label} (h : replaces byNoise es u v new old = true) : new.AtMost byNoise old :=
  ((replaces_iff byNoise es u v new old).1 h).elim Label.Less.atMost fun h => Label.atMost_of_key_eq h.1

theorem atMost_of_not_replaces {v : Nat} {new old : Label} (h : ¬ replaces byNoise es u v new old = true) :
    old.AtMost byNoise new :=
  fun hless => h ((replaces_iff byNoise es u v new old).2 (.inl hless))

theorem relaxed_relax {e : Edge} (he : e ∈ es) (t : Table Label) :
    Relaxed s q byNoise es u lu t (relax s q byNoise es u lu t e) := by
  by_cases htouch : e.a = u ∨ e.b = u
  · have hcross := Edge.crosses_other htouch
    by_cases haccept : Accepted q (offered s q u lu e)
    · cases hget : t.get? (e.other u) with
      | none =>
        rw [relax_empty hcross haccept hget]
        exact relaxed_set he hcross haccept fun l hl => nomatch hget.symm.trans hl
      | some old =>
        cases hfinal : old.final with
        | true =>
          rw [relax_final hcross haccept hget hfinal]
          exact .refl t
        | false =>
          rw [relax_open hcross haccept hget hfinal]
          split
          · next hreplaces =>
            exact relaxed_set he hcross haccept fun l hl =>
              Option.some.inj (hget.symm.trans hl) ▸ ⟨hfinal, atMost_of_replaces hreplaces⟩
          · exact .refl t
    · rw [relax_rejected hcross haccept]
      exact .refl t
  · rw [relax_untouched htouch]
    exact .refl t

theorem relaxed_foldl {xs : List Edge} (hxs : ∀ e ∈ xs, e ∈ es) (t : Table Label) :
    Relaxed s q byNoise es u lu t (xs.foldl (relax s q byNoise es u lu) t) := by
  induction xs generalizing t with
  | nil => exact .refl t
  | cons e xs ih =>
    obtain ⟨he, hxs⟩ := List.forall_mem_cons.1 hxs
    exact (relaxed_relax he t).trans (ih hxs _)

/-- A link's other end, when it is not final, has a label as good as the one accepted. -/
theorem relax_offers {e : Edge} {v : Nat} (hcross : e.Crosses u v) (haccept : Accepted q (offered s q u lu e)) {t : Table Label}
    (hopen : ∀ l, t.get? v = some l → l.final = false) :
    ∃ l, (relax s q byNoise es u lu t e).get? v = some l ∧ l.AtMost byNoise (offered s q u lu e) := by
  have hnew := Table.get?_set_self t v (offered s q u lu e)
  cases hget : t.get? v with
  | none =>
    rw [relax_empty hcross haccept hget]
    exact ⟨_, hnew, Label.atMost_refl byNoise _⟩
  | some old =>
    rw [relax_open hcross haccept hget (hopen old hget)]
    split
    · exact ⟨_, hnew, Label.atMost_refl byNoise _⟩
    · next hkept => exact ⟨old, hget, atMost_of_not_replaces hkept⟩

/-- The same once every link of a list has been relaxed. -/
theorem foldl_relax_offers {xs : List Edge} (hxs : ∀ e ∈ xs, e ∈ es) {e : Edge} (he : e ∈ xs) {v : Nat} (hcross : e.Crosses u v)
    (haccept : Accepted q (offered s q u lu e)) {t : Table Label} (hopen : ∀ l, t.get? v = some l → l.final = false) :
    ∃ l, (xs.foldl (relax s q byNoise es u lu) t).get? v = some l ∧ l.AtMost byNoise (offered s q u lu e) := by
  induction xs generalizing t with
  | nil => cases he
  | cons x xs ih =>
    obtain ⟨hx, hrest⟩ := List.forall_mem_cons.1 hxs
    rw [List.foldl_cons]
    rcases List.mem_cons.1 he with rfl | he
    · obtain ⟨l, hl, hle⟩ := relax_offers (byNoise := byNoise) (es := es) hcross haccept hopen
      obtain ⟨l', hl', hle', -, -⟩ := (relaxed_foldl hrest (relax s q byNoise es u lu t e)).kept v l hl
      exact ⟨l', hl', hle'.trans hle⟩
    · refine ih hrest he fun l hl => ?_
      rcases (relaxed_relax (byNoise := byNoise) hx t).source v l hl with hl | ⟨⟨y, -, -, rfl, -⟩, -⟩
      · exact hopen l hl
      · rfl

end

/-! ### One extraction (R124) -/

/-- The labels once node `u` has been extracted. -/
def finalized (t : Table Label) (u : Nat) (lu : Label) : Table Label := t.set u { lu with final := true }

/-- The labels after the round that extracts node `u`. -/
def roundOf (s : State) (q : Query) (byNoise : Bool) (es : List Edge) (t : Table Label) (u : Nat) (lu : Label) : Table Label :=
  if mayExtend s q u then es.foldl (relax s q byNoise es u lu) (finalized t u lu) else finalized t u lu

section
variable {s : State} {q : Query} {byNoise : Bool} {es : List Edge} {t : Table Label} {u : Nat} {lu : Label}

theorem extractions_none (h : nextExtracted byNoise t = none) (fuel : Nat) : extractions s q byNoise es (fuel + 1) t = (t, false) := by
  rw [extractions, h]

theorem extractions_dst (h : nextExtracted byNoise t = some (u, lu)) (hdst : u = q.dst) (fuel : Nat) :
    extractions s q byNoise es (fuel + 1) t = (finalized t u lu, true) := by
  rw [extractions, h]
  exact if_pos hdst

theorem extractions_round (h : nextExtracted byNoise t = some (u, lu)) (hdst : u ≠ q.dst) (fuel : Nat) :
    extractions s q byNoise es (fuel + 1) t = extractions s q byNoise es fuel (roundOf s q byNoise es t u lu) := by
  rw [extractions, h]
  refine (if_neg hdst).trans ?_
  unfold roundOf
  split <;> rfl

theorem relaxed_roundOf : Relaxed s q byNoise es u lu (finalized t u lu) (roundOf s q byNoise es t u lu) := by
  unfold roundOf
  split
  · exact relaxed_foldl (fun _ h => h) _
  · exact .refl _

theorem get?_finalized_self : (finalized t u lu).get? u = some { lu with final := true } := Table.get?_set_self _ _ _

theorem get?_finalized_ne {v : Nat} (h : v ≠ u) : (finalized t u lu).get? v = t.get? v := Table.get?_set_ne _ _ h

theorem get?_of_finalized (hu : t.get? u = some lu) {v : Nat} {l : Label} (hv : (finalized t u lu).get? v = some l) :
    ∃ f, t.get? v = some { l with final := f } := by
  by_cases hvu : v = u
  · subst hvu
    obtain rfl := Option.some.inj (get?_finalized_self.symm.trans hv)
    exact ⟨lu.final, hu⟩
  · exact ⟨l.final, (get?_finalized_ne hvu).symm.trans hv⟩

theorem finalized_kept (hopen : lu.final = false) (hu : t.get? u = some lu) {v : Nat} {l : Label} (hv : t.get? v = some l)
    (hfinal : l.final = true) : (finalized t u lu).get? v = some l := by
  refine (get?_finalized_ne ?_).trans hv
  rintro rfl
  obtain rfl := Option.some.inj (hu.symm.trans hv)
  exact Bool.noConfusion (hopen.symm.trans hfinal)

/-- A label that a round changes was offered by a node that may be extended. -/
theorem roundOf_source {v : Nat} {l : Label} (h : (roundOf s q byNoise es t u lu).get? v = some l) :
    (finalized t u lu).get? v = some l ∨
      mayExtend s q u = true ∧ v ≠ u ∧ ∃ e ∈ es, e.Crosses u v ∧ l = offered s q u lu e ∧ Accepted q l := by
  rcases relaxed_roundOf.source v l h with hold | ⟨hnew, hopen⟩
  · exact .inl hold
  · by_cases hextend : mayExtend s q u = true
    · refine .inr ⟨hextend, ?_, hnew⟩
      rintro rfl
      exact Bool.noConfusion (hopen _ get?_finalized_self)
    · rw [roundOf, if_neg hextend] at h
      exact .inl h

/-- A final label stays as it is. -/
theorem roundOf_kept_final {v : Nat} {l : Label} (hv : (finalized t u lu).get? v = some l) (hfinal : l.final = true) :
    (roundOf s q byNoise es t u lu).get? v = some l := by
  obtain ⟨l', hl', -, -, hsame⟩ := (relaxed_roundOf (s := s) (q := q) (byNoise := byNoise) (es := es)).kept v l hv
  exact hsame hfinal ▸ hl'

end

/-! ### What every label of a search rests on (R125, R126) -/

/-- Every label but the source's is within the budget and the hop limit and was offered by a final node that may be extended. -/
structure Rooted (s : State) (q : Query) (es : List Edge) (t : Table Label) : Prop where
  ascending : t.ascending
  origin : ∃ f, t.get? q.src = some { Label.origin with final := f }
  reached : ∀ v l, t.get? v = some l → v ≠ q.src → Accepted q l ∧ ∃ e ∈ es, ∃ u lu, e.Crosses u v ∧ t.get? u = some lu ∧
    lu.final = true ∧ mayExtend s q u = true ∧ l = { offered s q u lu e with final := l.final }

/-- The labels a search begins with. -/
def firstLabels (q : Query) : Table Label := [(q.src, Label.origin)]

theorem get?_firstLabels {q : Query} {v : Nat} {l : Label} (h : (firstLabels q).get? v = some l) : v = q.src ∧ l = Label.origin := by
  simp only [firstLabels, Table.get?] at h
  split at h
  · next hv => exact ⟨hv.symm, (Option.some.inj h).symm⟩
  · cases h

theorem rooted_firstLabels (s : State) (q : Query) (es : List Edge) : Rooted s q es (firstLabels q) where
  ascending := by simp [firstLabels, Table.ascending]
  origin := ⟨false, by simp [firstLabels, Table.get?, Label.origin]⟩
  reached v l h hv := absurd (get?_firstLabels h).1 hv

namespace Rooted

variable {s : State} {q : Query} {byNoise : Bool} {es : List Edge} {t : Table Label} {u : Nat} {lu : Label}

/-- The label extracted stands in the table. -/
theorem get?_extracted (h : Rooted s q es t) (hnext : nextExtracted byNoise t = some (u, lu)) :
    t.get? u = some lu ∧ lu.final = false :=
  ⟨Table.get?_of_mem h.ascending (nextExtracted_least hnext).1, (nextExtracted_least hnext).2.1⟩

theorem finalized (h : Rooted s q es t) (hu : t.get? u = some lu) (hopen : lu.final = false) :
    Rooted s q es (finalized t u lu) where
  ascending := Table.ascending_set h.ascending _ _
  origin := by
    by_cases hsrc : q.src = u
    · obtain ⟨f, hf⟩ := h.origin
      obtain rfl := Option.some.inj (hu.symm.trans (hsrc ▸ hf))
      exact ⟨true, hsrc ▸ get?_finalized_self⟩
    · rw [get?_finalized_ne hsrc]
      exact h.origin
  reached v l hv hsrc := by
    obtain ⟨f, hf⟩ := get?_of_finalized hu hv
    obtain ⟨haccept, e, he, w, lw, hcross, hw, hfinal, hextend, hl⟩ := h.reached v _ hf hsrc
    refine ⟨⟨haccept.noise, haccept.hops⟩, e, he, w, lw, hcross, finalized_kept hopen hu hw hfinal, hfinal, hextend, ?_⟩
    exact congrArg (fun x : Label => { x with final := l.final }) hl

/-- A round keeps it. -/
theorem round (h : Rooted s q es t) (hnext : nextExtracted byNoise t = some (u, lu)) :
    Rooted s q es (roundOf s q byNoise es t u lu) := by
  obtain ⟨hu, hopen⟩ := h.get?_extracted hnext
  have hnow := h.finalized hu hopen
  refine ⟨relaxed_roundOf.ascending hnow.ascending, ?_, fun v l hv hsrc => ?_⟩
  · obtain ⟨f, hf⟩ := hnow.origin
    obtain ⟨l, hl, hle, -, -⟩ := (relaxed_roundOf (s := s) (q := q) (byNoise := byNoise) (es := es)).kept _ _ hf
    rcases roundOf_source hl with hold | ⟨-, -, e, -, -, rfl, -⟩
    · exact ⟨f, hl.trans (hold.symm.trans hf)⟩
    · exact absurd hle (not_offered_atMost_origin byNoise f)
  · rcases roundOf_source hv with hold | ⟨hextend, -, e, he, hcross, rfl, haccept⟩
    · obtain ⟨haccept, e, he, w, lw, hcross, hw, hfinal, hextend, hl⟩ := hnow.reached v l hold hsrc
      exact ⟨haccept, e, he, w, lw, hcross, roundOf_kept_final hw hfinal, hfinal, hextend, hl⟩
    · exact ⟨haccept, e, he, u, _, hcross, roundOf_kept_final get?_finalized_self rfl, rfl, hextend, rfl⟩

/-- So a search ends with such labels, and the destination has one when the search says that it was reached. -/
theorem extractions (h : Rooted s q es t) (fuel : Nat) : Rooted s q es (extractions s q byNoise es fuel t).1 ∧
    ((Machine.extractions s q byNoise es fuel t).2 = true →
      ∃ l, (Machine.extractions s q byNoise es fuel t).1.get? q.dst = some l) := by
  induction fuel generalizing t with
  | zero => exact ⟨h, nofun⟩
  | succ fuel ih =>
    cases hnext : nextExtracted byNoise t with
    | none =>
      rw [extractions_none hnext]
      exact ⟨h, nofun⟩
    | some x =>
      obtain ⟨u, lu⟩ := x
      by_cases hdst : u = q.dst
      · rw [extractions_dst hnext hdst]
        obtain ⟨hu, hopen⟩ := h.get?_extracted hnext
        exact ⟨h.finalized hu hopen, fun _ => ⟨{ lu with final := true }, hdst ▸ get?_finalized_self⟩⟩
      · rw [extractions_round hnext hdst]
        exact ih (h.round hnext)

end Rooted

/-! ### The route read back (R127) -/

section
variable {s : State} {ks : List Nat} {k u v : Nat} {ns : List Nat}

theorem joinsInOrder_snoc (h : joinsInOrder s ks (ns ++ [u]))
    (hk : ∃ l, s.topology.links.get? k = some l ∧ (linkNodes s l = some (u, v) ∨ linkNodes s l = some (v, u))) :
    joinsInOrder s (ks ++ [k]) (ns ++ [u, v]) := by
  induction ks generalizing ns with
  | nil =>
    match ns, h with
    | [], _ => exact ⟨hk, trivial⟩
    | [_], h => cases h
    | _ :: _ :: _, h => cases h
  | cons j js ih =>
    match ns, h with
    | [], h => cases h
    | [_], h => exact ⟨h.1, ih (ns := []) h.2⟩
    | _ :: b :: ns, h => exact ⟨h.1, ih (ns := b :: ns) h.2⟩

theorem walkedNoise_snoc (h : joinsInOrder s ks (ns ++ [u])) (src n : Nat) :
    walkedNoise s src n (ks ++ [k]) (ns ++ [u, v]) = walkedNoise s src (walkedNoise s src n ks (ns ++ [u])) [k] [u, v] := by
  induction ks generalizing ns n with
  | nil =>
    match ns, h with
    | [], _ => rfl
    | [_], h => cases h
    | _ :: _ :: _, h => cases h
  | cons j js ih =>
    match ns, h with
    | [], h => cases h
    | [_], h => exact ih (ns := []) h.2 _
    | _ :: b :: ns, h => exact ih (ns := b :: ns) h.2 _

theorem costOfLinks_snoc (s : State) (ks : List Nat) (k : Nat) : costOfLinks s (ks ++ [k]) =
    costOfLinks s ks + ((s.topology.links.get? k).map (·.attrs.cost)).getD 0 := by
  simp [costOfLinks]

end

/-- The links and the nodes, the last of them `v`, that a label of node `v` stands for. -/
structure Traced (s : State) (q : Query) (es : List Edge) (t : Table Label) (v : Nat) (l : Label) (links before : List Nat) :
    Prop where
  first : (before ++ [v]).head? = some q.src
  once : (before ++ [v]).Nodup
  joined : joinsInOrder s links (before ++ [v])
  noise : l.noise = walkedNoise s q.src 0 links (before ++ [v])
  cost : l.cost = costOfLinks s links
  hops : links.length = l.hops
  edges : ∀ k ∈ links, ∃ e ∈ es, e.link = k
  transit : ∀ n ∈ before, n ≠ q.src → (s.topology.nodes.get? n).map (·.transit) = some true
  labelled : ∀ n ∈ before ++ [v], ∃ ln, t.get? n = some ln ∧ ln.hops ≤ l.hops
  readBack : ∀ fuel acc, links.length < fuel → readBack es t fuel v acc = links ++ acc

section
variable {s : State} {q : Query} {es : List Edge} {t : Table Label} {u v : Nat} {l lu : Label} {links before : List Nat} {e : Edge}

theorem traced_origin {f : Bool} (h : t.get? q.src = some { Label.origin with final := f }) :
    Traced s q es t q.src { Label.origin with final := f } [] [] where
  first := rfl
  once := List.nodup_singleton _
  joined := trivial
  noise := rfl
  cost := rfl
  hops := rfl
  edges := nofun
  transit := nofun
  labelled n hn := ⟨_, List.mem_singleton.1 hn ▸ h, le_rfl⟩
  readBack
    | fuel + 1, acc, _ => by simp [Machine.readBack, h, Label.origin]

theorem transit_of_mayExtend (h : mayExtend s q u = true) (hsrc : u ≠ q.src) :
    (s.topology.nodes.get? u).map (·.transit) = some true := by
  unfold mayExtend at h
  cases hnode : s.topology.nodes.get? u with
  | none => simp [hnode, hsrc] at h
  | some n => simpa [hnode, hsrc] using h

/-- A label that an edge offered stands for one link more. -/
theorem Traced.snoc (hes : ∀ e ∈ es, ShowsLink s e) (he : e ∈ es) (hcross : e.Crosses u v) (hextend : mayExtend s q u = true)
    (hl : l = { offered s q u lu e with final := l.final }) (hv : t.get? v = some l)
    (h : Traced s q es t u lu links before) : Traced s q es t v l (links ++ [e.link]) (before ++ [u]) := by
  have hoffered := offered_eq (q := q) lu hcross (hes e he).nu
  have hhops : l.hops = lu.hops + 1 := congrArg Label.hops hl
  have hnodes : before ++ [u] ++ [v] = before ++ [u, v] := by simp
  exact
    { first := by
        have hfirst := h.first
        cases before <;> simpa using hfirst
      once := by
        refine List.nodup_append.2 ⟨h.once, List.nodup_singleton _, fun n hn m hm hnm => ?_⟩
        obtain ⟨ln, hln, hle⟩ := h.labelled n hn
        obtain rfl := Option.some.inj (hv.symm.trans (List.mem_singleton.1 hm ▸ hnm ▸ hln))
        omega
      joined := hnodes ▸ joinsInOrder_snoc h.joined ((hes e he).joins hcross)
      noise := by
        rw [hnodes, walkedNoise_snoc h.joined, ← h.noise]
        exact congrArg Label.noise (hl.trans (congrArg (fun x : Label => { x with final := l.final }) hoffered))
      cost := by
        rw [costOfLinks_snoc, (hes e he).cost, ← h.cost]
        exact congrArg Label.cost hl
      hops := by rw [List.length_append, h.hops, hhops]; rfl
      edges := fun k hk => (List.mem_append.1 hk).elim (h.edges k) fun hk => ⟨e, he, (List.mem_singleton.1 hk).symm⟩
      transit := fun n hn hsrc => (List.mem_append.1 hn).elim (fun hn => h.transit n hn hsrc) fun hn => by
        obtain rfl := List.mem_singleton.1 hn
        exact transit_of_mayExtend hextend hsrc
      labelled := fun n hn => (List.mem_append.1 hn).elim
        (fun hn => (h.labelled n hn).imp fun ln hln => ⟨hln.1, by omega⟩)
        fun hn => ⟨l, List.mem_singleton.1 hn ▸ hv, le_rfl⟩
      readBack := fun fuel acc hfuel => by
        obtain _ | fuel := fuel
        · cases hfuel
        · have hpred : (t.get? v).bind (·.pred) = some e.link := by
            rw [hv]
            exact congrArg Label.pred hl
          have hlength : links.length < fuel := by simpa using hfuel
          simp only [Machine.readBack, hpred, ShowsLink.edgeOf_eq hes he, hcross.symm.other]
          rw [h.readBack fuel (e.link :: acc) hlength, List.append_assoc]
          rfl }

/-- Every label of a search stands for a walk from the source. -/
theorem Rooted.exists_traced (h : Rooted s q es t) (hes : ∀ e ∈ es, ShowsLink s e) (hv : t.get? v = some l) :
    ∃ links before, Traced s q es t v l links before := by
  induction hops : l.hops using Nat.strong_induction_on generalizing v l with
  | _ n ih =>
    by_cases hsrc : v = q.src
    · obtain ⟨f, hf⟩ := h.origin
      obtain rfl := Option.some.inj (hf.symm.trans (hsrc ▸ hv))
      exact ⟨[], [], hsrc ▸ traced_origin hf⟩
    · obtain ⟨-, e, he, u, lu, hcross, hu, -, hextend, hl⟩ := h.reached v l hv hsrc
      have hhops : l.hops = lu.hops + 1 := congrArg Label.hops hl
      obtain ⟨links, before, htraced⟩ := ih lu.hops (by omega) hu rfl
      exact ⟨_, _, htraced.snoc hes he hcross hextend hl hv⟩

end

/-! ### The route of a search (R125, R127) -/

section
variable {s : State} {q : Query} {byNoise : Bool} {start : Nat} {r : Route}

/-- The labels a search leaves. -/
def finalLabels (s : State) (q : Query) (byNoise : Bool) (start : Nat) : Table Label :=
  (extractions s q byNoise (eligibleEdges s q start) 257 (firstLabels q)).1

/-- The route of a search is that of the destination's label. -/
theorem routeBy_eq_some_iff : routeBy s q byNoise start = some r ↔
    (extractions s q byNoise (eligibleEdges s q start) 257 (firstLabels q)).2 = true ∧
      ∃ l, (finalLabels s q byNoise start).get? q.dst = some l ∧ r =
        { cls := q.cls, start, width := q.width, cost := l.cost, noise := l.noise, hops := l.hops
          links := readBack (eligibleEdges s q start) (finalLabels s q byNoise start) 21 q.dst [] } := by
  change (if (extractions s q byNoise (eligibleEdges s q start) 257 (firstLabels q)).2 = true then _ else none) = some r ↔ _
  split
  · next hreached =>
    rw [Option.map_eq_some_iff]
    simp only [hreached, true_and, eq_comm (a := r)]
    rfl
  · next hnot => simp [hnot]

theorem rooted_finalLabels (s : State) (q : Query) (byNoise : Bool) (start : Nat) :
    Rooted s q (eligibleEdges s q start) (finalLabels s q byNoise start) :=
  ((rooted_firstLabels s q _).extractions 257).1

/-- A search's route keeps to the noise budget and the hop limit (R125, R128). -/
theorem routeBy_accepted (hends : q.src ≠ q.dst) (h : routeBy s q byNoise start = some r) :
    r.noise ≤ q.budget ∧ r.hops ≤ q.inputs.hops ∧ 1 ≤ r.hops := by
  obtain ⟨-, l, hl, rfl⟩ := routeBy_eq_some_iff.1 h
  obtain ⟨haccept, e, -, u, lu, -, -, -, -, hoffered⟩ := (rooted_finalLabels s q byNoise start).reached _ l hl hends.symm
  have hhops : l.hops = lu.hops + 1 := congrArg Label.hops hoffered
  exact ⟨haccept.noise, haccept.hops, by simp [hhops]⟩

/-- What a search answers is a route of its query, with the cost, the noise and the hops of its walk. -/
structure WalkOf (s : State) (q : Query) (start : Nat) (r : Route) (nodes : List Nat) : Prop where
  isRoute : IsRoute s q start r.links nodes
  cost : r.cost = costOfLinks s r.links
  noise : r.noise = walkedNoise s q.src 0 r.links nodes
  length : r.links.length = r.hops

theorem routeBy_walk (hlinks : s.topology.links.ascending) (hends : q.src ≠ q.dst) (hlimit : q.inputs.hops ≤ 20)
    (h : routeBy s q byNoise start = some r) : ∃ nodes, WalkOf s q start r nodes := by
  obtain ⟨-, hhops, -⟩ := routeBy_accepted hends h
  obtain ⟨-, l, hl, rfl⟩ := routeBy_eq_some_iff.1 h
  have hes : ∀ e ∈ eligibleEdges s q start, ShowsLink s e := fun e he => showsLink_of_mem hlinks he
  obtain ⟨links, before, htraced⟩ := (rooted_finalLabels s q byNoise start).exists_traced hes hl
  have hlength := htraced.hops
  have hread := (htraced.readBack 21 [] (by simp only at hhops; omega)).trans (List.append_nil links)
  refine ⟨before ++ [q.dst], ⟨htraced.first, by simp, htraced.once, ?_, ?_, ?_⟩, ?_, ?_, ?_⟩
  · exact hread ▸ htraced.joined
  · intro k hk
    obtain ⟨e, he, rfl⟩ := htraced.edges k (hread ▸ hk)
    exact usable_of_mem hlinks he
  · intro n hn hsrc hdst
    exact htraced.transit n ((List.mem_append.1 hn).resolve_right fun hn => hdst (List.mem_singleton.1 hn)) hsrc
  · exact htraced.cost.trans (congrArg _ hread.symm)
  · exact htraced.noise.trans (congrArg (walkedNoise s q.src 0 · _) hread.symm)
  · exact (congrArg _ hread).trans hlength

end

end Sys2Proof.Machine

/-!
PROOFS. What a search finds: the labels of its rounds are as good as any walk over usable links (O58).
-/

namespace Sys2Proof.Machine

/-! ### Labels and walks (R53, R128) -/

theorem le_noiseAdd {a : Nat} (b : Nat) (h : a ≤ 65535) : a ≤ noiseAdd a b := by
  simp only [noiseAdd, Config.opaqueNoise]
  omega

theorem noiseAdd_le (a b : Nat) : noiseAdd a b ≤ 65535 := Nat.min_le_right _ _

/-- A walk only gathers noise. -/
theorem le_walkedNoise (s : State) (src : Nat) {n : Nat} (h : n ≤ 65535) (ks ns : List Nat) : n ≤ walkedNoise s src n ks ns := by
  induction ks generalizing n ns with
  | nil => exact le_rfl
  | cons k ks ih =>
    match ns with
    | [] => exact le_rfl
    | [_] => exact le_rfl
    | a :: b :: ns =>
      simp only [walkedNoise]
      have hleave : n ≤ if a = src then n else noiseAdd n (((s.topology.nodes.get? a).map (·.penalty)).getD 0) := by
        split
        · exact le_rfl
        · exact le_noiseAdd _ h
      generalize (if a = src then n else noiseAdd n (((s.topology.nodes.get? a).map (·.penalty)).getD 0)) = leave at hleave ⊢
      have hcross : n ≤ noiseAdd leave (((s.topology.links.get? k).map (·.attrs.nu)).getD 0) := by
        simp only [noiseAdd, Config.opaqueNoise]
        omega
      have hsum := noiseAdd_le leave (((s.topology.links.get? k).map (·.attrs.nu)).getD 0)
      split
      · exact hcross.trans (ih hsum _)
      · exact hcross.trans ((le_noiseAdd _ hsum).trans (ih (noiseAdd_le _ _) _))

/-- What a label becomes along a walk: the costs and the noise of the walk, and a hop for each link. -/
def Label.along (s : State) (q : Query) (w : Label) (links nodes : List Nat) : Label :=
  { cost := w.cost + costOfLinks s links, noise := walkedNoise s q.src w.noise links nodes, hops := w.hops + links.length
    pred := none, final := false }

/-- A walk's first step is that of the label its first link offers. -/
theorem Label.along_cons {s : State} {q : Query} {w : Label} {e : Edge} {a b : Nat} {ks ns : List Nat} (hcross : e.Crosses a b)
    (he : ShowsLink s e) : w.along s q (e.link :: ks) (a :: b :: ns) = (offered s q a w e).along s q ks (b :: ns) := by
  have hcost : w.cost + costOfLinks s (e.link :: ks) = w.cost + e.cost + costOfLinks s ks := by
    rw [Nat.add_assoc, ← he.cost]
    rfl
  have hhops : w.hops + (e.link :: ks).length = w.hops + 1 + ks.length := by
    rw [List.length_cons]
    omega
  rw [offered_eq w hcross he.nu]
  unfold Label.along
  rw [hcost, hhops]
  rfl

/-- A label is as good as another for a search: by its whole key under COST, by noise alone under NOISE (R128). -/
def Label.AsGood (byNoise : Bool) (l w : Label) : Prop :=
  match byNoise with
  | true => l.noise ≤ w.noise
  | false => l.AtMost false w

section
variable {byNoise : Bool} {l l' w : Label}

theorem Label.AtMost.asGood (h : l'.AtMost byNoise l) (hgood : l.AsGood byNoise w) : l'.AsGood byNoise w := by
  cases byNoise with
  | false => exact AtMost.trans h hgood
  | true =>
    simp only [Label.AsGood, Label.AtMost, Label.less_noise] at *
    omega

theorem Label.AsGood.weaken {w' : Label} (h : l.AsGood byNoise w) (hcost : w.cost ≤ w'.cost) (hnoise : w.noise ≤ w'.noise)
    (hhops : w.hops ≤ w'.hops) : l.AsGood byNoise w' := by
  cases byNoise with
  | false =>
    simp only [Label.AsGood, Label.AtMost, Label.less_cost] at *
    omega
  | true => exact Nat.le_trans h hnoise

theorem Label.AsGood.along (h : l.AsGood byNoise w) (hw : w.noise ≤ 65535) (s : State) (q : Query) (ks ns : List Nat) :
    l.AsGood byNoise (w.along s q ks ns) :=
  h.weaken (Nat.le_add_right _ _) (le_walkedNoise s q.src hw ks ns) (Nat.le_add_right _ _)

theorem asGood_origin (byNoise : Bool) (f : Bool) (s : State) (q : Query) (ks ns : List Nat) :
    Label.AsGood byNoise { Label.origin with final := f } (Label.origin.along s q ks ns) := by
  have hstart : Label.AsGood byNoise { Label.origin with final := f } Label.origin := by
    cases byNoise with
    | false => exact Label.atMost_final false Label.origin f
    | true => exact le_rfl
  exact hstart.along (Nat.zero_le _) s q ks ns

variable {s : State} {q : Query} {u : Nat} {e : Edge}

/-- A step keeps a label as good as a walk's; under COST as long as its noise does not saturate. -/
theorem Label.AsGood.offered (h : l.AsGood byNoise w) (hsum : (offered s q u l e).noise < 65535) :
    (offered s q u l e).AsGood byNoise (offered s q u w e) := by
  cases byNoise with
  | true => exact offered_noise_le h
  | false =>
    have hle := offered_noise_le (s := s) (q := q) (u := u) (e := e) (a := l) (b := w)
    have hlt := offered_noise_lt (b := w) hsum
    have hcost : (Machine.offered s q u l e).cost = l.cost + e.cost ∧ (Machine.offered s q u w e).cost = w.cost + e.cost := ⟨rfl, rfl⟩
    have hhops : (Machine.offered s q u l e).hops = l.hops + 1 ∧ (Machine.offered s q u w e).hops = w.hops + 1 := ⟨rfl, rfl⟩
    simp only [Label.AsGood, Label.AtMost, Label.less_cost] at *
    omega

theorem Label.AsGood.offered_kept (h : l.AsGood byNoise w) (hw : w.noise ≤ 65535) :
    l.AsGood byNoise (Machine.offered s q u w e) :=
  h.weaken (Nat.le_add_right _ _) (le_offered_noise hw) (Nat.le_add_right _ _)

end

/-! ### The labels a search forms and rejects (R125, R128) -/

section
variable {s : State} {q : Query} {byNoise : Bool} {es : List Edge} {tooMuch : Label → Bool} {t : Table Label} {u : Nat} {lu : Label}

/-- No label that a round forms for a node not yet final is too much. -/
def RoundForms (s : State) (q : Query) (es : List Edge) (tooMuch : Label → Bool) (t : Table Label) (u : Nat) (lu : Label) : Prop :=
  ∀ e ∈ es, ∀ v, e.Crosses u v → (∀ l, (finalized t u lu).get? v = some l → l.final = false) →
    tooMuch (offered s q u lu e) = false

theorem formsLabel_round (hnext : nextExtracted byNoise t = some (u, lu)) (hdst : u ≠ q.dst) {fuel : Nat}
    (h : formsLabel s q byNoise es tooMuch (fuel + 1) t = false) :
    (mayExtend s q u = true → RoundForms s q es tooMuch t u lu) ∧
      formsLabel s q byNoise es tooMuch fuel (roundOf s q byNoise es t u lu) = false := by
  simp only [formsLabel, hnext, if_neg hdst] at h
  unfold roundOf
  split
  · next hextend =>
    rw [if_pos hextend, Bool.or_eq_false_iff, List.any_eq_false] at h
    refine ⟨fun _ e he v hcross hopen => ?_, h.2⟩
    have htouch : (e.a == u || e.b == u) = true := by simpa using hcross.touches
    have hnot : ((finalized t u lu).get? (e.other u)).map (·.final) ≠ some true := by
      rw [hcross.other]
      intro hfinal
      obtain ⟨l, hl, hlf⟩ := Option.map_eq_some_iff.1 hfinal
      exact Bool.noConfusion ((hopen l hl).symm.trans hlf)
    have hopen' : (((finalized t u lu).get? (e.other u)).map (·.final)).getD false = false := by
      cases hget : ((finalized t u lu).get? (e.other u)).map (·.final) with
      | none => rfl
      | some f => cases f with
        | false => rfl
        | true => exact absurd hget hnot
    have hany := h.1 e he
    simp only [finalized] at hopen'
    simpa [htouch, hopen'] using hany
  · next hextend =>
    rw [if_neg hextend] at h
    exact ⟨fun h' => absurd h' hextend, h⟩

end

/-! ### What the rounds of a search have settled (R124 to R126) -/

/-- Node `v` has been reached over a link that node `u` offered `new` on: its label is as good as that, or as that of `u`; under NOISE the
label offered may be above the budget instead. -/
def ReachedBy (q : Query) (byNoise : Bool) (t : Table Label) (v : Nat) (lu new : Label) : Prop :=
  byNoise = true ∧ q.budget < new.noise ∨
    ∃ lv, t.get? v = some lv ∧ (lv.AtMost byNoise lu ∨ new.noise ≤ q.budget ∧ lv.AtMost byNoise new)

/-- What holds between two rounds: no final label comes behind one that is not, every link of a final node that may be extended has been
crossed, and the destination is not final. -/
structure Settled (s : State) (q : Query) (byNoise : Bool) (es : List Edge) (t : Table Label) : Prop where
  order : ∀ a la b lb, t.get? a = some la → la.final = true → t.get? b = some lb → lb.final = false → la.AtMost byNoise lb
  crossed : ∀ u lu v e, t.get? u = some lu → lu.final = true → mayExtend s q u = true → e ∈ es → e.Crosses u v →
    ReachedBy q byNoise t v lu (offered s q u lu e)
  dstOpen : ∀ l, t.get? q.dst = some l → l.final = false
  bounded : ∀ v l, t.get? v = some l → v < 256

theorem settled_firstLabels {s : State} {q : Query} (hsrc : q.src < 256) (byNoise : Bool) (es : List Edge) :
    Settled s q byNoise es (firstLabels q) := by
  have hopen : ∀ v l, (firstLabels q).get? v = some l → l.final = false := fun v l h => (get?_firstLabels h).2 ▸ rfl
  exact
    { order := fun a la _ _ ha hfinal => Bool.noConfusion ((hopen a la ha).symm.trans hfinal)
      crossed := fun u lu _ _ hu hfinal => Bool.noConfusion ((hopen u lu hu).symm.trans hfinal)
      dstOpen := hopen q.dst
      bounded := fun v l h => (get?_firstLabels h).1 ▸ hsrc }

section
variable {s : State} {q : Query} {byNoise : Bool} {es : List Edge} {t : Table Label} {u : Nat} {lu : Label}

theorem Rooted.noise_le (h : Rooted s q es t) {v : Nat} {l : Label} (hv : t.get? v = some l) : l.noise ≤ q.budget := by
  by_cases hsrc : v = q.src
  · obtain ⟨f, hf⟩ := h.origin
    obtain rfl := Option.some.inj (hf.symm.trans (hsrc ▸ hv))
    exact Nat.zero_le _
  · exact (h.reached v l hv hsrc).1.noise

/-- A round keeps or betters every label. -/
theorem roundOf_kept (hu : t.get? u = some lu) {v : Nat} {l : Label} (hv : t.get? v = some l) :
    ∃ l', (roundOf s q byNoise es t u lu).get? v = some l' ∧ l'.AtMost byNoise l := by
  have hnow : ∃ l', (finalized t u lu).get? v = some l' ∧ l'.AtMost byNoise l := by
    by_cases hvu : v = u
    · subst hvu
      obtain rfl := Option.some.inj (hu.symm.trans hv)
      exact ⟨_, get?_finalized_self, Label.atMost_final byNoise lu true⟩
    · exact ⟨l, (get?_finalized_ne hvu).trans hv, Label.atMost_refl byNoise l⟩
  obtain ⟨l', hl', hle⟩ := hnow
  obtain ⟨l'', hl'', hle', -, -⟩ := relaxed_roundOf.kept v l' hl'
  exact ⟨l'', hl'', hle'.trans hle⟩

/-- A label final after a round is the one extracted or was final before it. -/
theorem roundOf_final {v : Nat} {l : Label} (hv : (roundOf s q byNoise es t u lu).get? v = some l) (hfinal : l.final = true) :
    v = u ∧ l = { lu with final := true } ∨ v ≠ u ∧ t.get? v = some l := by
  rcases roundOf_source hv with hold | ⟨-, -, e, -, -, rfl, -⟩
  · by_cases hvu : v = u
    · subst hvu
      exact .inl ⟨rfl, (Option.some.inj (get?_finalized_self.symm.trans hold)).symm⟩
    · exact .inr ⟨hvu, (get?_finalized_ne hvu).symm.trans hold⟩
  · cases hfinal

/-- A label not final after a round was so before it, or was offered in it. -/
theorem roundOf_open {v : Nat} {l : Label} (hv : (roundOf s q byNoise es t u lu).get? v = some l) (hopen : l.final = false) :
    v ≠ u ∧ (t.get? v = some l ∨ ∃ e ∈ es, e.Crosses u v ∧ l = offered s q u lu e) := by
  rcases roundOf_source hv with hold | ⟨-, hne, e, he, hcross, hl, -⟩
  · have hne : v ≠ u := by
      rintro rfl
      obtain rfl := Option.some.inj (get?_finalized_self.symm.trans hold)
      cases hopen
    exact ⟨hne, .inl ((get?_finalized_ne hne).symm.trans hold)⟩
  · exact ⟨hne, .inr ⟨e, he, hcross, hl⟩⟩

section
variable (hroot : Rooted s q es t) (hnext : nextExtracted byNoise t = some (u, lu))
include hroot hnext

/-- No label that a round leaves not final comes before the one extracted. -/
theorem extracted_atMost_open (hbudget : q.budget < 65535) {v : Nat} {l : Label}
    (hv : (roundOf s q byNoise es t u lu).get? v = some l) (hopen : l.final = false) : lu.AtMost byNoise l := by
  obtain ⟨-, hold | ⟨e, -, -, rfl⟩⟩ := roundOf_open hv hopen
  · exact atMost_of_not_precedes (x := (u, lu)) (y := (v, l))
      ((nextExtracted_least hnext).2.2 (v, l) (Table.get?_mem _ hold) hopen)
  · exact (less_offered byNoise ((hroot.noise_le (hroot.get?_extracted hnext).1).trans hbudget.le)).atMost

/-- No label that is final after a round comes behind the one extracted. -/
theorem final_atMost_extracted (h : Settled s q byNoise es t) {v : Nat} {l : Label}
    (hv : (roundOf s q byNoise es t u lu).get? v = some l) (hfinal : l.final = true) : l.AtMost byNoise lu := by
  obtain ⟨hu, hopen⟩ := hroot.get?_extracted hnext
  rcases roundOf_final hv hfinal with ⟨-, rfl⟩ | ⟨-, hold⟩
  · exact Label.atMost_final byNoise lu true
  · exact h.order v l u lu hold hfinal hu hopen

/-- A round crosses every link of the node it extracts. -/
theorem roundOf_reaches (h : Settled s q byNoise es t) {tooMuch : Label → Bool}
    (hmuch : ∀ l, ¬ Accepted q l → tooMuch l = true ∨ byNoise = true ∧ q.budget < l.noise)
    (hforms : RoundForms s q es tooMuch t u lu) (hextend : mayExtend s q u = true) {v : Nat} {e : Edge} (he : e ∈ es)
    (hcross : e.Crosses u v) : ReachedBy q byNoise (roundOf s q byNoise es t u lu) v lu (offered s q u lu e) := by
  by_cases hfinal : ∃ l, (finalized t u lu).get? v = some l ∧ l.final = true
  · obtain ⟨l, hl, hlf⟩ := hfinal
    have hkept := roundOf_kept_final (s := s) (q := q) (byNoise := byNoise) (es := es) hl hlf
    exact .inr ⟨l, hkept, .inl (final_atMost_extracted hroot hnext h hkept hlf)⟩
  · have hopen : ∀ l, (finalized t u lu).get? v = some l → l.final = false := fun l hl =>
      Bool.eq_false_iff.2 fun hlf => hfinal ⟨l, hl, hlf⟩
    by_cases haccept : Accepted q (offered s q u lu e)
    · obtain ⟨l, hl, hle⟩ := foldl_relax_offers (byNoise := byNoise) (fun _ h => h) he hcross haccept hopen
      rw [roundOf, if_pos hextend]
      exact .inr ⟨l, hl, .inr ⟨haccept.noise, hle⟩⟩
    · refine .inl ((hmuch _ haccept).resolve_left ?_)
      rw [hforms e he v hcross hopen]
      decide

/-- A round that extracts another node than the destination keeps what is settled. -/
theorem Settled.round (h : Settled s q byNoise es t) (hdst : u ≠ q.dst) (hbudget : q.budget < 65535)
    (hends : ∀ e ∈ es, e.a < 256 ∧ e.b < 256) {tooMuch : Label → Bool}
    (hmuch : ∀ l, ¬ Accepted q l → tooMuch l = true ∨ byNoise = true ∧ q.budget < l.noise)
    (hforms : mayExtend s q u = true → RoundForms s q es tooMuch t u lu) :
    Settled s q byNoise es (roundOf s q byNoise es t u lu) := by
  obtain ⟨hu, -⟩ := hroot.get?_extracted hnext
  refine ⟨fun a la b lb ha hfinal hb hopen => ?_, fun a la v e ha hfinal hextend he hcross => ?_, fun l hl => ?_, fun v l hv => ?_⟩
  · exact (final_atMost_extracted hroot hnext h ha hfinal).trans (extracted_atMost_open hroot hnext hbudget hb hopen)
  · rcases roundOf_final ha hfinal with ⟨rfl, rfl⟩ | ⟨-, hold⟩
    · refine (roundOf_reaches hroot hnext h hmuch (hforms hextend) hextend he hcross).imp_right ?_
      rintro ⟨lv, hlv, hle⟩
      exact ⟨lv, hlv, hle.imp_left fun hle => hle.trans (Label.atMost_final_right byNoise lu true)⟩
    · refine (h.crossed a la v e hold hfinal hextend he hcross).imp_right ?_
      rintro ⟨lv, hlv, hle⟩
      obtain ⟨lv', hlv', hle'⟩ := roundOf_kept (s := s) (q := q) (byNoise := byNoise) (es := es) hu hlv
      exact ⟨lv', hlv', hle.imp hle'.trans (And.imp_right hle'.trans)⟩
  · by_contra hfinal
    rcases roundOf_final hl (Bool.not_eq_false _ ▸ hfinal) with ⟨heq, -⟩ | ⟨-, hold⟩
    · exact hdst heq.symm
    · exact hfinal (h.dstOpen l hold)
  · rcases roundOf_source hv with hold | ⟨-, -, e, he, hcross, -⟩
    · obtain ⟨f, hf⟩ := get?_of_finalized hu hold
      exact h.bounded v _ hf
    · obtain ⟨ha, hb⟩ := hends e he
      rcases hcross with ⟨-, rfl⟩ | ⟨-, rfl⟩
      · exact hb
      · exact ha

end

/-- The nodes a search may still extract. -/
def openNodes (t : Table Label) : Finset Nat := (Finset.range 256).filter fun n => (t.get? n).map (·.final) ≠ some true

/-- A round leaves one node less to extract. -/
theorem card_openNodes_round (hroot : Rooted s q es t) (h : Settled s q byNoise es t)
    (hnext : nextExtracted byNoise t = some (u, lu)) :
    (openNodes (roundOf s q byNoise es t u lu)).card < (openNodes t).card := by
  obtain ⟨hu, hopen⟩ := hroot.get?_extracted hnext
  refine Finset.card_lt_card (Finset.ssubset_iff_of_subset (fun n hn => ?_) |>.2 ⟨u, ?_, ?_⟩)
  · simp only [openNodes, Finset.mem_filter] at hn ⊢
    refine ⟨hn.1, fun hfinal => hn.2 ?_⟩
    obtain ⟨l, hl, hlf⟩ := Option.map_eq_some_iff.1 hfinal
    rw [roundOf_kept_final (finalized_kept hopen hu hl hlf) hlf]
    exact congrArg some hlf
  · simp [openNodes, h.bounded u lu hu, hu, hopen]
  · have hfinal := roundOf_kept_final (s := s) (q := q) (byNoise := byNoise) (es := es)
      (get?_finalized_self (t := t) (u := u) (lu := lu)) rfl
    simp [openNodes, hfinal]

/-! ### A route that there is (R128) -/

/-- A step of a walk from a final node leads to a node whose label is as good as the walk. -/
theorem Settled.exists_step (h : Settled s q byNoise es t) (hbudget : q.budget < 65535) {a b : Nat} {la w : Label} {e : Edge}
    (ha : t.get? a = some la) (hfinal : la.final = true) (hextend : mayExtend s q a = true) (he : e ∈ es) (hcross : e.Crosses a b)
    (hgood : la.AsGood byNoise w) (hw : w.noise ≤ 65535) (hnoise : byNoise = true → (offered s q a w e).noise ≤ q.budget) :
    ∃ lb, t.get? b = some lb ∧ lb.AsGood byNoise (offered s q a w e) := by
  rcases h.crossed a la b e ha hfinal hextend he hcross with ⟨rfl, habove⟩ | ⟨lb, hlb, hle | ⟨hsum, hle⟩⟩
  · exact absurd ((offered_noise_le hgood).trans (hnoise rfl)) (not_le.2 habove)
  · exact ⟨lb, hlb, hle.asGood (hgood.offered_kept hw)⟩
  · exact ⟨lb, hlb, hle.asGood (hgood.offered (hsum.trans_lt hbudget))⟩

theorem mayExtend_of_transit {n : Nat} (h : n ≠ q.src → (s.topology.nodes.get? n).map (·.transit) = some true) :
    mayExtend s q n = true := by
  unfold mayExtend
  by_cases hsrc : n = q.src
  · simp [hsrc]
  · simp [h hsrc]

/-- A walk from a final node to the destination meets a node that is not final, with a label as good as the walk. -/
theorem Settled.exists_open (h : Settled s q byNoise es t) (hbudget : q.budget < 65535) (hes : ∀ e ∈ es, ShowsLink s e)
    {ks ns : List Nat} {a : Nat} {la w : Label} (hjoined : joinsInOrder s ks (a :: ns))
    (hedge : ∀ k ∈ ks, ∀ u v l, s.topology.links.get? k = some l → linkNodes s l = some (u, v) ∨ linkNodes s l = some (v, u) →
      ∃ e ∈ es, e.link = k ∧ e.Crosses u v)
    (hlast : (a :: ns).getLast? = some q.dst)
    (htransit : ∀ n ∈ a :: ns, n ≠ q.src → n ≠ q.dst → (s.topology.nodes.get? n).map (·.transit) = some true)
    (ha : t.get? a = some la) (hfinal : la.final = true) (hgood : la.AsGood byNoise w) (hw : w.noise ≤ 65535)
    (hnoise : byNoise = true → (w.along s q ks (a :: ns)).noise ≤ q.budget) :
    ∃ b lb, t.get? b = some lb ∧ lb.final = false ∧ lb.AsGood byNoise (w.along s q ks (a :: ns)) := by
  have hdst : a ≠ q.dst := by
    rintro rfl
    exact Bool.noConfusion ((h.dstOpen la ha).symm.trans hfinal)
  induction ks generalizing a ns la w with
  | nil =>
    match ns, hjoined with
    | [], _ => exact absurd (Option.some.inj hlast) hdst
    | _ :: _, hjoined => cases hjoined
  | cons k ks ih =>
    match ns, hjoined with
    | [], hjoined => cases hjoined
    | b :: ns, ⟨⟨l, hl, hends⟩, htail⟩ =>
      obtain ⟨e, he, rfl, hcross⟩ := hedge k List.mem_cons_self a b l hl hends
      rw [Label.along_cons hcross (hes e he)] at hnoise ⊢
      have hstep := offered_noise_saturates (s := s) (q := q) (u := a) (e := e) w
      have hextend := mayExtend_of_transit fun hsrc => htransit a List.mem_cons_self hsrc hdst
      obtain ⟨lb, hlb, hbgood⟩ := h.exists_step hbudget ha hfinal hextend he hcross hgood hw fun hn =>
        (le_walkedNoise s q.src hstep ks (b :: ns)).trans (hnoise hn)
      cases hbfinal : lb.final with
      | false => exact ⟨b, lb, hlb, hbfinal, hbgood.along hstep s q ks (b :: ns)⟩
      | true =>
        refine ih htail (fun k hk => hedge k (List.mem_cons_of_mem _ hk)) hlast
          (fun n hn => htransit n (List.mem_cons_of_mem a hn)) hlb hbfinal hbgood hstep hnoise ?_
        rintro rfl
        exact Bool.noConfusion ((h.dstOpen lb hlb).symm.trans hbfinal)

end

/-! ### The search finds a route as good as any (R128) -/

section
variable {s : State} {q : Query} {byNoise : Bool} {start : Nat} {links nodes : List Nat} (hlinks : s.topology.links.ascending)
  (hports : ∀ x ∈ s.topology.ports, x.2.node < 256) (hbudget : q.budget < 65535) (hroute : IsRoute s q start links nodes)
  (hnoise : byNoise = true → walkedNoise s q.src 0 links nodes ≤ q.budget)
include hlinks hbudget hroute hnoise

/-- Between two rounds there is a label to extract that is as good as the route. -/
theorem exists_open_as_good {t : Table Label} (hroot : Rooted s q (eligibleEdges s q start) t)
    (h : Settled s q byNoise (eligibleEdges s q start) t) :
    ∃ b lb, t.get? b = some lb ∧ lb.final = false ∧ lb.AsGood byNoise (Label.origin.along s q links nodes) := by
  obtain ⟨f, hf⟩ := hroot.origin
  have hgood := asGood_origin byNoise f s q links nodes
  cases f with
  | false => exact ⟨q.src, _, hf, rfl, hgood⟩
  | true =>
    obtain ⟨rest, rfl⟩ : ∃ rest, nodes = q.src :: rest := List.head?_eq_some_iff.1 hroute.first
    exact h.exists_open hbudget (fun e he => showsLink_of_mem hlinks he) hroute.joined
      (fun k hk u v l hl hends => exists_edge_of_usable hlinks (hroute.usable k hk) hl hends) hroute.last hroute.transit hf rfl
      (asGood_origin byNoise true s q [] []) (Nat.zero_le _) hnoise

include hports

theorem extractions_find {tooMuch : Label → Bool}
    (hmuch : ∀ l, ¬ Accepted q l → tooMuch l = true ∨ byNoise = true ∧ q.budget < l.noise) {fuel : Nat} {t : Table Label}
    (hroot : Rooted s q (eligibleEdges s q start) t) (h : Settled s q byNoise (eligibleEdges s q start) t)
    (hforms : formsLabel s q byNoise (eligibleEdges s q start) tooMuch fuel t = false) (hfuel : (openNodes t).card < fuel) :
    (extractions s q byNoise (eligibleEdges s q start) fuel t).2 = true ∧
      ∃ l, (extractions s q byNoise (eligibleEdges s q start) fuel t).1.get? q.dst = some l ∧
        l.AsGood byNoise (Label.origin.along s q links nodes) := by
  induction fuel generalizing t with
  | zero => cases hfuel
  | succ fuel ih =>
    obtain ⟨b, lb, hlb, hopen, hgood⟩ := exists_open_as_good hlinks hbudget hroute hnoise hroot h
    cases hnext : nextExtracted byNoise t with
    | none => exact Bool.noConfusion (hopen.symm.trans (nextExtracted_eq_none_iff.1 hnext (b, lb) (Table.get?_mem _ hlb)))
    | some x =>
      obtain ⟨u, lu⟩ := x
      have hfirst : lu.AtMost byNoise lb := atMost_of_not_precedes (x := (u, lu)) (y := (b, lb))
        ((nextExtracted_least hnext).2.2 (b, lb) (Table.get?_mem _ hlb) hopen)
      by_cases hdst : u = q.dst
      · rw [extractions_dst hnext hdst]
        exact ⟨rfl, { lu with final := true }, hdst ▸ get?_finalized_self,
          ((Label.atMost_final byNoise lu true).trans hfirst).asGood hgood⟩
      · rw [extractions_round hnext hdst]
        obtain ⟨hround, hrest⟩ := formsLabel_round hnext hdst hforms
        have hends : ∀ e ∈ eligibleEdges s q start, e.a < 256 ∧ e.b < 256 := fun e he => by
          obtain ⟨l, -, hl, -⟩ := showsLink_of_mem hlinks he
          exact linkNodes_lt hports hl
        have hless := card_openNodes_round hroot h hnext
        exact ih (hroot.round hnext) (h.round hroot hnext hdst hbudget hends hmuch hround) hrest (by omega)

/-- A search that forms no label for too much finds a route as good as any. -/
theorem routeBy_finds (hsrc : q.src < 256) {tooMuch : Label → Bool}
    (hmuch : ∀ l, ¬ Accepted q l → tooMuch l = true ∨ byNoise = true ∧ q.budget < l.noise)
    (hforms : formsLabel s q byNoise (eligibleEdges s q start) tooMuch 257 (firstLabels q) = false) :
    ∃ (r : Route) (l : Label), routeBy s q byNoise start = some r ∧ (r.cost = l.cost ∧ r.noise = l.noise ∧ r.hops = l.hops) ∧
      l.AsGood byNoise (Label.origin.along s q links nodes) := by
  have hfuel : (openNodes (firstLabels q)).card < 257 := by
    refine Nat.lt_succ_of_le ((Finset.card_filter_le _ _).trans ?_)
    rw [Finset.card_range]
  obtain ⟨hreached, l, hl, hgood⟩ := extractions_find hlinks hports hbudget hroute hnoise hmuch
    (rooted_firstLabels s q _) (settled_firstLabels hsrc byNoise _) hforms hfuel
  exact ⟨_, l, routeBy_eq_some_iff.2 ⟨hreached, l, hl, rfl⟩, ⟨rfl, rfl, rfl⟩, hgood⟩

end

end Sys2Proof.Machine

/-!
PROOFS. Every route handed back is feasible, and diverse where it must be; what a search finds, and its order (O58).
-/

namespace Sys2Proof.Machine

/-! ### The route of a query (R127, R130, R131) -/

theorem exists_of_foldl_betterAt {s : State} {q : Query} {xs : List Nat} {best : Option Route} {r : Route}
    (h : xs.foldl (betterAt s q) best = some r) : best = some r ∨ ∃ x ∈ xs, routeAt s q x = some r := by
  induction xs generalizing best with
  | nil => exact .inl h
  | cons x xs ih =>
    rcases ih h with hbest | ⟨y, hy, hr⟩
    · have hwhich : best = some r ∨ routeAt s q x = some r := by
        unfold betterAt betterRoute at hbest
        split at hbest
        · exact .inr hbest
        · exact .inl hbest
        · next hx =>
          split at hbest
          · exact .inr (hx.trans hbest)
          · exact .inl hbest
      exact hwhich.imp_right fun hr => ⟨x, List.mem_cons_self, hr⟩
    · exact .inr ⟨y, List.mem_cons_of_mem x hy, hr⟩

/-- The route the policy chooses is that of a search on an allowed start slot. -/
theorem exists_of_policyRoute {s : State} {q : Query} {r : Route} (h : policyRoute s q = some r) :
    ∃ x byNoise, StartAllowed q x ∧ routeBy s q byNoise x = some r := by
  have hslot : ∃ x ∈ allowedStarts q.inputs.mask q.width, routeAt s q x = some r := by
    unfold policyRoute at h
    split at h
    · exact List.exists_of_findSome?_eq_some h
    · obtain ⟨x, hx, hr⟩ := List.exists_of_findSome?_eq_some h
      exact ⟨x, List.mem_reverse.1 hx, hr⟩
    · exact (exists_of_foldl_betterAt h).resolve_left nofun
  obtain ⟨x, hx, hr⟩ := hslot
  have hallowed := (mem_allowedStarts.1 hx).2
  unfold routeAt at hr
  split at hr
  · exact ⟨x, false, hallowed, hr⟩
  · exact ⟨x, true, hallowed, hr⟩
  · rcases Option.or_eq_some_iff.1 hr with hr | ⟨-, hr⟩
    · exact ⟨x, false, hallowed, hr⟩
    · exact ⟨x, true, hallowed, hr⟩

/-- A route within what its query allows. -/
structure FitsQuery (q : Query) (r : Route) : Prop where
  cls : r.cls = q.cls
  width : r.width = q.width
  start : StartAllowed q r.start
  noise : r.noise ≤ q.budget
  hops : r.hops ≤ q.inputs.hops
  moves : 1 ≤ r.hops

theorem policyRoute_walk {s : State} {q : Query} {r : Route} (hlinks : s.topology.links.ascending) (hends : q.src ≠ q.dst)
    (hlimit : q.inputs.hops ≤ 20) (h : policyRoute s q = some r) :
    FitsQuery q r ∧ ∃ nodes, WalkOf s q r.start r nodes := by
  obtain ⟨x, byNoise, hallowed, hr⟩ := exists_of_policyRoute h
  obtain rfl := start_of_routeBy hr
  obtain ⟨hnoise, hhops, hmoves⟩ := routeBy_accepted hends hr
  obtain ⟨-, l, -, hroute⟩ := routeBy_eq_some_iff.1 hr
  exact ⟨⟨congrArg Route.cls hroute, congrArg Route.width hroute, hallowed, hnoise, hhops, hmoves⟩,
    routeBy_walk hlinks hends hlimit hr⟩

/-! ### The queries of a computation (R117, R118, R121, R133) -/

/-- A query of a computation for class `k` between two nodes: it excludes what the inputs exclude, and perhaps more. -/
structure QueryFor (s : State) (i : Inputs) (src dst k : Nat) (q : Query) : Prop where
  inputs : q.inputs = i
  src : q.src = src
  dst : q.dst = dst
  cls : q.cls = k
  width : q.width = (classEntry s k).width
  budget : q.budget = (classEntry s k).budget
  links : ∀ x ∈ i.exclLinks, x ∈ q.noLinks
  nodes : ∀ id ∈ i.exclNodes, id ≠ 0 → ∀ n, (findNode s id).map (·.1) = some n → n ∈ q.noNodes

section
variable {s : State} {i : Inputs} {src dst k : Nat} {q : Query}

theorem queryFor_classQuery (s : State) (i : Inputs) (src dst k : Nat) : QueryFor s i src dst k (classQuery s i src dst k) where
  inputs := rfl
  src := rfl
  dst := rfl
  cls := rfl
  width := rfl
  budget := rfl
  links _ h := h
  nodes id hid hne n hn := ((isClassQuery_classQuery s i src dst k).2 n).2 ⟨id, hid, hne, hn⟩

theorem QueryFor.ends (h : QueryFor s i src dst k q) (hends : src ≠ dst) : q.src ≠ q.dst := by rwa [h.src, h.dst]

theorem QueryFor.limit (h : QueryFor s i src dst k q) (hlimit : i.hops ≤ 20) : q.inputs.hops ≤ 20 := by rwa [h.inputs]

theorem QueryFor.withTaken (h : QueryFor s i src dst k q) (p : Route) : QueryFor s i src dst k { q with taken := some p } :=
  ⟨h.inputs, h.src, h.dst, h.cls, h.width, h.budget, h.links, h.nodes⟩

theorem QueryFor.diverse (h : QueryFor s i src dst k q) (r : Option Route) : QueryFor s i src dst k (q.diverse s r) := by
  obtain ⟨hsame, hlinks, hnodes⟩ := isDiverseQuery_diverse s q r
  exact
    { inputs := (congrArg Query.inputs hsame).trans h.inputs
      src := (congrArg Query.src hsame).trans h.src
      dst := (congrArg Query.dst hsame).trans h.dst
      cls := (congrArg Query.cls hsame).trans h.cls
      width := (congrArg Query.width hsame).trans h.width
      budget := (congrArg Query.budget hsame).trans h.budget
      links := fun x hx => (hlinks x).2 (.inl (h.links x hx))
      nodes := fun id hid hne n hn => (hnodes n).2 (.inl (h.nodes id hid hne n hn)) }

end

/-! ### What a computation hands back (R119, R134, R137) -/

/-- A computation has succeeded for class `k`: its primary is the route of the query for the primary, its backup that for the backup. -/
structure HandsBack (s : State) (i : Inputs) (c : Computed) (k : Nat) (p : Route) : Prop where
  ends : c.src ≠ c.dst
  cls : c.cls = some k
  known : ∀ m, i.cls = some m → k = m
  served : classServed s c.src c.dst k = true
  primary : c.primary = some p
  found : policyRoute s ((classQuery s i c.src c.dst k).diverse s i.reference) = some p
  backup : ∀ r, c.backup = some r → policyRoute s (backupQuery s (classQuery s i c.src c.dst k) p) = some r

theorem classResult_found {s : State} {i : Inputs} {a b k : Nat} {p : Route} {backup : Option Route} {o : ReqOutcome}
    (h : classResult s i a b k = .found p backup o) : policyRoute s ((classQuery s i a b k).diverse s i.reference) = some p ∧
      ∀ r, backup = some r → policyRoute s (backupQuery s (classQuery s i a b k) p) = some r := by
  simp only [classResult] at h
  split at h
  · cases h
  · next p' hp =>
    split at h
    · cases h
      exact ⟨hp, nofun⟩
    · split at h
      · next r hr =>
        cases h
        exact ⟨hp, fun r' hr' => hr.trans hr'⟩
      · split at h
        · cases h
        · cases h
          exact ⟨hp, nofun⟩

/-- The answer of a class carries no route, or the class has succeeded. -/
theorem classAnswer_handsBack {s : State} {i : Inputs} {a b k : Nat} (hends : a ≠ b) (hknown : ∀ m, i.cls = some m → k = m) :
    (classAnswer s i a b k).primary = none ∧ (classAnswer s i a b k).backup = none ∨
      ∃ p, HandsBack s i (classAnswer s i a b k) k p := by
  cases hserved : classServed s a b k with
  | false =>
    refine .inl ?_
    simp [classAnswer, hserved, handsOn]
  | true =>
    cases hresult : classResult s i a b k with
    | noPrimary =>
      rw [classAnswer_eq hserved hresult]
      exact .inl ⟨rfl, rfl⟩
    | noBackup =>
      rw [classAnswer_eq hserved hresult]
      exact .inl ⟨rfl, rfl⟩
    | found p backup o =>
      rw [classAnswer_eq hserved hresult]
      obtain ⟨hp, hbackup⟩ := classResult_found hresult
      exact .inr ⟨p, hends, rfl, hknown, hserved, rfl, hp, hbackup⟩

theorem firstAnswer_cases (given : Nat → Computed) (a b : Nat) (ks : List Nat) (seen : ReqOutcome) :
    (∃ o, firstAnswer given a b ks seen = handsOn o a b) ∨ ∃ k ∈ ks, firstAnswer given a b ks seen = given k := by
  induction ks generalizing seen with
  | nil => exact .inl ⟨seen, rfl⟩
  | cons k ks ih =>
    rw [firstAnswer]
    split
    · exact .inr ⟨k, List.mem_cons_self, rfl⟩
    · exact (ih _).imp_right fun ⟨m, hm, h⟩ => ⟨m, List.mem_cons_of_mem k hm, h⟩

/-- A class that a computation tries is the known one, if one is known. -/
theorem eq_of_mem_classesTried {i : Inputs} {k m : Nat} (hk : k ∈ classesTried i) (hm : i.cls = some m) : k = m := by
  simpa [classesTried, hm] using hk

theorem compute_handsBack (s : State) (i : Inputs) (e : Engine) :
    (compute s i e).2.primary = none ∧ (compute s i e).2.backup = none ∨ ∃ k p, HandsBack s i (compute s i e).2 k p := by
  cases hsrc : findNode s i.srcId with
  | none =>
    rw [compute_unknownNode (.inl hsrc)]
    exact .inl ⟨rfl, rfl⟩
  | some x =>
    cases hdst : findNode s i.dstId with
    | none =>
      rw [compute_unknownNode (.inr hdst)]
      exact .inl ⟨rfl, rfl⟩
    | some y =>
      by_cases hends : x.1 = y.1
      · rw [compute_sameNode (a := x.1) (x := x.2) (b := y.1) (y := y.2) hsrc hdst hends]
        exact .inl ⟨rfl, rfl⟩
      · rw [compute_classes (a := x.1) (x := x.2) (b := y.1) (y := y.2) hsrc hdst hends]
        rcases firstAnswer_cases (classAnswer s i x.1 y.1) x.1 y.1 (classesTried i) .classUnsupported with
          ⟨o, ho⟩ | ⟨k, hk, hanswer⟩
        · rw [ho]
          exact .inl ⟨rfl, rfl⟩
        · rw [hanswer]
          exact (classAnswer_handsBack hends fun m hm => eq_of_mem_classesTried hk hm).imp_right fun h => ⟨k, h⟩

/-! ### The feasibility of a route (R119 to R122, R125, R128) -/

/-- The slots reserved on a link, those of a computation's own route excepted (R121). -/
def othersReserved (s : State) (i : Inputs) (k : Nat) : SlotSet :=
  match i.own with
  | some o => if k ∈ o.links then reservedOn s k &&& ~~~o.range else reservedOn s k
  | none => reservedOn s k

theorem and_eq_zero_of_and_or {a b c : SlotSet} (h : a &&& (b ||| c) = 0) : a &&& b = 0 := by
  have habsorb : a &&& b = a &&& (b ||| c) &&& b := by
    rw [BitVec.and_assoc, BitVec.and_comm _ b]
    ext j
    cases hb : b[j] <;> simp [hb]
  rw [habsorb, h]
  exact BitVec.zero_and

theorem reservedFor_eq (s : State) (q : Query) (k : Nat) : reservedFor s q k =
    match q.taken with
    | some r => if k ∈ r.links then othersReserved s q.inputs k ||| r.range else othersReserved s q.inputs k
    | none => othersReserved s q.inputs k := rfl

/-- What is free for a backup search is free of the reservations of others. -/
theorem and_othersReserved {s : State} {q : Query} {k : Nat} {range : SlotSet} (h : range &&& reservedFor s q k = 0) :
    range &&& othersReserved s q.inputs k = 0 := by
  rw [reservedFor_eq] at h
  split at h
  · split at h
    · exact and_eq_zero_of_and_or h
    · exact h
  · exact h

/-- Link `k` may carry a route's slots, between two nodes of which each may be passed. -/
def LinkFeasible (s : State) (i : Inputs) (src dst : Nat) (r : Route) (k : Nat) : Prop :=
  ∃ l a b, s.topology.links.get? k = some l ∧ linkNodes s l = some (a, b) ∧ l.state = .up ∧
    l.attrs.nu < 65535 ∧ k ∉ i.exclLinks ∧ r.range &&& l.attrs.foreign = 0 ∧ r.range &&& othersReserved s i k = 0 ∧
    ∀ n, n = a ∨ n = b →
      (∀ x ∈ i.exclNodes, x ≠ 0 → (findNode s x).map (·.1) ≠ some n) ∧
      slotsIn r.range (domainProfile s (nodeDomain s n)).slots = true ∧ domainHasClass s (nodeDomain s n) r.cls = true ∧
      ((domainProfile s (nodeDomain s n)).transit = true ∨ nodeDomain s n = nodeDomain s src ∨ nodeDomain s n = nodeDomain s dst)

section
variable {s : State} {i : Inputs} {src dst k : Nat} {q : Query} {r : Route}

theorem QueryFor.linkFeasible (h : QueryFor s i src dst k q) (hfits : FitsQuery q r) {j : Nat} (husable : Usable s q r.start j) :
    LinkFeasible s i src dst r j := by
  obtain ⟨l, a, b, hget, hends, hup, hnu, hlink, ha, hb, -, hforeign, hreserved, htakesA, htakesB⟩ := husable
  have hrange : r.range = slotRange r.start q.width := by rw [Route.range, hfits.width]
  rw [← hrange] at hforeign hreserved htakesA htakesB
  refine ⟨l, a, b, hget, hends, hup, hnu, fun hj => hlink (h.links j hj), hforeign, h.inputs ▸ and_othersReserved hreserved, ?_⟩
  have hnode : ∀ n, n ∉ q.noNodes → DomainTakes s q r.range n →
      (∀ x ∈ i.exclNodes, x ≠ 0 → (findNode s x).map (·.1) ≠ some n) ∧
      slotsIn r.range (domainProfile s (nodeDomain s n)).slots = true ∧ domainHasClass s (nodeDomain s n) r.cls = true ∧
      ((domainProfile s (nodeDomain s n)).transit = true ∨ nodeDomain s n = nodeDomain s src ∨
        nodeDomain s n = nodeDomain s dst) := fun n hn htakes =>
    ⟨fun x hx hne hfound => hn (h.nodes x hx hne n hfound), htakes.slots, hfits.cls ▸ htakes.cls, h.src ▸ h.dst ▸ htakes.transit⟩
  rintro n (rfl | rfl)
  · exact hnode n ha htakesA
  · exact hnode n hb htakesB

/-- A route is feasible for a computation for class `k` between two nodes. -/
structure Feasible (s : State) (i : Inputs) (src dst k : Nat) (r : Route) : Prop where
  cls : r.cls = k
  noise : r.noise ≤ (classEntry s k).budget
  moves : 1 ≤ r.hops
  hops : r.hops ≤ i.hops
  length : r.links.length = r.hops
  width : r.width = (classEntry s k).width
  onGrid : r.start + r.width ≤ 80 ∧ r.start % r.width = 0
  mask : slotsIn r.range i.mask = true
  cost : r.cost = costOfLinks s r.links
  walk : ∃ nodes : List Nat, nodes.head? = some src ∧ nodes.getLast? = some dst ∧ nodes.Nodup ∧
    joinsInOrder s r.links nodes ∧ r.noise = walkedNoise s src 0 r.links nodes ∧
    ∀ n ∈ nodes, n ≠ src → n ≠ dst → (s.topology.nodes.get? n).map (·.transit) = some true
  links : ∀ j ∈ r.links, LinkFeasible s i src dst r j

/-- The route of a computation's query is feasible. -/
theorem QueryFor.feasible (h : QueryFor s i src dst k q) (hlinks : s.topology.links.ascending) (hends : src ≠ dst)
    (hlimit : i.hops ≤ 20) (hr : policyRoute s q = some r) : Feasible s i src dst k r := by
  obtain ⟨hfits, nodes, hwalk⟩ := policyRoute_walk hlinks (h.ends hends) (h.limit hlimit) hr
  obtain ⟨hgrid, hroom, hmask⟩ := hfits.start
  have hroute := hwalk.isRoute
  exact
    { cls := hfits.cls.trans h.cls
      noise := h.budget ▸ hfits.noise
      moves := hfits.moves
      hops := h.inputs ▸ hfits.hops
      length := hwalk.length
      width := hfits.width.trans h.width
      onGrid := by
        rw [hfits.width]
        exact ⟨hroom, hgrid⟩
      mask := by
        rw [Route.range, hfits.width, ← h.inputs]
        exact hmask
      cost := hwalk.cost
      walk := ⟨nodes, h.src ▸ hroute.first, h.dst ▸ hroute.last, hroute.once, hroute.joined, h.src ▸ hwalk.noise,
        h.src ▸ h.dst ▸ hroute.transit⟩
      links := fun j hj => h.linkFeasible hfits (hroute.usable j hj) }

end

/-! ### Diversity (R133) -/

theorem mem_routeNodes {s : State} {r : Route} {n : Nat} (h : n ∈ routeNodes s r) :
    ∃ k ∈ r.links, ∃ l a b, s.topology.links.get? k = some l ∧ linkNodes s l = some (a, b) ∧ (n = a ∨ n = b) := by
  obtain ⟨k, hk, hn⟩ := List.mem_flatMap.1 h
  split at hn
  · next a b hends =>
    obtain ⟨l, hget, hl⟩ := Option.bind_eq_some_iff.1 hends
    exact ⟨k, hk, l, a, b, hget, hl, by simpa using hn⟩
  · cases hn

/-- A route over links usable for a diverse query is diverse from the reference route. -/
theorem diverseFrom_of_usable {s : State} {i : Inputs} {src dst k start : Nat} {q : Query} {r other : Route}
    (h : QueryFor s i src dst k q) (husable : ∀ j ∈ r.links, Usable s (q.diverse s (some other)) start j) :
    DiverseFrom s i src dst r other := by
  obtain ⟨-, hlinks, hnodes⟩ := isDiverseQuery_diverse s q (some other)
  refine ⟨fun j hj hother => ?_, fun j hj l hl g hg hother => ?_, fun hdiverse n hn hother => ?_⟩
  · obtain ⟨l, a, b, -, -, -, -, hno, -⟩ := husable j hj
    exact hno ((hlinks j).2 (.inr ⟨other, rfl, .inl hother⟩))
  · obtain ⟨l', a, b, -, -, -, -, hno, -⟩ := husable j hj
    exact hno ((hlinks j).2 (.inr ⟨other, rfl, .inr ⟨l, Table.get?_mem _ hl, g, hg, hother⟩⟩))
  · by_contra hinner
    obtain ⟨hsrc, hdst⟩ := not_or.1 hinner
    have hexcluded : n ∈ (q.diverse s (some other)).noNodes :=
      (hnodes n).2 (.inr ⟨other, rfl, h.inputs ▸ hdiverse, hother, h.src ▸ hsrc, h.dst ▸ hdst⟩)
    obtain ⟨j, hj, l, a, b, hget, hends, hn⟩ := mem_routeNodes hn
    obtain ⟨l', a', b', hget', hends', -, -, -, ha, hb, -⟩ := husable j hj
    obtain rfl := Option.some.inj (hget.symm.trans hget')
    obtain ⟨rfl, rfl⟩ := Prod.mk.inj (Option.some.inj (hends.symm.trans hends'))
    rcases hn with rfl | rfl
    · exact ha hexcluded
    · exact hb hexcluded

section
variable {s : State} {i : Inputs} {c : Computed} {k : Nat} {p : Route} (h : HandsBack s i c k p)
  (hlinks : s.topology.links.ascending) (hlimit : i.hops ≤ 20)
include h hlinks hlimit

theorem HandsBack.feasible {r : Route} (hr : c.primary = some r ∨ c.backup = some r) : Feasible s i c.src c.dst k r := by
  have hquery := queryFor_classQuery s i c.src c.dst k
  rcases hr with hr | hr
  · obtain rfl := Option.some.inj (h.primary.symm.trans hr)
    exact (hquery.diverse _).feasible hlinks h.ends hlimit h.found
  · exact ((hquery.withTaken p).diverse _).feasible hlinks h.ends hlimit (h.backup r hr)

theorem HandsBack.diverse_backup {b : Route} (hb : c.backup = some b) : DiverseFrom s i c.src c.dst b p := by
  have hquery := (queryFor_classQuery s i c.src c.dst k).withTaken p
  have hdiverse := hquery.diverse (some p)
  obtain ⟨-, nodes, hwalk⟩ := policyRoute_walk hlinks (hdiverse.ends h.ends) (hdiverse.limit hlimit)
    (h.backup b hb)
  exact diverseFrom_of_usable hquery hwalk.isRoute.usable

theorem HandsBack.diverse_primary {r : Route} (hr : i.reference = some r) : DiverseFrom s i c.src c.dst p r := by
  have hquery := queryFor_classQuery s i c.src c.dst k
  have hdiverse := hquery.diverse i.reference
  obtain ⟨-, nodes, hwalk⟩ := policyRoute_walk hlinks (hdiverse.ends h.ends) (hdiverse.limit hlimit) h.found
  exact diverseFrom_of_usable hquery (hr ▸ hwalk.isRoute.usable)

end

/-! ### What a search finds (R128) -/

section
variable {s : State} {q : Query} {start : Nat} {links nodes : List Nat} (hlinks : s.topology.links.ascending)
  (hports : ∀ x ∈ s.topology.ports, x.2.node < 256) (hsrc : q.src < 256) (hbudget : q.budget < 65535)
  (hroute : IsRoute s q start links nodes)
include hlinks hports hsrc hbudget hroute

/-- A COST search that rejects no label finds a route that is no worse in cost, then noise, then hops. -/
theorem costSearch_finds (hforms : rejectsLabel s q start false = false) : ∃ r, routeBy s q false start = some r ∧
    (r.cost < costOfLinks s links ∨ r.cost = costOfLinks s links ∧ (r.noise < walkedNoise s q.src 0 links nodes ∨
      r.noise = walkedNoise s q.src 0 links nodes ∧ r.hops ≤ links.length)) := by
  have hmuch : ∀ l : Label, ¬ Accepted q l → (decide (q.budget < l.noise) || decide (q.inputs.hops < l.hops)) = true ∨
      false = true ∧ q.budget < l.noise := fun l hl => .inl (by
    simpa only [Bool.or_eq_true, decide_eq_true_eq, accepted_iff, not_not] using hl)
  obtain ⟨r, l, hr, ⟨hcost, hnoise, hhops⟩, hgood⟩ :=
    routeBy_finds (byNoise := false) hlinks hports hbudget hroute nofun hsrc hmuch hforms
  refine ⟨r, hr, ?_⟩
  simp only [Label.AsGood, Label.AtMost, Label.less_cost, Label.along, Label.origin, Nat.zero_add] at hgood
  omega

/-- A NOISE search that rejects no label for its hops finds a route as quiet as any within the budget. -/
theorem noiseSearch_finds (hforms : rejectsHops s q start true = false)
    (hwithin : walkedNoise s q.src 0 links nodes ≤ q.budget) :
    ∃ r, routeBy s q true start = some r ∧ r.noise ≤ walkedNoise s q.src 0 links nodes := by
  have hmuch : ∀ l : Label, ¬ Accepted q l → decide (q.inputs.hops < l.hops) = true ∨ true = true ∧ q.budget < l.noise :=
    fun l hl => by
      rw [accepted_iff, not_not] at hl
      exact hl.symm.imp decide_eq_true fun hnoise => ⟨rfl, hnoise⟩
  obtain ⟨r, l, hr, ⟨-, hnoise, -⟩, hgood⟩ := routeBy_finds hlinks hports hbudget hroute (fun _ => hwithin) hsrc hmuch hforms
  exact ⟨r, hr, hnoise.trans_le hgood⟩

end

/-! ### The tie breaks (R124, R126) -/

/-- The extracted label comes before that of any other node. -/
theorem nextExtracted_first {byNoise : Bool} {labels : Table Label} {u v : Nat} {lu lv : Label}
    (h : nextExtracted byNoise labels = some (u, lu)) (hv : (v, lv) ∈ labels) (hopen : lv.final = false) (hne : v ≠ u) :
    lexLess (if byNoise then [lu.noise, lu.cost, lu.hops, u] else [lu.cost, lu.noise, lu.hops, u])
      (if byNoise then [lv.noise, lv.cost, lv.hops, v] else [lv.cost, lv.noise, lv.hops, v]) = true := by
  have hfirst : Precedes byNoise (u, lu) (v, lv) := precedes_of_not ((nextExtracted_least h).2.2 (v, lv) hv hopen) hne
  cases byNoise <;> exact hfirst

section
variable {s : State} {q : Query} {byNoise : Bool} {es : List Edge} {u v : Nat} {lu old : Label} {labels : Table Label} {e : Edge}
  (hcross : e.Crosses u v) (haccept : Accepted q (offered s q u lu e)) (hv : labels.get? v = some old) (hopen : old.final = false)
include hcross haccept hv hopen

/-- An offered label replaces one that is not final when its key is smaller, or the same and its predecessor node lower. -/
theorem relax_replaced (h : (offered s q u lu e).Less byNoise old ∨
      (offered s q u lu e).key byNoise = old.key byNoise ∧ ∃ w, predNode es v old = some w ∧ u < w) :
    relax s q byNoise es u lu labels e = labels.set v (offered s q u lu e) := by
  rw [relax_open hcross haccept hv hopen, if_pos ((replaces_iff byNoise es u v _ old).2 h)]

/-- And in no other case. -/
theorem relax_kept (h : ¬ (offered s q u lu e).Less byNoise old)
    (hequal : ¬ ((offered s q u lu e).key byNoise = old.key byNoise ∧ ∃ w, predNode es v old = some w ∧ u < w)) :
    relax s q byNoise es u lu labels e = labels := by
  rw [relax_open hcross haccept hv hopen, if_neg fun hreplaces =>
    not_or.2 ⟨h, hequal⟩ ((replaces_iff byNoise es u v _ old).1 hreplaces)]

end

theorem Label.less_iff (byNoise : Bool) (new old : Label) : new.Less byNoise old ↔ if byNoise then
      new.noise < old.noise ∨ new.noise = old.noise ∧ (new.cost < old.cost ∨ new.cost = old.cost ∧ new.hops < old.hops)
    else new.cost < old.cost ∨ new.cost = old.cost ∧ (new.noise < old.noise ∨ new.noise = old.noise ∧ new.hops < old.hops) := by
  cases byNoise
  · exact Label.less_cost new old
  · exact Label.less_noise new old

/-- Settles O58: a computation's routes are those of searches, whose labels stand for walks over usable links; the rounds of a search
keep its labels as good as any such walk; and the comparison of keys decides extraction and relaxation. -/
theorem computedRoutesAreFeasible : Obligations.ComputedRoutesAreFeasible := by
  refine ⟨fun s i e c htables hlimit hc => ?_, fun s q start links nodes htables hports _ hsrc hbudget hroute => ?_,
    fun s q byNoise start r hends hr => ?_, fun byNoise labels => ⟨nextExtracted_eq_none_iff, fun u lu h => ?_⟩,
    fun s q byNoise es u v lu new labels e hcross hends hnew hnu => ?_⟩
  · obtain ⟨⟨-, -, hlinks⟩, -⟩ := htables
    rcases hc ▸ compute_handsBack s i e with ⟨hprimary, hbackup⟩ | ⟨k, p, h⟩
    · rw [hprimary, hbackup]
      exact ⟨nofun, nofun, nofun⟩
    · refine ⟨fun r hr => ?_, fun p' b hp hb => ?_, fun p' r hp hr => ?_⟩
      · obtain ⟨rfl, hnoise, hmoves, hhops, hlength, hwidth, ⟨hroom, hgrid⟩, hmask, hcost, hwalk, hfeasible⟩ :=
          h.feasible hlinks hlimit hr
        obtain ⟨hclsSrc, hclsDst⟩ := (classServed_iff s _ _ _).1 h.served
        exact ⟨⟨h.cls, h.known, hclsSrc, hclsDst⟩, hnoise, hmoves, hhops, hlength, hwidth, hroom, hgrid, hmask, hcost, hwalk,
          hfeasible⟩
      · obtain rfl := Option.some.inj (h.primary.symm.trans hp)
        exact h.diverse_backup hlinks hlimit hb
      · obtain rfl := Option.some.inj (h.primary.symm.trans hp)
        exact h.diverse_primary hlinks hlimit hr
  · obtain ⟨⟨-, -, hlinks⟩, -⟩ := htables
    exact ⟨costSearch_finds hlinks hports hsrc hbudget hroute, noiseSearch_finds hlinks hports hsrc hbudget hroute⟩
  · obtain ⟨hnoise, hhops, -⟩ := routeBy_accepted hends hr
    exact ⟨hnoise, hhops⟩
  · obtain ⟨hmem, hopen, -⟩ := nextExtracted_least h
    exact ⟨hmem, hopen, fun v lv hv hvopen hne => nextExtracted_first h hv hvopen hne⟩
  · have hcross : e.Crosses u v := hcross
    obtain rfl : new = offered s q u lu e := hnew.trans (offered_eq lu hcross hnu).symm
    intro rejected smaller equal
    have hreject : rejected ↔ ¬ Accepted q (offered s q u lu e) := by rw [accepted_iff, not_not]
    have hsmaller : ∀ old, smaller old ↔ (offered s q u lu e).Less byNoise old := fun old => (Label.less_iff byNoise _ old).symm
    have hequal : ∀ old, equal old ↔ (offered s q u lu e).key byNoise = old.key byNoise := fun old =>
      (Label.key_eq_iff byNoise _ old).symm
    simp only [hreject, hsmaller, hequal, not_not]
    exact ⟨relax_rejected hcross, relax_empty hcross, fun old haccept hv => ⟨relax_final hcross haccept hv,
      relax_replaced hcross haccept hv, relax_kept hcross haccept hv⟩⟩

end Sys2Proof.Machine
